-- ==== Sys2Proof/Word.lean ====
section
/-! DEFINITION. The word types of the Guyth Iczel (00_scope R3, R6) and their plainest arithmetic. -/

namespace Sys2Proof

abbrev Byte := BitVec 8
abbrev W16 := BitVec 16
abbrev W32 := BitVec 32
abbrev W64 := BitVec 64
abbrev W128 := BitVec 128
/-- A register number field (R61, R62). -/
abbrev Reg := BitVec 6
/-- Bit l stands for lane l (R20: 32 lanes). -/
abbrev LaneMask := BitVec 32

/-- A register pair: low word first (R6). -/
def pair (hi lo : W32) : W64 := hi ++ lo

def W64.lo (w : W64) : W32 := w.extractLsb' 0 32
def W64.hi (w : W64) : W32 := w.extractLsb' 32 32

/-- Bits [56:0] kept and bits [63:57] copied from bit 56 (R40, R49, R340). -/
def canon57 (a : Nat) : Nat := ((BitVec.ofNat 57 a).signExtend 64).toNat

/-- R340: bits [63:57] all equal bit 56. -/
def isCanonical (a : Nat) : Bool := decide (a < 2 ^ 64) && (canon57 a == a)

/-- The 32 lane numbers in ascending order (R7). -/
def laneNums : List Nat := List.range 32

def laneBit (m : LaneMask) (l : Nat) : Bool := m.getLsbD l

/-- The mask of the lanes that satisfy a test. -/
def maskOf (f : Nat → Bool) : LaneMask :=
  laneNums.foldl (fun m l => if f l then m ||| (1#32 <<< l) else m) 0#32

/-- The lanes of a mask, ascending. -/
def lanesOf (m : LaneMask) : List Nat := laneNums.filter (laneBit m)

/-- A table of n values. -/
def tab {α : Type} (n : Nat) (f : Nat → α) : List α := (List.range n).map f

/-- Ceiling of a / b. -/
def ceilDiv (a b : Nat) : Nat := (a + b - 1) / b

end Sys2Proof
end

