-- ==== Sys2Proof/Config.lean ====
section
/-! DEFINITION. What the part fixes, and the free values that the manual leaves open. -/

namespace Sys2Proof.Config

/-- A value that the manual leaves undefined; the argument is a fresh number each time. It has no body. -/
opaque freeValue : Nat → Nat

/-- R356: byte i of the material of a key slot that the manual does not show: slot 0, which firmware loads and never
exports, and any slot while it is empty. It has no body. -/
opaque hiddenKey : Nat → Nat → Byte

/-- R272: what a video decoder has read before it writes: the parameters of its card, the bitstream and the state block. -/
structure Coded where
  params : List Byte
  bits : List Byte
  block : List Byte
  deriving DecidableEq, Repr

/-- R272: a byte that a video decoder writes, by what it has read, the bytes of the reference pool that it reads for the byte's
chunk, and the byte's number in the picture, the state block behind it. The manual names the codec standards and does not
contain them. It has no body. -/
opaque decodedByte : Coded → List Byte → Nat → Byte

/-- R272: what a decoder reads of its reference pool for a chunk of its picture: 4-KiB pieces, each by its slot and its offset
in it. The bitstream's standard fixes them. It has no body. -/
opaque decodeRefs : Coded → Nat → List (Nat × Nat)

/-- R272: the bitstream is in error by its standard. It has no body. -/
opaque decodeError : Coded → Bool

/-- R425: the certificate chain of the device, its digests, the responses to a challenge (by nonce and a fresh number) and
the five measurements: of the boot ROM, of the running image, of the translator in it, of the fused security version and key
digest, and of IDENT and SERIAL. The standards that lay them out are outside the manual. They have no body. -/
opaque certChain : List Byte
opaque certDigests : List Byte
opaque challengeReply : Nat → Nat → List Byte
opaque measureRom : List Byte
opaque measureImage : List Byte → List Byte
opaque measureTranslator : List Byte → List Byte
opaque measureFuses : Nat → Nat → List Byte
opaque measureIdentity : Nat → Nat → List Byte

/-- R425: what the verification of a firmware image finds: whether its form is wrong, whether its RSASSA-PSS signature fails,
the SHA-256 digest of the key that signed it, and its security version. -/
structure FwImage where
  malformed : Bool
  badSignature : Bool
  keyDigest : Nat
  version : Nat
  deriving DecidableEq, Repr, Inhabited

/-- R425: the form of an image stands outside the manual: what its bytes hold, how many bytes a complete image has, the image
that the part comes with, and the digest that is fused into it. They have no body. -/
opaque fwImage : List Byte → FwImage
opaque fwImageBytes : Nat
opaque partImage : List Byte
opaque fusedDigest : Nat

/-- R425: RESULT of a verification against the fused minimum. -/
def FwImage.verdict (i : FwImage) (fused : Nat) : Nat :=
  if i.malformed then 3 else if i.badSignature || i.keyDigest != fusedDigest then 1 else if i.version < fused then 2 else 0

/-- R419: the FORM (IZ2-M rather than IZ2-P), STEPPING and serial number of the part. They have no body. -/
opaque onModule : Bool
opaque stepping : BitVec 4
opaque serial : W64

/-! ## Sizes of R18 -/

def cores : Nat := 384
def coresPerDie : Nat := 192
def hbmBytes : Nat := 768 * 2 ^ 30
def dieBytes : Nat := 384 * 2 ^ 30
def spadBytes : Nat := 512 * 1024
def bankBytes : Nat := 256 * 1024
def warpSlots : Nat := 48
def copySlots : Nat := 8
def mathsSlots : Nat := 2
def epiSlots : Nat := 32
def vregFileBytes : Nat := 256 * 1024
def copiesInFlight : Nat := 128
def barrierRecords : Nat := 32
def taskSlots : Nat := 8
def tlbEntries : Nat := 64

/-- R14, R15, R18: lines of 128 bytes in an L1 (128 KiB), in a die's RDC (24 MiB) and in a slice of L2 (1 MiB). -/
def l1Lines : Nat := 1024
def rdcLines : Nat := 196608
def sliceLines : Nat := 8192

/-- R16: engines of the package by the KIND of a job card: transform engines, video decoders and scalers, half of them on
each die. -/
def engines (kind : Nat) : Nat := match kind with | 1 => 16 | 2 => 8 | _ => 4
def dieOfEngine (kind e : Nat) : Nat := e / (engines kind / 2)

/-- R17: the die of a fabric port, and of the PCIe interface. -/
def dieOfPort (p : Nat) : Nat := p / 9
def dieOfPcie : Nat := 0

/-- R10. -/
def dieOfCore (c : Nat) : Nat := c / coresPerDie
/-- R12: the home die of an HBM address. -/
def homeDie (pa : Nat) : Nat := if pa < dieBytes then 0 else 1
/-- R13: the L2 slice, within its die, that serves an HBM address. -/
def sliceOf (pa : Nat) : Nat := ((pa - homeDie pa * dieBytes) / 256) % 96

/-- R13: the HBM stack, within its die, that a slice is attached to. -/
def stackOf (pa : Nat) : Nat := sliceOf pa / 16

/-- R11, R18: a clock island: a core, a pair of L2 slices of a die, or one of a die's 16 other islands. -/
inductive Island where
  | core (c : Nat)
  | slicePair (die i : Nat)
  | other (die k : Nat)
  deriving DecidableEq, Repr

/-- The island of a number below 512: 384 cores, then 48 slice pairs and then 16 others of each die. The manual gives the
counts and no numbers: DESIGN CHOICE, notes/assumptions/132.md. -/
def islandOf (n : Nat) : Island :=
  if n < 384 then .core n
  else if n < 480 then .slicePair ((n - 384) / 48) ((n - 384) % 48)
  else .other ((n - 480) / 16) ((n - 480) % 16)

/-- R11: slices 2i and 2i + 1 of a die share an island; pavilion p of a die is served by slice p. -/
def islandOfSlice (die slice : Nat) : Island := .slicePair die (slice / 2)
def sliceOfPavilion (p : Nat) : Nat := p

/-- R52, R53: masks of the writable bits. -/
def fpflagsMask : W32 := 0x1F#32
def tcauseMask : W32 := 0x3F#32

/-- R96: the fixed capability values, by index; index 0x000C is not fixed. -/
def capability (i : Nat) : Option Nat :=
  match i with
  | 0x0000 => some 1
  | 0x0001 => some 0x1C2E
  | 0x0002 => some 2
  | 0x0003 => some 384
  | 0x0004 => some 786432
  | 0x0005 => some 512
  | 0x0006 => some 512
  | 0x0007 => some 256
  | 0x0008 => some 0xFF
  | 0x0009 => some 0xEC
  | 0x000A => some 3
  | 0x000B => some 0x00100408
  | 0x000D => some 3
  | 0x000E => some 16
  | 0x000F => some 0x02BC0578
  | _ => none

end Sys2Proof.Config
end

