-- ==== Sys2Proof/Syntax.lean ====
section
/-! DEFINITION. The abstract syntax: one constructor for every row of spec/opcode_table.json.
The 209 instruction words of R67 and R69 come first, then the unallocated opcode (R71), then the steps
that engines, units, the host and the command processor take (95_what_each_step_holds). -/

namespace Sys2Proof

/-- R65 SCOPE. -/
inductive Scope where | core | die | device | system deriving DecidableEq, Repr
/-- R65 ORD. -/
inductive Ord where | plain | rlx | acq | rel | acqrel deriving DecidableEq, Repr
/-- R65 SIZE, named by the width in bits. -/
inductive Size where | b8 | b16 | b32 | b64 | b128 deriving DecidableEq, Repr
/-- R65 AOP. -/
inductive Aop where
  | add | min | max | minn | maxn | and | or | xor | exch | cas | fadd | fmin | fmax | incwrap | decwrap
  deriving DecidableEq, Repr
/-- R150 COND. -/
inductive Cond where | eq | ne | lt | le | gt | ge | num | nan deriving DecidableEq, Repr
/-- R150 BOP. -/
inductive Bop where | and | or | xor deriving DecidableEq, Repr
/-- R140 type codes. -/
inductive Ty where
  | s32 | n32 | s16 | n16 | s8 | n8 | f32 | f16 | bf16 | e5m2 | e4m3 | e3m2 | e2m3 | e2m1 | s64 | n64
  deriving DecidableEq, Repr
/-- R124 rounding modes. -/
inductive Rm where | rn | rz | rm | rp deriving DecidableEq, Repr
/-- R163 OPC. -/
inductive RedOp where
  | add | min | max | minn | maxn | and | or | xor | fadd | fmin | fmax deriving DecidableEq, Repr
/-- R88 MODE. -/
inductive ShflMode where | pick | rotd | rotu | bfly deriving DecidableEq, Repr
/-- R89 MODE. -/
inductive VoteMode where | mask | count | all | any | unif deriving DecidableEq, Repr
/-- R150 T. -/
inductive CmpT where | s32 | n32 | f32 deriving DecidableEq, Repr
/-- R309 CLS, and R29 GCLASS. -/
inductive GbarCls where | pavilion | die | device deriving DecidableEq, Repr

/-- Head of a lane word (R61): END, GN and GP. -/
structure LaneHdr where
  fin : Bool
  neg : Bool
  gp : BitVec 3
  deriving DecidableEq, Repr

/-- Head of a warp word (R62): END and QG. -/
structure WarpHdr where
  fin : Bool
  qg : BitVec 3
  deriving DecidableEq, Repr

/-- A transfer that is processed in chunks (R261): a copy of a core's outstanding-copy table, or
an engine job named by context, stream and ticket. -/
inductive Xfer where
  | copy (core copy : Nat)
  | job (ctx stream ticket : Nat)
  deriving DecidableEq, Repr

/-- The host's answers to a page request (R349). -/
inductive PriAnswer where | success | invalid | failure deriving DecidableEq, Repr

/-- What comes back for a fabric request (R369, R371, R411, R403 kind 0x11). -/
inductive FabricAnswer where | done | refused | portFailed | dataError deriving DecidableEq, Repr

/-- A request that another device sends over the fabric (R363). A write's byte enables leave out the bytes that are none. -/
inductive RemoteReq where
  | read (pa len : Nat)
  | write (pa : Nat) (bytes : List (Option Byte))
  | atomic (pa : Nat) (size : Size) (aop : Aop) (x x2 : W128)
  | discard (pa : Nat)
  deriving DecidableEq, Repr

/-- A request of a PCIe peer at the peer aperture (R423, R424). -/
inductive PeerOp where
  | read (len : Nat)
  | write (bytes : List Byte)
  deriving DecidableEq, Repr

/-- A protected unit of storage (R403, R405): HBM by physical address, or a core's or die's own storage by its
storage kind, the core or die number and an index. -/
inductive StoreUnit where
  | hbm (pa : Nat)
  | onChip (kind : BitVec 8) (owner index : Nat)
  deriving DecidableEq, Repr

/-- The module conditions of R426. -/
inductive ModuleFault where | vr | flow | temperature deriving DecidableEq, Repr

/-- One constructor per row of spec/opcode_table.json. -/
inductive Instr where
  /-- IADD (R144). -/
  | iadd (h : LaneHdr) (vd va vb : Reg)
  /-- ISUB (R144). -/
  | isub (h : LaneHdr) (vd va vb : Reg)
  /-- IADDI (R144). -/
  | iaddi (h : LaneHdr) (vd va : Reg) (imm : W32)
  /-- IABSD (R144). -/
  | iabsd (h : LaneHdr) (vd va vb : Reg)
  /-- IMIN (R144). -/
  | imin (h : LaneHdr) (vd va vb : Reg)
  /-- IMAX (R144). -/
  | imax (h : LaneHdr) (vd va vb : Reg)
  /-- UMIN (R144). -/
  | umin (h : LaneHdr) (vd va vb : Reg)
  /-- UMAX (R144). -/
  | umax (h : LaneHdr) (vd va vb : Reg)
  /-- IMUL24 (R144). -/
  | imul24 (h : LaneHdr) (vd va vb : Reg)
  /-- UMUL24 (R144). -/
  | umul24 (h : LaneHdr) (vd va vb : Reg)
  /-- IMAD24 (R144). -/
  | imad24 (h : LaneHdr) (vd va vb vc : Reg) (u : Bool)
  /-- IMUL (R144). -/
  | imul (h : LaneHdr) (vd va vb : Reg)
  /-- IMULHI (R144). -/
  | imulhi (h : LaneHdr) (vd va vb : Reg)
  /-- UMULHI (R144). -/
  | umulhi (h : LaneHdr) (vd va vb : Reg)
  /-- IDIV (R145). -/
  | idiv (h : LaneHdr) (vd va vb : Reg)
  /-- UDIV (R145). -/
  | udiv (h : LaneHdr) (vd va vb : Reg)
  /-- IREM (R145). -/
  | irem (h : LaneHdr) (vd va vb : Reg)
  /-- UREM (R145). -/
  | urem (h : LaneHdr) (vd va vb : Reg)
  /-- IADDS (R144). -/
  | iadds (h : LaneHdr) (vd va vb : Reg)
  /-- ISUBS (R144). -/
  | isubs (h : LaneHdr) (vd va vb : Reg)
  /-- IADD64 (R144). -/
  | iadd64 (h : LaneHdr) (vd va vb : Reg)
  /-- ISUB64 (R144). -/
  | isub64 (h : LaneHdr) (vd va vb : Reg)
  /-- IMAD32 (R144). -/
  | imad32 (h : LaneHdr) (vd va vb vc : Reg)
  /-- AND (R146). -/
  | and (h : LaneHdr) (vd va vb : Reg)
  /-- OR (R146). -/
  | or (h : LaneHdr) (vd va vb : Reg)
  /-- XOR (R146). -/
  | xor (h : LaneHdr) (vd va vb : Reg)
  /-- ANDN (R146). -/
  | andn (h : LaneHdr) (vd va vb : Reg)
  /-- SHL (R146). -/
  | shl (h : LaneHdr) (vd va vb : Reg)
  /-- SHR (R146). -/
  | shr (h : LaneHdr) (vd va vb : Reg)
  /-- SAR (R146). -/
  | sar (h : LaneHdr) (vd va vb : Reg)
  /-- ROTL (R146). -/
  | rotl (h : LaneHdr) (vd va vb : Reg)
  /-- BFE (R147). -/
  | bfe (h : LaneHdr) (vd va : Reg) (sg : Bool) (len : Reg) (pos : BitVec 5)
  /-- BFI (R147). -/
  | bfi (h : LaneHdr) (vd va vb len : Reg) (pos : BitVec 5)
  /-- POPC (R146). -/
  | popc (h : LaneHdr) (vd va : Reg)
  /-- CLZ (R146). -/
  | clz (h : LaneHdr) (vd va : Reg)
  /-- CTZ (R146). -/
  | ctz (h : LaneHdr) (vd va : Reg)
  /-- BREV (R146). -/
  | brev (h : LaneHdr) (vd va : Reg)
  /-- PRMT (R148). -/
  | prmt (h : LaneHdr) (vd va vb : Reg) (sx : BitVec 3) (zm : BitVec 4) (bsel : BitVec 12)
  /-- LOP3 (R146). -/
  | lop3 (h : LaneHdr) (vd va vb vc : Reg) (lut : BitVec 8)
  /-- MOV (R146). -/
  | mov (h : LaneHdr) (vd va : Reg)
  /-- MOVI (R146). -/
  | movi (h : LaneHdr) (vd : Reg) (imm : W32)
  /-- SEL (R146). -/
  | sel (h : LaneHdr) (vd va vb : Reg) (psn : Bool) (ps : BitVec 3)
  /-- LSPEC (R149). -/
  | lspec (h : LaneHdr) (vd which : Reg)
  /-- ICMP (R150). -/
  | icmp (h : LaneHdr) (va vb : Reg) (psn : Bool) (ps : BitVec 3) (bop : Bop) (pdf pdt : BitVec 3) (cond : Cond)
  /-- UCMP (R150). -/
  | ucmp (h : LaneHdr) (va vb : Reg) (psn : Bool) (ps : BitVec 3) (bop : Bop) (pdf pdt : BitVec 3) (cond : Cond)
  /-- FCMP (R151). -/
  | fcmp (h : LaneHdr) (va vb : Reg) (psn : Bool) (ps : BitVec 3) (bop : Bop) (pdf pdt : BitVec 3) (cond : Cond)
  /-- PLOP (R152). -/
  | plop (h : LaneHdr) (pd pa pb pc : BitVec 3) (lut : BitVec 8)
  /-- P2V (R152). -/
  | p2v (h : LaneHdr) (vd : Reg)
  /-- V2P (R152). -/
  | v2p (h : LaneHdr) (va : Reg) (mask : BitVec 7)
  /-- FADD (R153). -/
  | fadd (h : LaneHdr) (vd va vb : Reg)
  /-- FSUB (R153). -/
  | fsub (h : LaneHdr) (vd va vb : Reg)
  /-- FMUL (R153). -/
  | fmul (h : LaneHdr) (vd va vb : Reg)
  /-- FFMA (R154). -/
  | ffma (h : LaneHdr) (vd va vb vc : Reg)
  /-- FMIN (R155). -/
  | fmin (h : LaneHdr) (vd va vb : Reg)
  /-- FMAX (R155). -/
  | fmax (h : LaneHdr) (vd va vb : Reg)
  /-- FMED3 (R155). -/
  | fmed3 (h : LaneHdr) (vd va vb vc : Reg)
  /-- FCLAMP (R155). -/
  | fclamp (h : LaneHdr) (vd va vb vc : Reg)
  /-- FRND (R156). -/
  | frnd (h : LaneHdr) (vd va : Reg) (rmode : Rm)
  /-- FABS (R156). -/
  | fabs (h : LaneHdr) (vd va : Reg)
  /-- FNEG (R156). -/
  | fneg (h : LaneHdr) (vd va : Reg)
  /-- FRCP (R157). -/
  | frcp (h : LaneHdr) (vd va : Reg)
  /-- FRSQ (R157). -/
  | frsq (h : LaneHdr) (vd va : Reg)
  /-- FSQRT (R157). -/
  | fsqrt (h : LaneHdr) (vd va : Reg)
  /-- FDIV (R157). -/
  | fdiv (h : LaneHdr) (vd va vb : Reg)
  /-- FEXP2 (R157). -/
  | fexp2 (h : LaneHdr) (vd va : Reg)
  /-- FLOG2 (R157). -/
  | flog2 (h : LaneHdr) (vd va : Reg)
  /-- FSIN (R157). -/
  | fsin (h : LaneHdr) (vd va : Reg)
  /-- FCOS (R157). -/
  | fcos (h : LaneHdr) (vd va : Reg)
  /-- FTANH (R157). -/
  | ftanh (h : LaneHdr) (vd va : Reg)
  /-- FLUT (R167). -/
  | flut (h : LaneHdr) (vd va : Reg)
  /-- FCLASS (R156). -/
  | fclass (h : LaneHdr) (vd va : Reg) (pd : BitVec 3) (mask : BitVec 10)
  /-- HADD2 (R158). -/
  | hadd2 (h : LaneHdr) (vd va vb : Reg)
  /-- HSUB2 (R158). -/
  | hsub2 (h : LaneHdr) (vd va vb : Reg)
  /-- HMUL2 (R158). -/
  | hmul2 (h : LaneHdr) (vd va vb : Reg)
  /-- HFMA2 (R158). -/
  | hfma2 (h : LaneHdr) (vd va vb vc : Reg)
  /-- HMIN2 (R158). -/
  | hmin2 (h : LaneHdr) (vd va vb : Reg)
  /-- HMAX2 (R158). -/
  | hmax2 (h : LaneHdr) (vd va vb : Reg)
  /-- HMED3 (R158). -/
  | hmed3 (h : LaneHdr) (vd va vb vc : Reg)
  /-- HCLAMP2 (R158). -/
  | hclamp2 (h : LaneHdr) (vd va vb vc : Reg)
  /-- BADD2 (R158). -/
  | badd2 (h : LaneHdr) (vd va vb : Reg)
  /-- BMUL2 (R158). -/
  | bmul2 (h : LaneHdr) (vd va vb : Reg)
  /-- BFMA2 (R158). -/
  | bfma2 (h : LaneHdr) (vd va vb vc : Reg)
  /-- BMIN2 (R158). -/
  | bmin2 (h : LaneHdr) (vd va vb : Reg)
  /-- BMAX2 (R158). -/
  | bmax2 (h : LaneHdr) (vd va vb : Reg)
  /-- CVT (R159). -/
  | cvt (h : LaneHdr) (vd va : Reg) (dt st : Ty) (rmode : Rm) (sat : Bool)
  /-- PACK2 (R160). -/
  | pack2 (h : LaneHdr) (vd va vb : Reg) (dt : Ty) (rmode : Rm) (sat : Bool)
  /-- PACK4 (R160). -/
  | pack4 (h : LaneHdr) (vd va : Reg) (dt : Ty) (rmode : Rm) (sat : Bool)
  /-- UNPACK (R161). -/
  | unpack (h : LaneHdr) (vd va : Reg) (idx : BitVec 2) (st : Ty)
  /-- QB8 (R162). -/
  | qb8 (h : LaneHdr) (vd va vb : Reg) (dt : Ty)
  /-- SHFL (R88). -/
  | shfl (h : LaneHdr) (vd va vb : Reg) (nw imm : Bool) (b5 : BitVec 5) (seg : BitVec 3) (mode : ShflMode)
  /-- VOTE (R89). -/
  | vote (h : LaneHdr) (vd : Reg) (mode : VoteMode) (psn : Bool) (ps pd : BitVec 3)
  /-- REDUCE (R163). -/
  | reduce (h : LaneHdr) (vd va : Reg) (opc : RedOp)
  /-- SCAN (R163). -/
  | scan (h : LaneHdr) (vd va : Reg) (exc : Bool) (opc : RedOp)
  /-- MATCH (R89). -/
  | matchAny (h : LaneHdr) (vd va : Reg)
  /-- RDLANE (R90). -/
  | rdlane (h : LaneHdr) (sd va sl : Reg) (lsrc : Bool) (lane : BitVec 5)
  /-- WRLANE (R90). -/
  | wrlane (h : LaneHdr) (vd ss sl : Reg) (lsrc : Bool) (lane : BitVec 5)
  /-- VPCGET (R91). -/
  | vpcget (h : LaneHdr) (vd : Reg)
  /-- VPCSET (R91). -/
  | vpcset (h : LaneHdr) (va : Reg)
  /-- LBRA (R77). -/
  | lbra (h : LaneHdr) (off : BitVec 18)
  /-- LBRX (R77). -/
  | lbrx (h : LaneHdr) (va : Reg)
  /-- JOIN (R81). -/
  | join (h : LaneHdr) (k : BitVec 3)
  /-- JARR (R80). -/
  | jarr (h : LaneHdr) (acc : Bool) (k : BitVec 3)
  /-- LEXIT (R79). -/
  | lexit (h : LaneHdr)
  /-- LD (R225). -/
  | ld (h : LaneHdr) (vd va : Reg) (la : BitVec 4) (sx : Bool) (off : BitVec 24) (size : Size) (scope : Scope) (ord : Ord)
  /-- ST (R226). -/
  | st (h : LaneHdr) (vs va : Reg) (off : BitVec 24) (size : Size) (scope : Scope) (ord : Ord)
  /-- LDS (R225). -/
  | lds (h : LaneHdr) (vd va : Reg) (la : BitVec 4) (sx : Bool) (off : BitVec 24) (size : Size) (ord : Ord)
  /-- STS (R226). -/
  | sts (h : LaneHdr) (vs va : Reg) (off : BitVec 24) (size : Size) (ord : Ord)
  /-- ATOM (R229). -/
  | atom (h : LaneHdr) (vd va : Reg) (la : BitVec 4) (vb : Reg) (aop : Aop) (off : BitVec 14) (size : Size) (scope : Scope) (ord : Ord)
  /-- ATOMS (R229). -/
  | atoms (h : LaneHdr) (vd va : Reg) (la : BitVec 4) (vb : Reg) (aop : Aop) (off : BitVec 14) (size : Size) (ord : Ord)
  /-- CST (R227). -/
  | cst (h : LaneHdr) (vs va : Reg) (off : BitVec 24) (size : Size) (scope : Scope) (ord : Ord)
  /-- ACCRD (R193). -/
  | accrd (h : LaneHdr) (vd va : Reg) (la : BitVec 4) (off : BitVec 24) (size : Size)
  /-- ACCWR (R193). -/
  | accwr (h : LaneHdr) (vs va : Reg) (off : BitVec 24) (size : Size)
  /-- DISCARD (R230). -/
  | discard (h : LaneHdr) (va : Reg) (off : BitVec 24)
  /-- PREF (R231). -/
  | pref (h : LaneHdr) (va : Reg) (off : BitVec 24)
  /-- SADD (R168). -/
  | sadd (h : WarpHdr) (sd sa sb : Reg)
  /-- SSUB (R168). -/
  | ssub (h : WarpHdr) (sd sa sb : Reg)
  /-- SADDI (R168). -/
  | saddi (h : WarpHdr) (sd sa : Reg) (imm : W32)
  /-- SMUL (R168). -/
  | smul (h : WarpHdr) (sd sa sb : Reg)
  /-- SMULHI (R168). -/
  | smulhi (h : WarpHdr) (sd sa sb : Reg)
  /-- SMIN (R168). -/
  | smin (h : WarpHdr) (sd sa sb : Reg)
  /-- SMAX (R168). -/
  | smax (h : WarpHdr) (sd sa sb : Reg)
  /-- SMINN (R168). -/
  | sminn (h : WarpHdr) (sd sa sb : Reg)
  /-- SMAXN (R168). -/
  | smaxn (h : WarpHdr) (sd sa sb : Reg)
  /-- SAND (R168). -/
  | sand (h : WarpHdr) (sd sa sb : Reg)
  /-- SOR (R168). -/
  | sor (h : WarpHdr) (sd sa sb : Reg)
  /-- SXOR (R168). -/
  | sxor (h : WarpHdr) (sd sa sb : Reg)
  /-- SSHL (R168). -/
  | sshl (h : WarpHdr) (sd sa sb : Reg)
  /-- SSHR (R168). -/
  | sshr (h : WarpHdr) (sd sa sb : Reg)
  /-- SSAR (R168). -/
  | ssar (h : WarpHdr) (sd sa sb : Reg)
  /-- SMOV (R168). -/
  | smov (h : WarpHdr) (sd sa : Reg)
  /-- SMOVI (R168). -/
  | smovi (h : WarpHdr) (sd : Reg) (imm : W32)
  /-- SADD64 (R168). -/
  | sadd64 (h : WarpHdr) (sd sa sb : Reg)
  /-- SSUB64 (R168). -/
  | ssub64 (h : WarpHdr) (sd sa sb : Reg)
  /-- SBFE (R168). -/
  | sbfe (h : WarpHdr) (sd sa : Reg) (sg : Bool) (len : Reg) (pos : BitVec 5)
  /-- SPOPC (R168). -/
  | spopc (h : WarpHdr) (sd sa : Reg)
  /-- SCLZ (R168). -/
  | sclz (h : WarpHdr) (sd sa : Reg)
  /-- SCMP (R169). -/
  | scmp (h : WarpHdr) (sa sb : Reg) (t : CmpT) (psn : Bool) (ps : BitVec 3) (bop : Bop) (pdf pdt : BitVec 3) (cond : Cond)
  /-- SSEL (R168). -/
  | ssel (h : WarpHdr) (sd sa sb : Reg) (qsn : Bool) (qs : BitVec 3)
  /-- QLOP (R168). -/
  | qlop (h : WarpHdr) (qd qa qb qc : BitVec 3) (lut : BitVec 8)
  /-- SDIV (R168). -/
  | sdiv (h : WarpHdr) (sd sa sb : Reg)
  /-- SDIVN (R168). -/
  | sdivn (h : WarpHdr) (sd sa sb : Reg)
  /-- SFADD (R168). -/
  | sfadd (h : WarpHdr) (sd sa sb : Reg)
  /-- SFMUL (R168). -/
  | sfmul (h : WarpHdr) (sd sa sb : Reg)
  /-- SFFMA (R168). -/
  | sffma (h : WarpHdr) (sd sa sb sc : Reg)
  /-- SCVT (R170). -/
  | scvt (h : WarpHdr) (sd sa : Reg) (dt st : Ty) (rmode : Rm) (sat : Bool)
  /-- BRA (R78). -/
  | bra (h : WarpHdr) (off : BitVec 18)
  /-- BRX (R78). -/
  | brx (h : WarpHdr) (sa sb : Reg) (n : BitVec 16)
  /-- CALL (R78). -/
  | call (h : WarpHdr) (off : BitVec 18)
  /-- RET (R78). -/
  | ret (h : WarpHdr)
  /-- LOOP (R85). -/
  | loop (h : WarpHdr) (sa : Reg) (lend : BitVec 14)
  /-- LOOPI (R85). -/
  | loopi (h : WarpHdr) (count : BitVec 16) (lend : BitVec 14)
  /-- LBREAK (R87). -/
  | lbreak (h : WarpHdr) (off : BitVec 18)
  /-- EXIT (R79). -/
  | exit (h : WarpHdr)
  /-- NOP (R94). -/
  | nop (h : WarpHdr)
  /-- TRAP (R94). -/
  | trap (h : WarpHdr) (code : BitVec 18)
  /-- TRET (R393). -/
  | tret (h : WarpHdr)
  /-- SLEEP (R94). -/
  | sleep (h : WarpHdr) (sa : Reg)
  /-- BAR (R305). -/
  | bar (h : WarpHdr) (sa : Reg) (cnt arv : Bool) (bid : BitVec 3)
  /-- GBAR (R310). -/
  | gbar (h : WarpHdr) (cls : GbarCls)
  /-- MBINIT (R241). -/
  | mbinit (h : WarpHdr) (bi : BitVec 5) (sa : Reg)
  /-- MBEXP (R241). -/
  | mbexp (h : WarpHdr) (bi : BitVec 5) (sa : Reg)
  /-- MBARR (R241). -/
  | mbarr (h : WarpHdr) (bi : BitVec 5) (sa : Reg) (tx : Bool)
  /-- MBWAIT (R241). -/
  | mbwait (h : WarpHdr) (bi : BitVec 5) (sa sb : Reg) (qd : BitVec 3)
  /-- FENCE (R236). -/
  | fence (h : WarpHdr) (scope : Scope) (ord : Ord)
  /-- FENCEA (R236). -/
  | fencea (h : WarpHdr) (scope : Scope) (ord : Ord)
  /-- SRD (R93). -/
  | srd (h : WarpHdr) (sd : Reg) (idx : BitVec 8)
  /-- SWR (R93). -/
  | swr (h : WarpHdr) (idx : BitVec 8) (ss : Reg)
  /-- CAPQ (R95). -/
  | capq (h : WarpHdr) (sd : Reg) (la : BitVec 4) (idx : BitVec 16) (qk : BitVec 3)
  /-- CLK (R94). -/
  | clk (h : WarpHdr) (sd : Reg)
  /-- EVPOST (R94). -/
  | evpost (h : WarpHdr) (sa sb : Reg)
  /-- TBLLD (R165). -/
  | tblld (h : WarpHdr) (sa : Reg)
  /-- TBLSWP (R166). -/
  | tblswp (h : WarpHdr)
  /-- RACQ (R35). -/
  | racq (h : WarpHdr)
  /-- RREL (R36). -/
  | rrel (h : WarpHdr)
  /-- TIERQ (R381). -/
  | tierq (h : WarpHdr) (sd sa : Reg)
  /-- SLD (R225). -/
  | sld (h : WarpHdr) (sd sa : Reg) (la : BitVec 4) (sx : Bool) (off : BitVec 24) (size : Size) (scope : Scope) (ord : Ord)
  /-- SST (R226). -/
  | sst (h : WarpHdr) (ss sa : Reg) (off : BitVec 24) (size : Size) (scope : Scope) (ord : Ord)
  /-- SATOM (R229). -/
  | satom (h : WarpHdr) (sd sa : Reg) (la : BitVec 4) (sb : Reg) (aop : Aop) (off : BitVec 14) (size : Size) (scope : Scope) (ord : Ord)
  /-- SLDS (R225). -/
  | slds (h : WarpHdr) (sd sa : Reg) (la : BitVec 4) (sx : Bool) (off : BitVec 24) (size : Size) (ord : Ord)
  /-- SSTS (R226). -/
  | ssts (h : WarpHdr) (ss sa : Reg) (off : BitVec 24) (size : Size) (ord : Ord)
  /-- SPREF (R231). -/
  | spref (h : WarpHdr) (sa : Reg) (off : BitVec 24)
  /-- SPCLR (R232). -/
  | spclr (h : WarpHdr) (sa sb : Reg)
  /-- SPQRY (R233). -/
  | spqry (h : WarpHdr) (sd sa : Reg) (kind : Bool)
  /-- TCOPY (R251). -/
  | tcopy (h : WarpHdr) (sd sa sb : Reg) (lslot : BitVec 4) (tbar : BitVec 5) (nobar : Bool)
  /-- TSTORE (R251). -/
  | tstore (h : WarpHdr) (sd sa sb : Reg) (lslot : BitVec 4) (tbar : BitVec 5) (nobar : Bool)
  /-- TLOADX (R254). -/
  | tloadx (h : WarpHdr) (sd sa sb : Reg) (lslot : BitVec 4) (tbar : BitVec 5) (nobar : Bool) (chain : BitVec 3)
  /-- TSTOREX (R255). -/
  | tstorex (h : WarpHdr) (sd sa sb : Reg) (lslot : BitVec 4) (tbar : BitVec 5) (nobar : Bool) (chain : BitVec 3)
  /-- TLREC (R246). -/
  | tlrec (h : WarpHdr) (sa : Reg) (slot : BitVec 4)
  /-- TWAIT (R260). -/
  | twait (h : WarpHdr) (n : BitVec 8)
  /-- XJOB (R269). -/
  | xjob (h : WarpHdr) (sd sa : Reg) (stream : BitVec 4)
  /-- XWAIT (R270). -/
  | xwait (h : WarpHdr) (sd sa sb : Reg)
  /-- QINIT (R284). -/
  | qinit (h : WarpHdr) (sa : Reg) (pq : BitVec 4)
  /-- QPUSH (R280). -/
  | qpush (h : WarpHdr) (sa : Reg) (pq : BitVec 4) (scope : Scope) (ord : Ord)
  /-- QPOP (R281). -/
  | qpop (h : WarpHdr) (sd : Reg) (qd : BitVec 3) (pq : BitVec 4) (scope : Scope) (ord : Ord)
  /-- QTRY (R282). -/
  | qtry (h : WarpHdr) (sd : Reg) (qd : BitVec 3) (pq : BitVec 4) (scope : Scope) (ord : Ord)
  /-- QCLOSE (R283). -/
  | qclose (h : WarpHdr) (pq : BitVec 4) (scope : Scope) (ord : Ord)
  /-- QLEN (R285). -/
  | qlen (h : WarpHdr) (sd : Reg) (pq : BitVec 4)
  /-- MMA (R183). -/
  | mma (h : WarpHdr) (sd sa sb : Reg) (fw : W32)
  /-- MMAS (R183). -/
  | mmas (h : WarpHdr) (sd sa sb : Reg) (fw : W32)
  /-- MMAP (R186). -/
  | mmap (h : WarpHdr) (sd sa sb : Reg) (fw : W32)
  /-- ACCZ (R190). -/
  | accz (h : WarpHdr) (sa sb : Reg)
  /-- ACCCPY (R191). -/
  | acccpy (h : WarpHdr) (sd sa sb : Reg)
  /-- MWAIT (R192). -/
  | mwait (h : WarpHdr) (n : Reg)
  /-- TBEGIN (R323). -/
  | tbegin (h : WarpHdr) (sd : Reg)
  /-- TEND (R324). -/
  | tend (h : WarpHdr)
  /-- TABORT (R325). -/
  | tabort (h : WarpHdr) (leave : Bool)
  /-- TSTAT (R326). -/
  | tstat (h : WarpHdr) (sd : Reg)
  /-- ASDECL (R327). -/
  | asdecl (h : WarpHdr) (sa sb : Reg) (g : BitVec 5) (setn : BitVec 4)
  /-- ASDROP (R327). -/
  | asdrop (h : WarpHdr) (setn : BitVec 4)
  /-- UNALLOCATED_OPCODE (R71). -/
  | unallocatedOpcode (w : W32)
  /-- LATE_DATA_ARRIVAL (R47). -/
  | lateDataArrival (warp win : Nat) (lanes : LaneMask)
  /-- JOIN_FORCED_RELEASE (R82). -/
  | joinForcedRelease (warp : Nat)
  /-- RACQ_GRANT (R37). -/
  | racqGrant (core : Nat)
  /-- RREL_DRAIN_DONE (R36). -/
  | rrelDrainDone (warp : Nat)
  /-- SLEEP_END (R94). -/
  | sleepEnd (warp : Nat)
  /-- MBWAIT_TIMEOUT (R241). -/
  | mbwaitTimeout (warp : Nat)
  /-- PERGOLA_PARKED_WORD (R286). -/
  | pergolaParkedWord (team pq : Nat)
  /-- MATRIX_STEP (R173). -/
  | matrixStep (core ctx : Nat)
  /-- MATRIX_OP_COMPLETE (R173). -/
  | matrixOpComplete (core ctx : Nat)
  /-- COPY_CHUNK (R261). -/
  | copyChunk (xfer : Xfer)
  /-- COPY_LINE_DELIVERY (R256). -/
  | copyLineDelivery (core copy line : Nat)
  /-- COPY_COMPLETE (R259). -/
  | copyComplete (core copy : Nat)
  /-- JOB_START (R267). -/
  | jobStart (ctx stream ticket : Nat)
  /-- JOB_COMPLETE (R268). -/
  | jobComplete (ctx stream ticket : Nat)
  /-- RDC_EVICTION (R203). -/
  | rdcEviction (die line : Nat)
  /-- GRANULE_REQUEST (R329). -/
  | granuleRequest (warp gran : Nat)
  /-- GRANULE_GRANT (R329). -/
  | granuleGrant (gran : Nat)
  /-- WOUND (R331). -/
  | wound (warp : Nat)
  /-- TASK_SLOT_GRANT (R320). -/
  | taskSlotGrant (core : Nat)
  /-- TASK_COMMIT (R324). -/
  | taskCommit (warp : Nat)
  /-- TRAP_DELIVERY (R385). -/
  | trapDelivery (warp : Nat)
  /-- TEAM_STALL (R313). -/
  | teamStall (team : Nat)
  /-- PRI_RESPONSE (R349). -/
  | priResponse (req : Nat) (answer : PriAnswer)
  /-- ATS_COMPLETION (R351). -/
  | atsCompletion (req : Nat) (hpa sizeLog2 : Nat) (rd wr : Bool)
  /-- ATS_INVALIDATE_REQUEST (R352). -/
  | atsInvalidateRequest (pasid va len : Nat)
  /-- INVALIDATION_COMPLETE (R353). -/
  | invalidationComplete
  /-- PAGE_FAULT_SWAP_OUT (R396). -/
  | pageFaultSwapOut (team : Nat)
  /-- PACKET_BEGIN (R295). -/
  | packetBegin (ctx queue : Nat)
  /-- WAIT_SIGNAL_POLL (R295). -/
  | waitSignalPoll (ctx queue : Nat)
  /-- TEAM_ADMIT (R297). -/
  | teamAdmit (launch gang : Nat) (cores : List Nat)
  /-- GANG_RESERVE (R299). -/
  | gangReserve (launch gang : Nat) (cores : List Nat)
  /-- TEAM_RETIRE (R23). -/
  | teamRetire (team : Nat)
  /-- LAUNCH_COMPLETE (R296). -/
  | launchComplete (launch : Nat)
  /-- DOORBELL (R422). -/
  | doorbell (ctx queue : Nat)
  /-- CTXCMD_ACTIVATE (R339). -/
  | ctxcmdActivate (ctx : Nat)
  /-- CTXCMD_RETIRE (R339). -/
  | ctxcmdRetire (ctx : Nat)
  /-- INVGO (R352). -/
  | invgo
  /-- KEYCMD_LOAD (R356). -/
  | keycmdLoad
  /-- KEYCMD_ERASE (R356). -/
  | keycmdErase
  /-- LEASECMD_OFFER_GRANT (R374). -/
  | leasecmdOfferGrant (rec : Nat)
  /-- LEASECMD_RECLAIM (R376). -/
  | leasecmdReclaim (rec : Nat)
  /-- LEASECMD_RETURN (R380). -/
  | leasecmdReturn (rec : Nat)
  /-- LEASECMD_RETIRE (R380). -/
  | leasecmdRetire (rec : Nat)
  /-- GRANT_MESSAGE (R374). -/
  | grantMessage (peer leaseid lbase size : Nat)
  /-- LEASE_PEER_TIMEOUT (R373). -/
  | leasePeerTimeout (rec : Nat)
  /-- RECLAIM_ARRIVAL (R376). -/
  | reclaimArrival (rec : Nat)
  /-- QUIESCE_MESSAGE (R376). -/
  | quiesceMessage (rec : Nat) (fb ret : Bool)
  /-- CHUNK_MOVED (R376). -/
  | chunkMoved (rec chunk : Nat)
  /-- LEASE_DEMOTE (R376). -/
  | leaseDemote (rec : Nat)
  /-- LEASE_DEADLINE (R379). -/
  | leaseDeadline (rec : Nat)
  /-- FABRIC_REQUEST (R369). -/
  | fabricRequest (dev : Nat) (req : RemoteReq)
  /-- FABRIC_REPLY (R371). -/
  | fabricReply (req : Nat) (answer : FabricAnswer)
  /-- FABRIC_TIMEOUT (R410). -/
  | fabricTimeout (req : Nat)
  /-- PLANE_FAILURE (R367). -/
  | planeFailure (port : Nat)
  /-- PLANE_DRAIN_DONE (R368). -/
  | planeDrainDone (entry : Nat)
  /-- PCIE_LINK_DOWN (R408). -/
  | pcieLinkDown
  /-- UCIE_LINK_FAILURE (R408). -/
  | ucieLinkFailure
  /-- PATROL_SCRUB (R405). -/
  | patrolScrub (unit : StoreUnit)
  /-- PEER_REQUEST (R424). -/
  | peerRequest (off : Nat) (req : PeerOp)
  /-- PRECMD_PREEMPT (R395). -/
  | precmdPreempt (ctx : Nat)
  /-- PRECMD_RESUME (R395). -/
  | precmdResume (ctx : Nat)
  /-- PRECMD_DISCARD (R395). -/
  | precmdDiscard (ctx : Nat)
  /-- FRAME_SAVE (R394). -/
  | frameSave (team : Nat)
  /-- FRAME_RESTORE (R397). -/
  | frameRestore (frame : Nat) (cores : List Nat)
  /-- EVENT_QUEUE_ENABLE (R413). -/
  | eventQueueEnable (ctx : Nat) (ctl : BitVec 64)
  /-- DEVNUM_WRITE (R419). -/
  | devnumWrite (value : BitVec 64)
  /-- FWCMD_GO (R425). -/
  | fwcmdGo
  /-- REGISTER_WRITE (R5). -/
  | registerWrite (off : Nat) (value : BitVec 64)
  /-- DEVICE_RESET (R55). -/
  | deviceReset
  /-- FUNCTION_READY (R420). -/
  | functionReady (bit : Nat)
  /-- GET_VERSION (R425). -/
  | getVersion
  /-- GET_CAPABILITIES (R425). -/
  | getCapabilities
  /-- NEGOTIATE_ALGORITHMS (R425). -/
  | negotiateAlgorithms
  /-- GET_DIGESTS (R425). -/
  | getDigests
  /-- GET_CERTIFICATE (R425). -/
  | getCertificate (off len : Nat)
  /-- CHALLENGE (R425). -/
  | challenge (nonce : Nat)
  /-- GET_MEASUREMENTS (R425). -/
  | getMeasurements (index : Nat)
  /-- THERMAL_THROTTLE (R426). -/
  | thermalThrottle (island : Nat) (mhz : Nat)
  /-- MODULE_FAULT (R426). -/
  | moduleFault (what : ModuleFault)
  /-- NGUYX_FINALISE (R114). -/
  | nguyxFinalise (ctx obj : Nat)
  /-- STORE_PERFORMED (R206). -/
  | storePerformed (warp : Nat)
  /-- EVENT_QUEUE_SPACE (R413). -/
  | eventQueueSpace (ctx : Nat)
  /-- LEASE_FAILED (R379). -/
  | leaseFailed (rec : Nat)
  /-- PORT_UP (R366). -/
  | portUp (port : Nat)
  /-- PCIE_LINK_UP (R408). -/
  | pcieLinkUp
  /-- MODULE_FAULT_END (R426). -/
  | moduleFaultEnd (what : ModuleFault)
  /-- ISSUE_PAUSE_END (R426). -/
  | issuePauseEnd (core : Nat)
  /-- CORE_POWER_GATE (R354). -/
  | corePowerGate (core : Nat) (gated : Bool)
  /-- DEBUGGER_HALT (R354). -/
  | debuggerHalt (core : Nat)
  /-- DEBUGGER_RESUME (R354). -/
  | debuggerResume (core : Nat)
  /-- CONTROL_STATE_PARITY_ERROR (R403). -/
  | controlStateParityError (core : Nat)
  deriving DecidableEq, Repr

end Sys2Proof
end

