-- ==== Sys2Proof/WellFormed.lean ====
section
/-! DEFINITION. Well-formedness: the field values that R66, R71 and the instruction entries accept. -/

namespace Sys2Proof

/-- R66: plain, rlx, acq. -/
def Ord.forLoad : Ord → Bool | .plain | .rlx | .acq => true | .rel | .acqrel => false
/-- R66: plain, rlx, rel. -/
def Ord.forStore : Ord → Bool | .plain | .rlx | .rel => true | .acq | .acqrel => false
/-- R66: QPUSH and QCLOSE. -/
def Ord.forPush : Ord → Bool | .rlx | .rel => true | .plain | .acq | .acqrel => false
/-- R66: QPOP and QTRY. -/
def Ord.forPop : Ord → Bool | .rlx | .acq => true | .plain | .rel | .acqrel => false
/-- R66: FENCE. -/
def Ord.forFence : Ord → Bool | .acq | .rel | .acqrel => true | .plain | .rlx => false
/-- R66: FENCEA. -/
def Ord.forFencea : Ord → Bool | .acq | .acqrel => true | .plain | .rlx | .rel => false
/-- The order makes its read an acquire (R202). -/
def Ord.acquires : Ord → Bool | .acq | .acqrel => true | .plain | .rlx | .rel => false
/-- The order makes its write a release (R202). -/
def Ord.releases : Ord → Bool | .rel | .acqrel => true | .plain | .rlx | .acq => false

/-- R66: EXT may be 1 only when SIZE ≤ 1. -/
def Size.isSub : Size → Bool | .b8 | .b16 => true | .b32 | .b64 | .b128 => false
/-- Bytes of an access (R221). -/
def Size.bytes : Size → Nat | .b8 => 1 | .b16 => 2 | .b32 => 4 | .b64 => 8 | .b128 => 16
/-- Registers that hold the datum (R221). -/
def Size.regs : Size → Nat | .b8 | .b16 | .b32 => 1 | .b64 => 2 | .b128 => 4

/-- R65, the SIZE column of the AOP table. -/
def Aop.accepts : Aop → Size → Bool
  | .exch, .b32 | .exch, .b64 | .exch, .b128 => true
  | .add, .b32 | .add, .b64 | .min, .b32 | .min, .b64 | .max, .b32 | .max, .b64 => true
  | .minn, .b32 | .minn, .b64 | .maxn, .b32 | .maxn, .b64 => true
  | .and, .b32 | .and, .b64 | .or, .b32 | .or, .b64 | .xor, .b32 | .xor, .b64 => true
  | .cas, .b32 | .cas, .b64 => true
  | .fadd, .b32 | .fmin, .b32 | .fmax, .b32 | .incwrap, .b32 | .decwrap, .b32 => true
  | _, _ => false

/-- R150: COND 6 and 7 belong to float compares. -/
def Cond.isOrder : Cond → Bool | .num | .nan => false | .eq | .ne | .lt | .le | .gt | .ge => true
def CmpT.isFloat : CmpT → Bool | .f32 => true | .s32 | .n32 => false
/-- R161: the 16-bit types. -/
def Ty.is16 : Ty → Bool
  | .s16 | .n16 | .f16 | .bf16 => true
  | .s32 | .n32 | .s8 | .n8 | .f32 | .e5m2 | .e4m3 | .e3m2 | .e2m3 | .e2m1 | .s64 | .n64 => false
/-- R88: the modes that NW applies to. -/
def ShflMode.rotates : ShflMode → Bool | .rotd | .rotu => true | .pick | .bfly => false
/-- R89: the modes that write a register. -/
def VoteMode.toReg : VoteMode → Bool | .mask | .count => true | .all | .any | .unif => false

/-- R54: the assigned special-register indices. -/
def srAssigned (i : BitVec 8) : Bool :=
  let n := i.toNat
  decide (n ≤ 0x0D) || (decide (0x10 ≤ n) && decide (n ≤ 0x12)) || (decide (0x18 ≤ n) && decide (n ≤ 0x25))
    || n == 0x28 || n == 0x29 || (decide (0x30 ≤ n) && decide (n ≤ 0x35))
    || (decide (0x38 ≤ n) && decide (n ≤ 0x3F))

/-- R67: the 114 allocated lane opcodes. -/
def laneOpAllocated (op : Nat) : Bool :=
  (decide (0x0 ≤ op) && decide (op ≤ 0x16)) || (decide (0x18 ≤ op) && decide (op ≤ 0x2b))
     || (decide (0x30 ≤ op) && decide (op ≤ 0x35)) || (decide (0x40 ≤ op) && decide (op ≤ 0x55))
     || (decide (0x60 ≤ op) && decide (op ≤ 0x6c)) || (decide (0x70 ≤ op) && decide (op ≤ 0x74))
     || (decide (0x80 ≤ op) && decide (op ≤ 0x88)) || (decide (0xa0 ≤ op) && decide (op ≤ 0xa4))
     || (decide (0xc0 ≤ op) && decide (op ≤ 0xca))

/-- R69: the 95 allocated warp opcodes. -/
def warpOpAllocated (op : Nat) : Bool :=
  (decide (0x0 ≤ op) && decide (op ≤ 0x1e)) || (decide (0x40 ≤ op) && decide (op ≤ 0x4b))
     || (decide (0x60 ≤ op) && decide (op ≤ 0x67)) || (decide (0x80 ≤ op) && decide (op ≤ 0x89))
     || (decide (0xa0 ≤ op) && decide (op ≤ 0xa7)) || (decide (0x100 ≤ op) && decide (op ≤ 0x107))
     || (decide (0x120 ≤ op) && decide (op ≤ 0x125)) || (decide (0x140 ≤ op) && decide (op ≤ 0x145))
     || (decide (0x160 ≤ op) && decide (op ≤ 0x165))

/-- R68: lane opcodes of the LX and LM formats. -/
def laneOpTwoWords (op : Nat) : Bool :=
  op == 0x2 || op == 0xa || op == 0x16 || op == 0x20 || op == 0x21 || op == 0x26 || op == 0x27
     || op == 0x29 || op == 0x2a || (decide (0x30 ≤ op) && decide (op ≤ 0x33)) || op == 0x35 || op == 0x43
     || (decide (0x46 ≤ op) && decide (op ≤ 0x48)) || op == 0x55 || op == 0x63 || op == 0x66 || op == 0x67
     || op == 0x6a || (decide (0x70 ≤ op) && decide (op ≤ 0x74))
     || (decide (0x80 ≤ op) && decide (op ≤ 0x83)) || op == 0x85 || op == 0x86
     || (decide (0xc0 ≤ op) && decide (op ≤ 0xca))

/-- R70: warp opcodes of the WX and WM formats. -/
def warpOpTwoWords (op : Nat) : Bool :=
  op == 0x2 || op == 0x10 || op == 0x13 || (decide (0x16 ≤ op) && decide (op ≤ 0x18)) || op == 0x1d
     || op == 0x1e || op == 0x41 || op == 0x44 || op == 0x45 || (decide (0x65 ≤ op) && decide (op ≤ 0x67))
     || op == 0x82 || (decide (0xa0 ≤ op) && decide (op ≤ 0xa5))
     || (decide (0x100 ≤ op) && decide (op ≤ 0x103)) || op == 0x106
     || (decide (0x120 ≤ op) && decide (op ≤ 0x125)) || (decide (0x140 ≤ op) && decide (op ≤ 0x142))
     || op == 0x164

/-- The opcode of a first word is one that the map of its set allocates (R67, R69). -/
def opcodeAllocated (w : W32) : Bool :=
  if w.getLsbD 31 then warpOpAllocated (w.extractLsb' 18 9).toNat
  else laneOpAllocated (w.extractLsb' 18 8).toNat

/-- The field values that the entry of each word accepts. A step that is no instruction word has none to check. -/
def wellFormed : Instr → Bool
  | .iadd _ _ _ _ => true
  | .isub _ _ _ _ => true
  | .iaddi _ _ _ _ => true
  | .iabsd _ _ _ _ => true
  | .imin _ _ _ _ => true
  | .imax _ _ _ _ => true
  | .umin _ _ _ _ => true
  | .umax _ _ _ _ => true
  | .imul24 _ _ _ _ => true
  | .umul24 _ _ _ _ => true
  | .imad24 _ _ _ _ _ _ => true
  | .imul _ _ _ _ => true
  | .imulhi _ _ _ _ => true
  | .umulhi _ _ _ _ => true
  | .idiv _ _ _ _ => true
  | .udiv _ _ _ _ => true
  | .irem _ _ _ _ => true
  | .urem _ _ _ _ => true
  | .iadds _ _ _ _ => true
  | .isubs _ _ _ _ => true
  | .iadd64 _ _ _ _ => true
  | .isub64 _ _ _ _ => true
  | .imad32 _ _ _ _ _ => true
  | .and _ _ _ _ => true
  | .or _ _ _ _ => true
  | .xor _ _ _ _ => true
  | .andn _ _ _ _ => true
  | .shl _ _ _ _ => true
  | .shr _ _ _ _ => true
  | .sar _ _ _ _ => true
  | .rotl _ _ _ _ => true
  | .bfe _ _ _ _ len _ => decide (len.toNat ≤ 32)
  | .bfi _ _ _ _ len _ => decide (len.toNat ≤ 32)
  | .popc _ _ _ => true
  | .clz _ _ _ => true
  | .ctz _ _ _ => true
  | .brev _ _ _ => true
  | .prmt _ _ _ _ _ _ _ => true
  | .lop3 _ _ _ _ _ _ => true
  | .mov _ _ _ => true
  | .movi _ _ _ => true
  | .sel _ _ _ _ _ _ => true
  | .lspec _ _ which => decide (which.toNat ≤ 6)
  | .icmp _ _ _ _ _ _ _ _ cond => cond.isOrder
  | .ucmp _ _ _ _ _ _ _ _ cond => cond.isOrder
  | .fcmp _ _ _ _ _ _ _ _ _ => true
  | .plop _ _ _ _ _ _ => true
  | .p2v _ _ => true
  | .v2p _ _ _ => true
  | .fadd _ _ _ _ => true
  | .fsub _ _ _ _ => true
  | .fmul _ _ _ _ => true
  | .ffma _ _ _ _ _ => true
  | .fmin _ _ _ _ => true
  | .fmax _ _ _ _ => true
  | .fmed3 _ _ _ _ _ => true
  | .fclamp _ _ _ _ _ => true
  | .frnd _ _ _ _ => true
  | .fabs _ _ _ => true
  | .fneg _ _ _ => true
  | .frcp _ _ _ => true
  | .frsq _ _ _ => true
  | .fsqrt _ _ _ => true
  | .fdiv _ _ _ _ => true
  | .fexp2 _ _ _ => true
  | .flog2 _ _ _ => true
  | .fsin _ _ _ => true
  | .fcos _ _ _ => true
  | .ftanh _ _ _ => true
  | .flut _ _ _ => true
  | .fclass _ _ _ _ _ => true
  | .hadd2 _ _ _ _ => true
  | .hsub2 _ _ _ _ => true
  | .hmul2 _ _ _ _ => true
  | .hfma2 _ _ _ _ _ => true
  | .hmin2 _ _ _ _ => true
  | .hmax2 _ _ _ _ => true
  | .hmed3 _ _ _ _ _ => true
  | .hclamp2 _ _ _ _ _ => true
  | .badd2 _ _ _ _ => true
  | .bmul2 _ _ _ _ => true
  | .bfma2 _ _ _ _ _ => true
  | .bmin2 _ _ _ _ => true
  | .bmax2 _ _ _ _ => true
  | .cvt _ _ _ _ _ _ _ => true
  | .pack2 _ _ _ _ _ _ _ => true
  | .pack4 _ _ _ _ _ _ => true
  | .unpack _ _ _ idx st => !(st.is16 && decide (2 ≤ idx.toNat))
  | .qb8 _ _ _ _ _ => true
  | .shfl _ _ _ vb nw imm b5 seg mode => decide (seg.toNat ≤ 5) && (!nw || mode.rotates) && (imm || b5 == 0) && (!imm || vb == 0)
  | .vote _ vd mode _ _ pd => if mode.toReg then pd == 0 else vd == 0
  | .reduce _ _ _ _ => true
  | .scan _ _ _ _ _ => true
  | .matchAny _ _ _ => true
  | .rdlane _ _ _ sl lsrc lane => (lsrc || sl == 0) && (!lsrc || lane == 0)
  | .wrlane _ _ _ sl lsrc lane => (lsrc || sl == 0) && (!lsrc || lane == 0)
  | .vpcget _ _ => true
  | .vpcset _ _ => true
  | .lbra _ _ => true
  | .lbrx _ _ => true
  | .join _ _ => true
  | .jarr _ _ _ => true
  | .lexit _ => true
  | .ld _ _ _ _ sx _ size _ ord => ord.forLoad && (!sx || size.isSub)
  | .st _ _ _ _ _ _ ord => ord.forStore
  | .lds _ _ _ _ sx _ size ord => ord.forLoad && (!sx || size.isSub)
  | .sts _ _ _ _ _ ord => ord.forStore
  | .atom _ _ _ _ _ aop _ size _ _ => aop.accepts size
  | .atoms _ _ _ _ _ aop _ size _ => aop.accepts size
  | .cst _ _ _ _ _ _ ord => ord.forStore
  | .accrd _ _ _ _ _ size => !size.isSub
  | .accwr _ _ _ _ size => !size.isSub
  | .discard _ _ _ => true
  | .pref _ _ _ => true
  | .sadd _ _ _ _ => true
  | .ssub _ _ _ _ => true
  | .saddi _ _ _ _ => true
  | .smul _ _ _ _ => true
  | .smulhi _ _ _ _ => true
  | .smin _ _ _ _ => true
  | .smax _ _ _ _ => true
  | .sminn _ _ _ _ => true
  | .smaxn _ _ _ _ => true
  | .sand _ _ _ _ => true
  | .sor _ _ _ _ => true
  | .sxor _ _ _ _ => true
  | .sshl _ _ _ _ => true
  | .sshr _ _ _ _ => true
  | .ssar _ _ _ _ => true
  | .smov _ _ _ => true
  | .smovi _ _ _ => true
  | .sadd64 _ _ _ _ => true
  | .ssub64 _ _ _ _ => true
  | .sbfe _ _ _ _ len _ => decide (len.toNat ≤ 32)
  | .spopc _ _ _ => true
  | .sclz _ _ _ => true
  | .scmp _ _ _ t _ _ _ _ _ cond => cond.isOrder || t.isFloat
  | .ssel _ _ _ _ _ _ => true
  | .qlop _ _ _ _ _ _ => true
  | .sdiv _ _ _ _ => true
  | .sdivn _ _ _ _ => true
  | .sfadd _ _ _ _ => true
  | .sfmul _ _ _ _ => true
  | .sffma _ _ _ _ _ => true
  | .scvt _ _ _ _ _ _ _ => true
  | .bra _ _ => true
  | .brx _ _ _ n => n != 0
  | .call _ _ => true
  | .ret _ => true
  | .loop _ _ lend => decide (3 ≤ lend.toNat)
  | .loopi _ _ lend => decide (3 ≤ lend.toNat)
  | .lbreak _ _ => true
  | .exit _ => true
  | .nop _ => true
  | .trap _ _ => true
  | .tret _ => true
  | .sleep _ _ => true
  | .bar _ sa cnt _ _ => cnt || sa == 0
  | .gbar _ _ => true
  | .mbinit _ _ _ => true
  | .mbexp _ _ _ => true
  | .mbarr _ _ sa tx => tx || sa == 0
  | .mbwait _ _ _ _ _ => true
  | .fence _ _ ord => ord.forFence
  | .fencea _ _ ord => ord.forFencea
  | .srd _ _ idx => srAssigned idx
  | .swr _ idx _ => srAssigned idx
  | .capq _ _ _ _ _ => true
  | .clk _ _ => true
  | .evpost _ _ _ => true
  | .tblld _ _ => true
  | .tblswp _ => true
  | .racq _ => true
  | .rrel _ => true
  | .tierq _ _ _ => true
  | .sld _ _ _ _ sx _ size _ ord => ord.forLoad && (!sx || size.isSub)
  | .sst _ _ _ _ _ _ ord => ord.forStore
  | .satom _ _ _ _ _ aop _ size _ _ => aop.accepts size
  | .slds _ _ _ _ sx _ size ord => ord.forLoad && (!sx || size.isSub)
  | .ssts _ _ _ _ _ ord => ord.forStore
  | .spref _ _ _ => true
  | .spclr _ _ _ => true
  | .spqry _ _ _ _ => true
  | .tcopy _ _ _ _ _ tbar nobar => !nobar || tbar == 0
  | .tstore _ _ _ _ _ tbar nobar => !nobar || tbar == 0
  | .tloadx _ _ _ _ _ tbar nobar chain => (!nobar || tbar == 0) && chain != 0
  | .tstorex _ _ _ _ _ tbar nobar chain => (!nobar || tbar == 0) && chain != 0
  | .tlrec _ _ _ => true
  | .twait _ _ => true
  | .xjob _ _ _ _ => true
  | .xwait _ _ _ _ => true
  | .qinit _ _ _ => true
  | .qpush _ _ _ _ ord => ord.forPush
  | .qpop _ _ _ _ _ ord => ord.forPop
  | .qtry _ _ _ _ _ ord => ord.forPop
  | .qclose _ _ _ ord => ord.forPush
  | .qlen _ _ _ => true
  | .mma _ _ _ _ _ => true
  | .mmas _ _ _ _ _ => true
  | .mmap _ _ _ _ _ => true
  | .accz _ _ _ => true
  | .acccpy _ _ _ _ => true
  | .mwait _ _ => true
  | .tbegin _ _ => true
  | .tend _ => true
  | .tabort _ _ => true
  | .tstat _ _ => true
  | .asdecl _ _ _ g _ => decide (8 ≤ g.toNat) && decide (g.toNat ≤ 20)
  | .asdrop _ _ => true
  | .unallocatedOpcode w => !opcodeAllocated w
  | .lateDataArrival _ _ _ => true
  | .joinForcedRelease _ => true
  | .racqGrant _ => true
  | .rrelDrainDone _ => true
  | .sleepEnd _ => true
  | .mbwaitTimeout _ => true
  | .pergolaParkedWord _ _ => true
  | .matrixStep _ _ => true
  | .matrixOpComplete _ _ => true
  | .copyChunk _ => true
  | .copyLineDelivery _ _ _ => true
  | .copyComplete _ _ => true
  | .jobStart _ _ _ => true
  | .jobComplete _ _ _ => true
  | .rdcEviction _ _ => true
  | .granuleRequest _ _ => true
  | .granuleGrant _ => true
  | .wound _ => true
  | .taskSlotGrant _ => true
  | .taskCommit _ => true
  | .trapDelivery _ => true
  | .teamStall _ => true
  | .priResponse _ _ => true
  | .atsCompletion _ _ _ _ _ => true
  | .atsInvalidateRequest _ _ _ => true
  | .invalidationComplete => true
  | .pageFaultSwapOut _ => true
  | .packetBegin _ _ => true
  | .waitSignalPoll _ _ => true
  | .teamAdmit _ _ _ => true
  | .gangReserve _ _ _ => true
  | .teamRetire _ => true
  | .launchComplete _ => true
  | .doorbell _ _ => true
  | .ctxcmdActivate _ => true
  | .ctxcmdRetire _ => true
  | .invgo => true
  | .keycmdLoad => true
  | .keycmdErase => true
  | .leasecmdOfferGrant _ => true
  | .leasecmdReclaim _ => true
  | .leasecmdReturn _ => true
  | .leasecmdRetire _ => true
  | .grantMessage _ _ _ _ => true
  | .leasePeerTimeout _ => true
  | .reclaimArrival _ => true
  | .quiesceMessage _ _ _ => true
  | .chunkMoved _ _ => true
  | .leaseDemote _ => true
  | .leaseDeadline _ => true
  | .fabricRequest _ _ => true
  | .fabricReply _ _ => true
  | .fabricTimeout _ => true
  | .planeFailure _ => true
  | .planeDrainDone _ => true
  | .pcieLinkDown => true
  | .ucieLinkFailure => true
  | .patrolScrub _ => true
  | .peerRequest _ _ => true
  | .precmdPreempt _ => true
  | .precmdResume _ => true
  | .precmdDiscard _ => true
  | .frameSave _ => true
  | .frameRestore _ _ => true
  | .eventQueueEnable _ _ => true
  | .devnumWrite _ => true
  | .fwcmdGo => true
  | .registerWrite _ _ => true
  | .deviceReset => true
  | .functionReady _ => true
  | .getVersion => true
  | .getCapabilities => true
  | .negotiateAlgorithms => true
  | .getDigests => true
  | .getCertificate _ _ => true
  | .challenge _ => true
  | .getMeasurements _ => true
  | .thermalThrottle _ _ => true
  | .moduleFault _ => true
  | .nguyxFinalise _ _ => true
  | .storePerformed _ => true
  | .eventQueueSpace _ => true
  | .leaseFailed _ => true
  | .portUp _ => true
  | .pcieLinkUp => true
  | .moduleFaultEnd _ => true
  | .issuePauseEnd _ => true
  | .corePowerGate _ _ => true
  | .debuggerHalt _ => true
  | .debuggerResume _ => true
  | .controlStateParityError _ => true

/-- The row stands for an instruction word (R67, R69), or for an unallocated one (R71). -/
def isWord : Instr → Bool
  | .iadd _ _ _ _ => true
  | .isub _ _ _ _ => true
  | .iaddi _ _ _ _ => true
  | .iabsd _ _ _ _ => true
  | .imin _ _ _ _ => true
  | .imax _ _ _ _ => true
  | .umin _ _ _ _ => true
  | .umax _ _ _ _ => true
  | .imul24 _ _ _ _ => true
  | .umul24 _ _ _ _ => true
  | .imad24 _ _ _ _ _ _ => true
  | .imul _ _ _ _ => true
  | .imulhi _ _ _ _ => true
  | .umulhi _ _ _ _ => true
  | .idiv _ _ _ _ => true
  | .udiv _ _ _ _ => true
  | .irem _ _ _ _ => true
  | .urem _ _ _ _ => true
  | .iadds _ _ _ _ => true
  | .isubs _ _ _ _ => true
  | .iadd64 _ _ _ _ => true
  | .isub64 _ _ _ _ => true
  | .imad32 _ _ _ _ _ => true
  | .and _ _ _ _ => true
  | .or _ _ _ _ => true
  | .xor _ _ _ _ => true
  | .andn _ _ _ _ => true
  | .shl _ _ _ _ => true
  | .shr _ _ _ _ => true
  | .sar _ _ _ _ => true
  | .rotl _ _ _ _ => true
  | .bfe _ _ _ _ _ _ => true
  | .bfi _ _ _ _ _ _ => true
  | .popc _ _ _ => true
  | .clz _ _ _ => true
  | .ctz _ _ _ => true
  | .brev _ _ _ => true
  | .prmt _ _ _ _ _ _ _ => true
  | .lop3 _ _ _ _ _ _ => true
  | .mov _ _ _ => true
  | .movi _ _ _ => true
  | .sel _ _ _ _ _ _ => true
  | .lspec _ _ _ => true
  | .icmp _ _ _ _ _ _ _ _ _ => true
  | .ucmp _ _ _ _ _ _ _ _ _ => true
  | .fcmp _ _ _ _ _ _ _ _ _ => true
  | .plop _ _ _ _ _ _ => true
  | .p2v _ _ => true
  | .v2p _ _ _ => true
  | .fadd _ _ _ _ => true
  | .fsub _ _ _ _ => true
  | .fmul _ _ _ _ => true
  | .ffma _ _ _ _ _ => true
  | .fmin _ _ _ _ => true
  | .fmax _ _ _ _ => true
  | .fmed3 _ _ _ _ _ => true
  | .fclamp _ _ _ _ _ => true
  | .frnd _ _ _ _ => true
  | .fabs _ _ _ => true
  | .fneg _ _ _ => true
  | .frcp _ _ _ => true
  | .frsq _ _ _ => true
  | .fsqrt _ _ _ => true
  | .fdiv _ _ _ _ => true
  | .fexp2 _ _ _ => true
  | .flog2 _ _ _ => true
  | .fsin _ _ _ => true
  | .fcos _ _ _ => true
  | .ftanh _ _ _ => true
  | .flut _ _ _ => true
  | .fclass _ _ _ _ _ => true
  | .hadd2 _ _ _ _ => true
  | .hsub2 _ _ _ _ => true
  | .hmul2 _ _ _ _ => true
  | .hfma2 _ _ _ _ _ => true
  | .hmin2 _ _ _ _ => true
  | .hmax2 _ _ _ _ => true
  | .hmed3 _ _ _ _ _ => true
  | .hclamp2 _ _ _ _ _ => true
  | .badd2 _ _ _ _ => true
  | .bmul2 _ _ _ _ => true
  | .bfma2 _ _ _ _ _ => true
  | .bmin2 _ _ _ _ => true
  | .bmax2 _ _ _ _ => true
  | .cvt _ _ _ _ _ _ _ => true
  | .pack2 _ _ _ _ _ _ _ => true
  | .pack4 _ _ _ _ _ _ => true
  | .unpack _ _ _ _ _ => true
  | .qb8 _ _ _ _ _ => true
  | .shfl _ _ _ _ _ _ _ _ _ => true
  | .vote _ _ _ _ _ _ => true
  | .reduce _ _ _ _ => true
  | .scan _ _ _ _ _ => true
  | .matchAny _ _ _ => true
  | .rdlane _ _ _ _ _ _ => true
  | .wrlane _ _ _ _ _ _ => true
  | .vpcget _ _ => true
  | .vpcset _ _ => true
  | .lbra _ _ => true
  | .lbrx _ _ => true
  | .join _ _ => true
  | .jarr _ _ _ => true
  | .lexit _ => true
  | .ld _ _ _ _ _ _ _ _ _ => true
  | .st _ _ _ _ _ _ _ => true
  | .lds _ _ _ _ _ _ _ _ => true
  | .sts _ _ _ _ _ _ => true
  | .atom _ _ _ _ _ _ _ _ _ _ => true
  | .atoms _ _ _ _ _ _ _ _ _ => true
  | .cst _ _ _ _ _ _ _ => true
  | .accrd _ _ _ _ _ _ => true
  | .accwr _ _ _ _ _ => true
  | .discard _ _ _ => true
  | .pref _ _ _ => true
  | .sadd _ _ _ _ => true
  | .ssub _ _ _ _ => true
  | .saddi _ _ _ _ => true
  | .smul _ _ _ _ => true
  | .smulhi _ _ _ _ => true
  | .smin _ _ _ _ => true
  | .smax _ _ _ _ => true
  | .sminn _ _ _ _ => true
  | .smaxn _ _ _ _ => true
  | .sand _ _ _ _ => true
  | .sor _ _ _ _ => true
  | .sxor _ _ _ _ => true
  | .sshl _ _ _ _ => true
  | .sshr _ _ _ _ => true
  | .ssar _ _ _ _ => true
  | .smov _ _ _ => true
  | .smovi _ _ _ => true
  | .sadd64 _ _ _ _ => true
  | .ssub64 _ _ _ _ => true
  | .sbfe _ _ _ _ _ _ => true
  | .spopc _ _ _ => true
  | .sclz _ _ _ => true
  | .scmp _ _ _ _ _ _ _ _ _ _ => true
  | .ssel _ _ _ _ _ _ => true
  | .qlop _ _ _ _ _ _ => true
  | .sdiv _ _ _ _ => true
  | .sdivn _ _ _ _ => true
  | .sfadd _ _ _ _ => true
  | .sfmul _ _ _ _ => true
  | .sffma _ _ _ _ _ => true
  | .scvt _ _ _ _ _ _ _ => true
  | .bra _ _ => true
  | .brx _ _ _ _ => true
  | .call _ _ => true
  | .ret _ => true
  | .loop _ _ _ => true
  | .loopi _ _ _ => true
  | .lbreak _ _ => true
  | .exit _ => true
  | .nop _ => true
  | .trap _ _ => true
  | .tret _ => true
  | .sleep _ _ => true
  | .bar _ _ _ _ _ => true
  | .gbar _ _ => true
  | .mbinit _ _ _ => true
  | .mbexp _ _ _ => true
  | .mbarr _ _ _ _ => true
  | .mbwait _ _ _ _ _ => true
  | .fence _ _ _ => true
  | .fencea _ _ _ => true
  | .srd _ _ _ => true
  | .swr _ _ _ => true
  | .capq _ _ _ _ _ => true
  | .clk _ _ => true
  | .evpost _ _ _ => true
  | .tblld _ _ => true
  | .tblswp _ => true
  | .racq _ => true
  | .rrel _ => true
  | .tierq _ _ _ => true
  | .sld _ _ _ _ _ _ _ _ _ => true
  | .sst _ _ _ _ _ _ _ => true
  | .satom _ _ _ _ _ _ _ _ _ _ => true
  | .slds _ _ _ _ _ _ _ _ => true
  | .ssts _ _ _ _ _ _ => true
  | .spref _ _ _ => true
  | .spclr _ _ _ => true
  | .spqry _ _ _ _ => true
  | .tcopy _ _ _ _ _ _ _ => true
  | .tstore _ _ _ _ _ _ _ => true
  | .tloadx _ _ _ _ _ _ _ _ => true
  | .tstorex _ _ _ _ _ _ _ _ => true
  | .tlrec _ _ _ => true
  | .twait _ _ => true
  | .xjob _ _ _ _ => true
  | .xwait _ _ _ _ => true
  | .qinit _ _ _ => true
  | .qpush _ _ _ _ _ => true
  | .qpop _ _ _ _ _ _ => true
  | .qtry _ _ _ _ _ _ => true
  | .qclose _ _ _ _ => true
  | .qlen _ _ _ => true
  | .mma _ _ _ _ _ => true
  | .mmas _ _ _ _ _ => true
  | .mmap _ _ _ _ _ => true
  | .accz _ _ _ => true
  | .acccpy _ _ _ _ => true
  | .mwait _ _ => true
  | .tbegin _ _ => true
  | .tend _ => true
  | .tabort _ _ => true
  | .tstat _ _ => true
  | .asdecl _ _ _ _ _ => true
  | .asdrop _ _ => true
  | .unallocatedOpcode _ => true
  | .lateDataArrival _ _ _ => false
  | .joinForcedRelease _ => false
  | .racqGrant _ => false
  | .rrelDrainDone _ => false
  | .sleepEnd _ => false
  | .mbwaitTimeout _ => false
  | .pergolaParkedWord _ _ => false
  | .matrixStep _ _ => false
  | .matrixOpComplete _ _ => false
  | .copyChunk _ => false
  | .copyLineDelivery _ _ _ => false
  | .copyComplete _ _ => false
  | .jobStart _ _ _ => false
  | .jobComplete _ _ _ => false
  | .rdcEviction _ _ => false
  | .granuleRequest _ _ => false
  | .granuleGrant _ => false
  | .wound _ => false
  | .taskSlotGrant _ => false
  | .taskCommit _ => false
  | .trapDelivery _ => false
  | .teamStall _ => false
  | .priResponse _ _ => false
  | .atsCompletion _ _ _ _ _ => false
  | .atsInvalidateRequest _ _ _ => false
  | .invalidationComplete => false
  | .pageFaultSwapOut _ => false
  | .packetBegin _ _ => false
  | .waitSignalPoll _ _ => false
  | .teamAdmit _ _ _ => false
  | .gangReserve _ _ _ => false
  | .teamRetire _ => false
  | .launchComplete _ => false
  | .doorbell _ _ => false
  | .ctxcmdActivate _ => false
  | .ctxcmdRetire _ => false
  | .invgo => false
  | .keycmdLoad => false
  | .keycmdErase => false
  | .leasecmdOfferGrant _ => false
  | .leasecmdReclaim _ => false
  | .leasecmdReturn _ => false
  | .leasecmdRetire _ => false
  | .grantMessage _ _ _ _ => false
  | .leasePeerTimeout _ => false
  | .reclaimArrival _ => false
  | .quiesceMessage _ _ _ => false
  | .chunkMoved _ _ => false
  | .leaseDemote _ => false
  | .leaseDeadline _ => false
  | .fabricRequest _ _ => false
  | .fabricReply _ _ => false
  | .fabricTimeout _ => false
  | .planeFailure _ => false
  | .planeDrainDone _ => false
  | .pcieLinkDown => false
  | .ucieLinkFailure => false
  | .patrolScrub _ => false
  | .peerRequest _ _ => false
  | .precmdPreempt _ => false
  | .precmdResume _ => false
  | .precmdDiscard _ => false
  | .frameSave _ => false
  | .frameRestore _ _ => false
  | .eventQueueEnable _ _ => false
  | .devnumWrite _ => false
  | .fwcmdGo => false
  | .registerWrite _ _ => false
  | .deviceReset => false
  | .functionReady _ => false
  | .getVersion => false
  | .getCapabilities => false
  | .negotiateAlgorithms => false
  | .getDigests => false
  | .getCertificate _ _ => false
  | .challenge _ => false
  | .getMeasurements _ => false
  | .thermalThrottle _ _ => false
  | .moduleFault _ => false
  | .nguyxFinalise _ _ => false
  | .storePerformed _ => false
  | .eventQueueSpace _ => false
  | .leaseFailed _ => false
  | .portUp _ => false
  | .pcieLinkUp => false
  | .moduleFaultEnd _ => false
  | .issuePauseEnd _ => false
  | .corePowerGate _ _ => false
  | .debuggerHalt _ => false
  | .debuggerResume _ => false
  | .controlStateParityError _ => false

end Sys2Proof
end

