-- ==== Sys2Proof/Decode.lean ====
section
/-! DEFINITION. The decoder (R58 to R72) and the encoder, both written from the same format tables. -/

namespace Sys2Proof

/-! ## Field codes (R65 and the entries) -/

/-- R65. -/
def Scope.bits : Scope → BitVec 2
  | .core => 0#2
  | .die => 1#2
  | .device => 2#2
  | .system => 3#2

/-- R65. -/
def Scope.ofBits (b : BitVec 2) : Option Scope :=
  match b.toNat with
  | 0 => some .core
  | 1 => some .die
  | 2 => some .device
  | _ => some .system

/-- R65. -/
def Ord.bits : Ord → BitVec 3
  | .plain => 0#3
  | .rlx => 1#3
  | .acq => 2#3
  | .rel => 3#3
  | .acqrel => 4#3

/-- R65: the other codes are reserved. -/
def Ord.ofBits (b : BitVec 3) : Option Ord :=
  match b.toNat with
  | 0 => some .plain
  | 1 => some .rlx
  | 2 => some .acq
  | 3 => some .rel
  | 4 => some .acqrel
  | _ => none

/-- R65. -/
def Size.bits : Size → BitVec 3
  | .b8 => 0#3
  | .b16 => 1#3
  | .b32 => 2#3
  | .b64 => 3#3
  | .b128 => 4#3

/-- R65: the other codes are reserved. -/
def Size.ofBits (b : BitVec 3) : Option Size :=
  match b.toNat with
  | 0 => some .b8
  | 1 => some .b16
  | 2 => some .b32
  | 3 => some .b64
  | 4 => some .b128
  | _ => none

/-- R65. -/
def Aop.bits : Aop → BitVec 4
  | .add => 0#4
  | .min => 1#4
  | .max => 2#4
  | .minn => 3#4
  | .maxn => 4#4
  | .and => 5#4
  | .or => 6#4
  | .xor => 7#4
  | .exch => 8#4
  | .cas => 9#4
  | .fadd => 10#4
  | .fmin => 11#4
  | .fmax => 12#4
  | .incwrap => 13#4
  | .decwrap => 14#4

/-- R65: the other codes are reserved. -/
def Aop.ofBits (b : BitVec 4) : Option Aop :=
  match b.toNat with
  | 0 => some .add
  | 1 => some .min
  | 2 => some .max
  | 3 => some .minn
  | 4 => some .maxn
  | 5 => some .and
  | 6 => some .or
  | 7 => some .xor
  | 8 => some .exch
  | 9 => some .cas
  | 10 => some .fadd
  | 11 => some .fmin
  | 12 => some .fmax
  | 13 => some .incwrap
  | 14 => some .decwrap
  | _ => none

/-- R150. -/
def Cond.bits : Cond → BitVec 3
  | .eq => 0#3
  | .ne => 1#3
  | .lt => 2#3
  | .le => 3#3
  | .gt => 4#3
  | .ge => 5#3
  | .num => 6#3
  | .nan => 7#3

/-- R150. -/
def Cond.ofBits (b : BitVec 3) : Option Cond :=
  match b.toNat with
  | 0 => some .eq
  | 1 => some .ne
  | 2 => some .lt
  | 3 => some .le
  | 4 => some .gt
  | 5 => some .ge
  | 6 => some .num
  | _ => some .nan

/-- R150. -/
def Bop.bits : Bop → BitVec 2
  | .and => 0#2
  | .or => 1#2
  | .xor => 2#2

/-- R150: the other codes are reserved. -/
def Bop.ofBits (b : BitVec 2) : Option Bop :=
  match b.toNat with
  | 0 => some .and
  | 1 => some .or
  | 2 => some .xor
  | _ => none

/-- R140. -/
def Ty.bits : Ty → BitVec 4
  | .s32 => 0#4
  | .n32 => 1#4
  | .s16 => 2#4
  | .n16 => 3#4
  | .s8 => 4#4
  | .n8 => 5#4
  | .f32 => 6#4
  | .f16 => 7#4
  | .bf16 => 8#4
  | .e5m2 => 9#4
  | .e4m3 => 10#4
  | .e3m2 => 11#4
  | .e2m3 => 12#4
  | .e2m1 => 13#4
  | .s64 => 14#4
  | .n64 => 15#4

/-- R140. -/
def Ty.ofBits (b : BitVec 4) : Option Ty :=
  match b.toNat with
  | 0 => some .s32
  | 1 => some .n32
  | 2 => some .s16
  | 3 => some .n16
  | 4 => some .s8
  | 5 => some .n8
  | 6 => some .f32
  | 7 => some .f16
  | 8 => some .bf16
  | 9 => some .e5m2
  | 10 => some .e4m3
  | 11 => some .e3m2
  | 12 => some .e2m3
  | 13 => some .e2m1
  | 14 => some .s64
  | _ => some .n64

/-- R124. -/
def Rm.bits : Rm → BitVec 2
  | .rn => 0#2
  | .rz => 1#2
  | .rm => 2#2
  | .rp => 3#2

/-- R124. -/
def Rm.ofBits (b : BitVec 2) : Option Rm :=
  match b.toNat with
  | 0 => some .rn
  | 1 => some .rz
  | 2 => some .rm
  | _ => some .rp

/-- R163. -/
def RedOp.bits : RedOp → BitVec 4
  | .add => 0#4
  | .min => 1#4
  | .max => 2#4
  | .minn => 3#4
  | .maxn => 4#4
  | .and => 5#4
  | .or => 6#4
  | .xor => 7#4
  | .fadd => 8#4
  | .fmin => 9#4
  | .fmax => 10#4

/-- R163: the other codes are reserved. -/
def RedOp.ofBits (b : BitVec 4) : Option RedOp :=
  match b.toNat with
  | 0 => some .add
  | 1 => some .min
  | 2 => some .max
  | 3 => some .minn
  | 4 => some .maxn
  | 5 => some .and
  | 6 => some .or
  | 7 => some .xor
  | 8 => some .fadd
  | 9 => some .fmin
  | 10 => some .fmax
  | _ => none

/-- R88. -/
def ShflMode.bits : ShflMode → BitVec 2
  | .pick => 0#2
  | .rotd => 1#2
  | .rotu => 2#2
  | .bfly => 3#2

/-- R88. -/
def ShflMode.ofBits (b : BitVec 2) : Option ShflMode :=
  match b.toNat with
  | 0 => some .pick
  | 1 => some .rotd
  | 2 => some .rotu
  | _ => some .bfly

/-- R89. -/
def VoteMode.bits : VoteMode → BitVec 3
  | .mask => 0#3
  | .count => 1#3
  | .all => 2#3
  | .any => 3#3
  | .unif => 4#3

/-- R89: the other codes are reserved. -/
def VoteMode.ofBits (b : BitVec 3) : Option VoteMode :=
  match b.toNat with
  | 0 => some .mask
  | 1 => some .count
  | 2 => some .all
  | 3 => some .any
  | 4 => some .unif
  | _ => none

/-- R150. -/
def CmpT.bits : CmpT → BitVec 2
  | .s32 => 0#2
  | .n32 => 1#2
  | .f32 => 2#2

/-- R150: the other codes are reserved. -/
def CmpT.ofBits (b : BitVec 2) : Option CmpT :=
  match b.toNat with
  | 0 => some .s32
  | 1 => some .n32
  | 2 => some .f32
  | _ => none

/-- R309. -/
def GbarCls.bits : GbarCls → BitVec 2
  | .pavilion => 0#2
  | .die => 1#2
  | .device => 2#2

/-- R309: the other codes are reserved. -/
def GbarCls.ofBits (b : BitVec 2) : Option GbarCls :=
  match b.toNat with
  | 0 => some .pavilion
  | 1 => some .die
  | 2 => some .device
  | _ => none

/-! ## Fields of a word -/

/-- Bits [lo+w-1:lo]. -/
def fld {n : Nat} (x : BitVec n) (lo w : Nat) : BitVec w := x.extractLsb' lo w
/-- Bits [lo+w-1:lo] must be zero (R71). -/
def isZ {n : Nat} (x : BitVec n) (lo w : Nat) : Bool := x.extractLsb' lo w == 0
def bit {n : Nat} (x : BitVec n) (i : Nat) : Bool := x.getLsbD i
/-- A decode arm whose zero fields hold. -/
def ck (c : Bool) (i : Option Instr) : Option Instr := if c then i else none

/-- R61: bits [30:26] of a lane word. -/
def laneHdr (w : W32) : LaneHdr := ⟨bit w 30, bit w 29, fld w 26 3⟩
/-- R62: bits [30:27] of a warp word. -/
def warpHdr (w : W32) : WarpHdr := ⟨bit w 30, fld w 27 3⟩

/-- A lane word from its head, opcode and bits [17:0] (R61). -/
def laneWord (h : LaneHdr) (op : BitVec 8) (x : BitVec 18) : W32 :=
  0#1 ++ BitVec.ofBool h.fin ++ BitVec.ofBool h.neg ++ h.gp ++ op ++ x
/-- A warp word from its head, opcode and bits [17:0] (R62). -/
def warpWord (h : WarpHdr) (op : BitVec 9) (x : BitVec 18) : W32 :=
  1#1 ++ BitVec.ofBool h.fin ++ h.qg ++ op ++ x

/-! ## Decoding -/

/-- The lane words of R67 and R68: opcode, head, bits [17:0], extension word. -/
def decodeLaneRaw (op : Nat) (h : LaneHdr) (x : BitVec 18) (y : W32) : Option Instr :=
  match op with
  | 0x0 => some (.iadd h (fld x 12 6) (fld x 6 6) (fld x 0 6))
  | 0x1 => some (.isub h (fld x 12 6) (fld x 6 6) (fld x 0 6))
  | 0x2 => ck (isZ x 0 6) (some (.iaddi h (fld x 12 6) (fld x 6 6) y))
  | 0x3 => some (.iabsd h (fld x 12 6) (fld x 6 6) (fld x 0 6))
  | 0x4 => some (.imin h (fld x 12 6) (fld x 6 6) (fld x 0 6))
  | 0x5 => some (.imax h (fld x 12 6) (fld x 6 6) (fld x 0 6))
  | 0x6 => some (.umin h (fld x 12 6) (fld x 6 6) (fld x 0 6))
  | 0x7 => some (.umax h (fld x 12 6) (fld x 6 6) (fld x 0 6))
  | 0x8 => some (.imul24 h (fld x 12 6) (fld x 6 6) (fld x 0 6))
  | 0x9 => some (.umul24 h (fld x 12 6) (fld x 6 6) (fld x 0 6))
  | 0xa => ck (isZ y 1 25) (some (.imad24 h (fld x 12 6) (fld x 6 6) (fld x 0 6) (fld y 26 6) (bit y 0)))
  | 0xb => some (.imul h (fld x 12 6) (fld x 6 6) (fld x 0 6))
  | 0xc => some (.imulhi h (fld x 12 6) (fld x 6 6) (fld x 0 6))
  | 0xd => some (.umulhi h (fld x 12 6) (fld x 6 6) (fld x 0 6))
  | 0xe => some (.idiv h (fld x 12 6) (fld x 6 6) (fld x 0 6))
  | 0xf => some (.udiv h (fld x 12 6) (fld x 6 6) (fld x 0 6))
  | 0x10 => some (.irem h (fld x 12 6) (fld x 6 6) (fld x 0 6))
  | 0x11 => some (.urem h (fld x 12 6) (fld x 6 6) (fld x 0 6))
  | 0x12 => some (.iadds h (fld x 12 6) (fld x 6 6) (fld x 0 6))
  | 0x13 => some (.isubs h (fld x 12 6) (fld x 6 6) (fld x 0 6))
  | 0x14 => some (.iadd64 h (fld x 12 6) (fld x 6 6) (fld x 0 6))
  | 0x15 => some (.isub64 h (fld x 12 6) (fld x 6 6) (fld x 0 6))
  | 0x16 => ck (isZ y 0 26) (some (.imad32 h (fld x 12 6) (fld x 6 6) (fld x 0 6) (fld y 26 6)))
  | 0x18 => some (.and h (fld x 12 6) (fld x 6 6) (fld x 0 6))
  | 0x19 => some (.or h (fld x 12 6) (fld x 6 6) (fld x 0 6))
  | 0x1a => some (.xor h (fld x 12 6) (fld x 6 6) (fld x 0 6))
  | 0x1b => some (.andn h (fld x 12 6) (fld x 6 6) (fld x 0 6))
  | 0x1c => some (.shl h (fld x 12 6) (fld x 6 6) (fld x 0 6))
  | 0x1d => some (.shr h (fld x 12 6) (fld x 6 6) (fld x 0 6))
  | 0x1e => some (.sar h (fld x 12 6) (fld x 6 6) (fld x 0 6))
  | 0x1f => some (.rotl h (fld x 12 6) (fld x 6 6) (fld x 0 6))
  | 0x20 => ck (isZ x 0 6 && isZ y 12 20) (some (.bfe h (fld x 12 6) (fld x 6 6) (bit y 11) (fld y 5 6) (fld y 0 5)))
  | 0x21 => ck (isZ y 11 21) (some (.bfi h (fld x 12 6) (fld x 6 6) (fld x 0 6) (fld y 5 6) (fld y 0 5)))
  | 0x22 => ck (isZ x 0 6) (some (.popc h (fld x 12 6) (fld x 6 6)))
  | 0x23 => ck (isZ x 0 6) (some (.clz h (fld x 12 6) (fld x 6 6)))
  | 0x24 => ck (isZ x 0 6) (some (.ctz h (fld x 12 6) (fld x 6 6)))
  | 0x25 => ck (isZ x 0 6) (some (.brev h (fld x 12 6) (fld x 6 6)))
  | 0x26 => ck (isZ y 20 12 && isZ y 16 1) (some (.prmt h (fld x 12 6) (fld x 6 6) (fld x 0 6) (fld y 17 3) (fld y 12 4) (fld y 0 12)))
  | 0x27 => ck (isZ y 8 18) (some (.lop3 h (fld x 12 6) (fld x 6 6) (fld x 0 6) (fld y 26 6) (fld y 0 8)))
  | 0x28 => ck (isZ x 0 6) (some (.mov h (fld x 12 6) (fld x 6 6)))
  | 0x29 => ck (isZ x 0 12) (some (.movi h (fld x 12 6) y))
  | 0x2a => ck (isZ y 4 28) (some (.sel h (fld x 12 6) (fld x 6 6) (fld x 0 6) (bit y 3) (fld y 0 3)))
  | 0x2b => ck (isZ x 0 6) (some (.lspec h (fld x 12 6) (fld x 6 6)))
  | 0x30 => ck (isZ x 12 6 && isZ y 15 17) ((Bop.ofBits (fld y 9 2)).bind fun bop => (Cond.ofBits (fld y 0 3)).bind fun cond => some (.icmp h (fld x 6 6) (fld x 0 6) (bit y 14) (fld y 11 3) bop (fld y 6 3) (fld y 3 3) cond))
  | 0x31 => ck (isZ x 12 6 && isZ y 15 17) ((Bop.ofBits (fld y 9 2)).bind fun bop => (Cond.ofBits (fld y 0 3)).bind fun cond => some (.ucmp h (fld x 6 6) (fld x 0 6) (bit y 14) (fld y 11 3) bop (fld y 6 3) (fld y 3 3) cond))
  | 0x32 => ck (isZ x 12 6 && isZ y 15 17) ((Bop.ofBits (fld y 9 2)).bind fun bop => (Cond.ofBits (fld y 0 3)).bind fun cond => some (.fcmp h (fld x 6 6) (fld x 0 6) (bit y 14) (fld y 11 3) bop (fld y 6 3) (fld y 3 3) cond))
  | 0x33 => ck (isZ x 0 18 && isZ y 20 12) (some (.plop h (fld y 17 3) (fld y 14 3) (fld y 11 3) (fld y 8 3) (fld y 0 8)))
  | 0x34 => ck (isZ x 0 12) (some (.p2v h (fld x 12 6)))
  | 0x35 => ck (isZ x 12 6 && isZ x 0 6 && isZ y 7 25) (some (.v2p h (fld x 6 6) (fld y 0 7)))
  | 0x40 => some (.fadd h (fld x 12 6) (fld x 6 6) (fld x 0 6))
  | 0x41 => some (.fsub h (fld x 12 6) (fld x 6 6) (fld x 0 6))
  | 0x42 => some (.fmul h (fld x 12 6) (fld x 6 6) (fld x 0 6))
  | 0x43 => ck (isZ y 0 26) (some (.ffma h (fld x 12 6) (fld x 6 6) (fld x 0 6) (fld y 26 6)))
  | 0x44 => some (.fmin h (fld x 12 6) (fld x 6 6) (fld x 0 6))
  | 0x45 => some (.fmax h (fld x 12 6) (fld x 6 6) (fld x 0 6))
  | 0x46 => ck (isZ y 0 26) (some (.fmed3 h (fld x 12 6) (fld x 6 6) (fld x 0 6) (fld y 26 6)))
  | 0x47 => ck (isZ y 0 26) (some (.fclamp h (fld x 12 6) (fld x 6 6) (fld x 0 6) (fld y 26 6)))
  | 0x48 => ck (isZ x 0 6 && isZ y 2 30) ((Rm.ofBits (fld y 0 2)).bind fun rmode => some (.frnd h (fld x 12 6) (fld x 6 6) rmode))
  | 0x49 => ck (isZ x 0 6) (some (.fabs h (fld x 12 6) (fld x 6 6)))
  | 0x4a => ck (isZ x 0 6) (some (.fneg h (fld x 12 6) (fld x 6 6)))
  | 0x4b => ck (isZ x 0 6) (some (.frcp h (fld x 12 6) (fld x 6 6)))
  | 0x4c => ck (isZ x 0 6) (some (.frsq h (fld x 12 6) (fld x 6 6)))
  | 0x4d => ck (isZ x 0 6) (some (.fsqrt h (fld x 12 6) (fld x 6 6)))
  | 0x4e => some (.fdiv h (fld x 12 6) (fld x 6 6) (fld x 0 6))
  | 0x4f => ck (isZ x 0 6) (some (.fexp2 h (fld x 12 6) (fld x 6 6)))
  | 0x50 => ck (isZ x 0 6) (some (.flog2 h (fld x 12 6) (fld x 6 6)))
  | 0x51 => ck (isZ x 0 6) (some (.fsin h (fld x 12 6) (fld x 6 6)))
  | 0x52 => ck (isZ x 0 6) (some (.fcos h (fld x 12 6) (fld x 6 6)))
  | 0x53 => ck (isZ x 0 6) (some (.ftanh h (fld x 12 6) (fld x 6 6)))
  | 0x54 => ck (isZ x 0 6) (some (.flut h (fld x 12 6) (fld x 6 6)))
  | 0x55 => ck (isZ x 0 6 && isZ y 13 19) (some (.fclass h (fld x 12 6) (fld x 6 6) (fld y 10 3) (fld y 0 10)))
  | 0x60 => some (.hadd2 h (fld x 12 6) (fld x 6 6) (fld x 0 6))
  | 0x61 => some (.hsub2 h (fld x 12 6) (fld x 6 6) (fld x 0 6))
  | 0x62 => some (.hmul2 h (fld x 12 6) (fld x 6 6) (fld x 0 6))
  | 0x63 => ck (isZ y 0 26) (some (.hfma2 h (fld x 12 6) (fld x 6 6) (fld x 0 6) (fld y 26 6)))
  | 0x64 => some (.hmin2 h (fld x 12 6) (fld x 6 6) (fld x 0 6))
  | 0x65 => some (.hmax2 h (fld x 12 6) (fld x 6 6) (fld x 0 6))
  | 0x66 => ck (isZ y 0 26) (some (.hmed3 h (fld x 12 6) (fld x 6 6) (fld x 0 6) (fld y 26 6)))
  | 0x67 => ck (isZ y 0 26) (some (.hclamp2 h (fld x 12 6) (fld x 6 6) (fld x 0 6) (fld y 26 6)))
  | 0x68 => some (.badd2 h (fld x 12 6) (fld x 6 6) (fld x 0 6))
  | 0x69 => some (.bmul2 h (fld x 12 6) (fld x 6 6) (fld x 0 6))
  | 0x6a => ck (isZ y 0 26) (some (.bfma2 h (fld x 12 6) (fld x 6 6) (fld x 0 6) (fld y 26 6)))
  | 0x6b => some (.bmin2 h (fld x 12 6) (fld x 6 6) (fld x 0 6))
  | 0x6c => some (.bmax2 h (fld x 12 6) (fld x 6 6) (fld x 0 6))
  | 0x70 => ck (isZ x 0 6 && isZ y 12 20 && isZ y 0 1) ((Ty.ofBits (fld y 8 4)).bind fun dt => (Ty.ofBits (fld y 4 4)).bind fun st => (Rm.ofBits (fld y 2 2)).bind fun rmode => some (.cvt h (fld x 12 6) (fld x 6 6) dt st rmode (bit y 1)))
  | 0x71 => ck (isZ y 12 20 && isZ y 4 4 && isZ y 0 1) ((Ty.ofBits (fld y 8 4)).bind fun dt => (Rm.ofBits (fld y 2 2)).bind fun rmode => some (.pack2 h (fld x 12 6) (fld x 6 6) (fld x 0 6) dt rmode (bit y 1)))
  | 0x72 => ck (isZ x 0 6 && isZ y 12 20 && isZ y 4 4 && isZ y 0 1) ((Ty.ofBits (fld y 8 4)).bind fun dt => (Rm.ofBits (fld y 2 2)).bind fun rmode => some (.pack4 h (fld x 12 6) (fld x 6 6) dt rmode (bit y 1)))
  | 0x73 => ck (isZ x 0 6 && isZ y 14 18 && isZ y 8 4 && isZ y 0 4) ((Ty.ofBits (fld y 4 4)).bind fun st => some (.unpack h (fld x 12 6) (fld x 6 6) (fld y 12 2) st))
  | 0x74 => ck (isZ y 12 20 && isZ y 0 8) ((Ty.ofBits (fld y 8 4)).bind fun dt => some (.qb8 h (fld x 12 6) (fld x 6 6) (fld x 0 6) dt))
  | 0x80 => ck (isZ y 13 19 && isZ y 0 1) ((ShflMode.ofBits (fld y 1 2)).bind fun mode => some (.shfl h (fld x 12 6) (fld x 6 6) (fld x 0 6) (bit y 12) (bit y 11) (fld y 6 5) (fld y 3 3) mode))
  | 0x81 => ck (isZ x 0 12 && isZ y 14 18 && isZ y 0 4) ((VoteMode.ofBits (fld y 11 3)).bind fun mode => some (.vote h (fld x 12 6) mode (bit y 10) (fld y 7 3) (fld y 4 3)))
  | 0x82 => ck (isZ x 0 6 && isZ y 4 28) ((RedOp.ofBits (fld y 0 4)).bind fun opc => some (.reduce h (fld x 12 6) (fld x 6 6) opc))
  | 0x83 => ck (isZ x 0 6 && isZ y 5 27) ((RedOp.ofBits (fld y 0 4)).bind fun opc => some (.scan h (fld x 12 6) (fld x 6 6) (bit y 4) opc))
  | 0x84 => ck (isZ x 0 6) (some (.matchAny h (fld x 12 6) (fld x 6 6)))
  | 0x85 => ck (isZ x 0 6 && isZ y 6 20) (some (.rdlane h (fld x 12 6) (fld x 6 6) (fld y 26 6) (bit y 5) (fld y 0 5)))
  | 0x86 => ck (isZ x 0 6 && isZ y 6 20) (some (.wrlane h (fld x 12 6) (fld x 6 6) (fld y 26 6) (bit y 5) (fld y 0 5)))
  | 0x87 => ck (isZ x 0 12) (some (.vpcget h (fld x 12 6)))
  | 0x88 => ck (isZ x 12 6 && isZ x 0 6) (some (.vpcset h (fld x 6 6)))
  | 0xa0 => some (.lbra h x)
  | 0xa1 => ck (isZ x 12 6 && isZ x 0 6) (some (.lbrx h (fld x 6 6)))
  | 0xa2 => ck (isZ x 3 15) (some (.join h (fld x 0 3)))
  | 0xa3 => ck (isZ x 7 11 && isZ x 3 3) (some (.jarr h (bit x 6) (fld x 0 3)))
  | 0xa4 => ck (isZ x 0 18) (some (.lexit h))
  | 0xc0 => ck (isZ x 1 1) ((Size.ofBits (fld y 5 3)).bind fun size => (Scope.ofBits (fld y 3 2)).bind fun scope => (Ord.ofBits (fld y 0 3)).bind fun ord => some (.ld h (fld x 12 6) (fld x 6 6) (fld x 2 4) (bit x 0) (fld y 8 24) size scope ord))
  | 0xc1 => ck (isZ x 0 6) ((Size.ofBits (fld y 5 3)).bind fun size => (Scope.ofBits (fld y 3 2)).bind fun scope => (Ord.ofBits (fld y 0 3)).bind fun ord => some (.st h (fld x 12 6) (fld x 6 6) (fld y 8 24) size scope ord))
  | 0xc2 => ck (isZ x 1 1 && isZ y 3 2) ((Size.ofBits (fld y 5 3)).bind fun size => (Ord.ofBits (fld y 0 3)).bind fun ord => some (.lds h (fld x 12 6) (fld x 6 6) (fld x 2 4) (bit x 0) (fld y 8 24) size ord))
  | 0xc3 => ck (isZ x 0 6 && isZ y 3 2) ((Size.ofBits (fld y 5 3)).bind fun size => (Ord.ofBits (fld y 0 3)).bind fun ord => some (.sts h (fld x 12 6) (fld x 6 6) (fld y 8 24) size ord))
  | 0xc4 => ck (isZ x 0 2) ((Aop.ofBits (fld y 22 4)).bind fun aop => (Size.ofBits (fld y 5 3)).bind fun size => (Scope.ofBits (fld y 3 2)).bind fun scope => (Ord.ofBits (fld y 0 3)).bind fun ord => some (.atom h (fld x 12 6) (fld x 6 6) (fld x 2 4) (fld y 26 6) aop (fld y 8 14) size scope ord))
  | 0xc5 => ck (isZ x 0 2 && isZ y 3 2) ((Aop.ofBits (fld y 22 4)).bind fun aop => (Size.ofBits (fld y 5 3)).bind fun size => (Ord.ofBits (fld y 0 3)).bind fun ord => some (.atoms h (fld x 12 6) (fld x 6 6) (fld x 2 4) (fld y 26 6) aop (fld y 8 14) size ord))
  | 0xc6 => ck (isZ x 0 6) ((Size.ofBits (fld y 5 3)).bind fun size => (Scope.ofBits (fld y 3 2)).bind fun scope => (Ord.ofBits (fld y 0 3)).bind fun ord => some (.cst h (fld x 12 6) (fld x 6 6) (fld y 8 24) size scope ord))
  | 0xc7 => ck (isZ x 0 2 && isZ y 0 5) ((Size.ofBits (fld y 5 3)).bind fun size => some (.accrd h (fld x 12 6) (fld x 6 6) (fld x 2 4) (fld y 8 24) size))
  | 0xc8 => ck (isZ x 0 6 && isZ y 0 5) ((Size.ofBits (fld y 5 3)).bind fun size => some (.accwr h (fld x 12 6) (fld x 6 6) (fld y 8 24) size))
  | 0xc9 => ck (isZ x 12 6 && isZ x 0 6 && isZ y 0 8) (some (.discard h (fld x 6 6) (fld y 8 24)))
  | 0xca => ck (isZ x 12 6 && isZ x 0 6 && isZ y 0 8) (some (.pref h (fld x 6 6) (fld y 8 24)))
  | _ => none

/-- The warp words of R69 and R70: opcode, head, bits [17:0], extension word. -/
def decodeWarpRaw (op : Nat) (h : WarpHdr) (x : BitVec 18) (y : W32) : Option Instr :=
  match op with
  | 0x0 => some (.sadd h (fld x 12 6) (fld x 6 6) (fld x 0 6))
  | 0x1 => some (.ssub h (fld x 12 6) (fld x 6 6) (fld x 0 6))
  | 0x2 => ck (isZ x 0 6) (some (.saddi h (fld x 12 6) (fld x 6 6) y))
  | 0x3 => some (.smul h (fld x 12 6) (fld x 6 6) (fld x 0 6))
  | 0x4 => some (.smulhi h (fld x 12 6) (fld x 6 6) (fld x 0 6))
  | 0x5 => some (.smin h (fld x 12 6) (fld x 6 6) (fld x 0 6))
  | 0x6 => some (.smax h (fld x 12 6) (fld x 6 6) (fld x 0 6))
  | 0x7 => some (.sminn h (fld x 12 6) (fld x 6 6) (fld x 0 6))
  | 0x8 => some (.smaxn h (fld x 12 6) (fld x 6 6) (fld x 0 6))
  | 0x9 => some (.sand h (fld x 12 6) (fld x 6 6) (fld x 0 6))
  | 0xa => some (.sor h (fld x 12 6) (fld x 6 6) (fld x 0 6))
  | 0xb => some (.sxor h (fld x 12 6) (fld x 6 6) (fld x 0 6))
  | 0xc => some (.sshl h (fld x 12 6) (fld x 6 6) (fld x 0 6))
  | 0xd => some (.sshr h (fld x 12 6) (fld x 6 6) (fld x 0 6))
  | 0xe => some (.ssar h (fld x 12 6) (fld x 6 6) (fld x 0 6))
  | 0xf => ck (isZ x 0 6) (some (.smov h (fld x 12 6) (fld x 6 6)))
  | 0x10 => ck (isZ x 0 12) (some (.smovi h (fld x 12 6) y))
  | 0x11 => some (.sadd64 h (fld x 12 6) (fld x 6 6) (fld x 0 6))
  | 0x12 => some (.ssub64 h (fld x 12 6) (fld x 6 6) (fld x 0 6))
  | 0x13 => ck (isZ x 0 6 && isZ y 12 20) (some (.sbfe h (fld x 12 6) (fld x 6 6) (bit y 11) (fld y 5 6) (fld y 0 5)))
  | 0x14 => ck (isZ x 0 6) (some (.spopc h (fld x 12 6) (fld x 6 6)))
  | 0x15 => ck (isZ x 0 6) (some (.sclz h (fld x 12 6) (fld x 6 6)))
  | 0x16 => ck (isZ x 12 6 && isZ y 17 15) ((CmpT.ofBits (fld y 15 2)).bind fun t => (Bop.ofBits (fld y 9 2)).bind fun bop => (Cond.ofBits (fld y 0 3)).bind fun cond => some (.scmp h (fld x 6 6) (fld x 0 6) t (bit y 14) (fld y 11 3) bop (fld y 6 3) (fld y 3 3) cond))
  | 0x17 => ck (isZ y 4 28) (some (.ssel h (fld x 12 6) (fld x 6 6) (fld x 0 6) (bit y 3) (fld y 0 3)))
  | 0x18 => ck (isZ x 0 18 && isZ y 20 12) (some (.qlop h (fld y 17 3) (fld y 14 3) (fld y 11 3) (fld y 8 3) (fld y 0 8)))
  | 0x19 => some (.sdiv h (fld x 12 6) (fld x 6 6) (fld x 0 6))
  | 0x1a => some (.sdivn h (fld x 12 6) (fld x 6 6) (fld x 0 6))
  | 0x1b => some (.sfadd h (fld x 12 6) (fld x 6 6) (fld x 0 6))
  | 0x1c => some (.sfmul h (fld x 12 6) (fld x 6 6) (fld x 0 6))
  | 0x1d => ck (isZ y 0 26) (some (.sffma h (fld x 12 6) (fld x 6 6) (fld x 0 6) (fld y 26 6)))
  | 0x1e => ck (isZ x 0 6 && isZ y 12 20 && isZ y 0 1) ((Ty.ofBits (fld y 8 4)).bind fun dt => (Ty.ofBits (fld y 4 4)).bind fun st => (Rm.ofBits (fld y 2 2)).bind fun rmode => some (.scvt h (fld x 12 6) (fld x 6 6) dt st rmode (bit y 1)))
  | 0x40 => some (.bra h x)
  | 0x41 => ck (isZ x 12 6 && isZ y 16 16) (some (.brx h (fld x 6 6) (fld x 0 6) (fld y 0 16)))
  | 0x42 => some (.call h x)
  | 0x43 => ck (isZ x 0 18) (some (.ret h))
  | 0x44 => ck (isZ x 12 6 && isZ x 0 6 && isZ y 14 18) (some (.loop h (fld x 6 6) (fld y 0 14)))
  | 0x45 => ck (isZ x 0 18 && isZ y 14 2) (some (.loopi h (fld y 16 16) (fld y 0 14)))
  | 0x46 => some (.lbreak h x)
  | 0x47 => ck (isZ x 0 18) (some (.exit h))
  | 0x48 => ck (isZ x 0 18) (some (.nop h))
  | 0x49 => some (.trap h x)
  | 0x4a => ck (isZ x 0 18) (some (.tret h))
  | 0x4b => ck (isZ x 12 6 && isZ x 0 6) (some (.sleep h (fld x 6 6)))
  | 0x60 => ck (isZ x 12 6 && isZ x 3 1) (some (.bar h (fld x 6 6) (bit x 5) (bit x 4) (fld x 0 3)))
  | 0x61 => ck (isZ x 2 16) ((GbarCls.ofBits (fld x 0 2)).bind fun cls => some (.gbar h cls))
  | 0x62 => ck (isZ x 17 1 && isZ x 0 6) (some (.mbinit h (fld x 12 5) (fld x 6 6)))
  | 0x63 => ck (isZ x 17 1 && isZ x 0 6) (some (.mbexp h (fld x 12 5) (fld x 6 6)))
  | 0x64 => ck (isZ x 17 1 && isZ x 1 5) (some (.mbarr h (fld x 12 5) (fld x 6 6) (bit x 0)))
  | 0x65 => ck (isZ x 17 1 && isZ y 3 29) (some (.mbwait h (fld x 12 5) (fld x 6 6) (fld x 0 6) (fld y 0 3)))
  | 0x66 => ck (isZ x 0 18 && isZ y 5 27) ((Scope.ofBits (fld y 3 2)).bind fun scope => (Ord.ofBits (fld y 0 3)).bind fun ord => some (.fence h scope ord))
  | 0x67 => ck (isZ x 0 18 && isZ y 5 27) ((Scope.ofBits (fld y 3 2)).bind fun scope => (Ord.ofBits (fld y 0 3)).bind fun ord => some (.fencea h scope ord))
  | 0x80 => ck (isZ x 0 4) (some (.srd h (fld x 12 6) (fld x 4 8)))
  | 0x81 => ck (isZ x 14 4) (some (.swr h (fld x 6 8) (fld x 0 6)))
  | 0x82 => ck (isZ x 6 6 && isZ x 0 2 && isZ y 15 1 && isZ y 0 12) (some (.capq h (fld x 12 6) (fld x 2 4) (fld y 16 16) (fld y 12 3)))
  | 0x83 => ck (isZ x 0 12) (some (.clk h (fld x 12 6)))
  | 0x84 => ck (isZ x 12 6) (some (.evpost h (fld x 6 6) (fld x 0 6)))
  | 0x85 => ck (isZ x 12 6 && isZ x 0 6) (some (.tblld h (fld x 6 6)))
  | 0x86 => ck (isZ x 0 18) (some (.tblswp h))
  | 0x87 => ck (isZ x 0 18) (some (.racq h))
  | 0x88 => ck (isZ x 0 18) (some (.rrel h))
  | 0x89 => ck (isZ x 0 6) (some (.tierq h (fld x 12 6) (fld x 6 6)))
  | 0xa0 => ck (isZ x 1 1) ((Size.ofBits (fld y 5 3)).bind fun size => (Scope.ofBits (fld y 3 2)).bind fun scope => (Ord.ofBits (fld y 0 3)).bind fun ord => some (.sld h (fld x 12 6) (fld x 6 6) (fld x 2 4) (bit x 0) (fld y 8 24) size scope ord))
  | 0xa1 => ck (isZ x 0 6) ((Size.ofBits (fld y 5 3)).bind fun size => (Scope.ofBits (fld y 3 2)).bind fun scope => (Ord.ofBits (fld y 0 3)).bind fun ord => some (.sst h (fld x 12 6) (fld x 6 6) (fld y 8 24) size scope ord))
  | 0xa2 => ck (isZ x 0 2) ((Aop.ofBits (fld y 22 4)).bind fun aop => (Size.ofBits (fld y 5 3)).bind fun size => (Scope.ofBits (fld y 3 2)).bind fun scope => (Ord.ofBits (fld y 0 3)).bind fun ord => some (.satom h (fld x 12 6) (fld x 6 6) (fld x 2 4) (fld y 26 6) aop (fld y 8 14) size scope ord))
  | 0xa3 => ck (isZ x 1 1 && isZ y 3 2) ((Size.ofBits (fld y 5 3)).bind fun size => (Ord.ofBits (fld y 0 3)).bind fun ord => some (.slds h (fld x 12 6) (fld x 6 6) (fld x 2 4) (bit x 0) (fld y 8 24) size ord))
  | 0xa4 => ck (isZ x 0 6 && isZ y 3 2) ((Size.ofBits (fld y 5 3)).bind fun size => (Ord.ofBits (fld y 0 3)).bind fun ord => some (.ssts h (fld x 12 6) (fld x 6 6) (fld y 8 24) size ord))
  | 0xa5 => ck (isZ x 12 6 && isZ x 0 6 && isZ y 0 8) (some (.spref h (fld x 6 6) (fld y 8 24)))
  | 0xa6 => ck (isZ x 12 6) (some (.spclr h (fld x 6 6) (fld x 0 6)))
  | 0xa7 => ck (isZ x 1 5) (some (.spqry h (fld x 12 6) (fld x 6 6) (bit x 0)))
  | 0x100 => ck (isZ y 0 22) (some (.tcopy h (fld x 12 6) (fld x 6 6) (fld x 0 6) (fld y 28 4) (fld y 23 5) (bit y 22)))
  | 0x101 => ck (isZ y 0 22) (some (.tstore h (fld x 12 6) (fld x 6 6) (fld x 0 6) (fld y 28 4) (fld y 23 5) (bit y 22)))
  | 0x102 => ck (isZ y 21 1 && isZ y 0 18) (some (.tloadx h (fld x 12 6) (fld x 6 6) (fld x 0 6) (fld y 28 4) (fld y 23 5) (bit y 22) (fld y 18 3)))
  | 0x103 => ck (isZ y 21 1 && isZ y 0 18) (some (.tstorex h (fld x 12 6) (fld x 6 6) (fld x 0 6) (fld y 28 4) (fld y 23 5) (bit y 22) (fld y 18 3)))
  | 0x104 => ck (isZ x 12 6 && isZ x 4 2) (some (.tlrec h (fld x 6 6) (fld x 0 4)))
  | 0x105 => ck (isZ x 8 10) (some (.twait h (fld x 0 8)))
  | 0x106 => ck (isZ x 0 6 && isZ y 4 28) (some (.xjob h (fld x 12 6) (fld x 6 6) (fld y 0 4)))
  | 0x107 => some (.xwait h (fld x 12 6) (fld x 6 6) (fld x 0 6))
  | 0x120 => ck (isZ x 12 6 && isZ x 0 6 && isZ y 9 23 && isZ y 0 5) (some (.qinit h (fld x 6 6) (fld y 5 4)))
  | 0x121 => ck (isZ x 12 6 && isZ x 0 6 && isZ y 9 23) ((Scope.ofBits (fld y 3 2)).bind fun scope => (Ord.ofBits (fld y 0 3)).bind fun ord => some (.qpush h (fld x 6 6) (fld y 5 4) scope ord))
  | 0x122 => ck (isZ x 3 9 && isZ y 9 23) ((Scope.ofBits (fld y 3 2)).bind fun scope => (Ord.ofBits (fld y 0 3)).bind fun ord => some (.qpop h (fld x 12 6) (fld x 0 3) (fld y 5 4) scope ord))
  | 0x123 => ck (isZ x 3 9 && isZ y 9 23) ((Scope.ofBits (fld y 3 2)).bind fun scope => (Ord.ofBits (fld y 0 3)).bind fun ord => some (.qtry h (fld x 12 6) (fld x 0 3) (fld y 5 4) scope ord))
  | 0x124 => ck (isZ x 0 18 && isZ y 9 23) ((Scope.ofBits (fld y 3 2)).bind fun scope => (Ord.ofBits (fld y 0 3)).bind fun ord => some (.qclose h (fld y 5 4) scope ord))
  | 0x125 => ck (isZ x 0 12 && isZ y 9 23 && isZ y 0 5) (some (.qlen h (fld x 12 6) (fld y 5 4)))
  | 0x140 => some (.mma h (fld x 12 6) (fld x 6 6) (fld x 0 6) y)
  | 0x141 => some (.mmas h (fld x 12 6) (fld x 6 6) (fld x 0 6) y)
  | 0x142 => some (.mmap h (fld x 12 6) (fld x 6 6) (fld x 0 6) y)
  | 0x143 => ck (isZ x 12 6) (some (.accz h (fld x 6 6) (fld x 0 6)))
  | 0x144 => some (.acccpy h (fld x 12 6) (fld x 6 6) (fld x 0 6))
  | 0x145 => ck (isZ x 6 12) (some (.mwait h (fld x 0 6)))
  | 0x160 => ck (isZ x 0 12) (some (.tbegin h (fld x 12 6)))
  | 0x161 => ck (isZ x 0 18) (some (.tend h))
  | 0x162 => ck (isZ x 1 17) (some (.tabort h (bit x 0)))
  | 0x163 => ck (isZ x 0 12) (some (.tstat h (fld x 12 6)))
  | 0x164 => ck (isZ x 12 6 && isZ y 9 23) (some (.asdecl h (fld x 6 6) (fld x 0 6) (fld y 4 5) (fld y 0 4)))
  | 0x165 => ck (isZ x 4 14) (some (.asdrop h (fld x 0 4)))
  | _ => none

/-- R58: the instruction takes an extension word. -/
def twoWords (w : W32) : Bool :=
  if bit w 31 then warpOpTwoWords (fld w 18 9).toNat else laneOpTwoWords (fld w 18 8).toNat

/-- The fates of a word at the first decode step (R71, step 1). -/
inductive Decoded where
  /-- An instruction, or an unallocated opcode, and its length in bytes. -/
  | instr (i : Instr) (len : Nat)
  /-- An allocated opcode with a reserved, refused or nonzero unused field: ILLEGAL_OP. -/
  | illegal (w : W32)
  deriving DecidableEq, Repr

/-- R59, R71, R72: the word at the issue address is decoded as a first word, whatever it is. -/
def decodeWords (w y : W32) : Decoded :=
  if !opcodeAllocated w then .instr (.unallocatedOpcode w) 4
  else
    let raw :=
      if bit w 31 then decodeWarpRaw (fld w 18 9).toNat (warpHdr w) (fld w 0 18) y
      else decodeLaneRaw (fld w 18 8).toNat (laneHdr w) (fld w 0 18) y
    match raw with
    | some i => if wellFormed i then .instr i (if twoWords w then 8 else 4) else .illegal w
    | none => .illegal w

/-- Little-endian word of four bytes (R3, R58). -/
def wordOfBytes : List Byte → Option (W32 × List Byte)
  | b0 :: b1 :: b2 :: b3 :: rest => some (b3 ++ b2 ++ b1 ++ b0, rest)
  | _ => none

/-- Why a byte string is no instruction. -/
inductive DecodeError where | truncated | illegalOp (w : W32) deriving DecidableEq, Repr

/-- The instruction that a byte string begins with, and the bytes after it. -/
def decode (bs : List Byte) : Except DecodeError (Instr × List Byte) :=
  match wordOfBytes bs with
  | none => .error .truncated
  | some (w, r) =>
    if twoWords w then
      match wordOfBytes r with
      | none => .error .truncated
      | some (y, r2) =>
        match decodeWords w y with
        | .instr i _ => .ok (i, r2)
        | .illegal w => .error (.illegalOp w)
    else
      match decodeWords w 0 with
      | .instr i _ => .ok (i, r)
      | .illegal w => .error (.illegalOp w)

def bytesOfWord (w : W32) : List Byte := [fld w 0 8, fld w 8 8, fld w 16 8, fld w 24 8]

/-- What the decoder reads from a table row's word (bits above nbits zero), laid out in memory order. -/
def decodeTableWord (nbits w : Nat) : Option Instr :=
  let v := w % 2 ^ nbits
  match decode (bytesOfWord (BitVec.ofNat 32 v) ++ bytesOfWord (BitVec.ofNat 32 (v / 2 ^ 32))) with
  | .ok (i, _) => some i
  | .error _ => none

/-! ## Encoding -/

/-- The words of an instruction (R61 to R64); a step that is no instruction word has none. -/
def encode : Instr → List W32
  | .iadd h vd va vb => [laneWord h 0x0#8 (vd ++ va ++ vb)]
  | .isub h vd va vb => [laneWord h 0x1#8 (vd ++ va ++ vb)]
  | .iaddi h vd va imm => [laneWord h 0x2#8 (vd ++ va ++ 0#6), (imm : BitVec 32)]
  | .iabsd h vd va vb => [laneWord h 0x3#8 (vd ++ va ++ vb)]
  | .imin h vd va vb => [laneWord h 0x4#8 (vd ++ va ++ vb)]
  | .imax h vd va vb => [laneWord h 0x5#8 (vd ++ va ++ vb)]
  | .umin h vd va vb => [laneWord h 0x6#8 (vd ++ va ++ vb)]
  | .umax h vd va vb => [laneWord h 0x7#8 (vd ++ va ++ vb)]
  | .imul24 h vd va vb => [laneWord h 0x8#8 (vd ++ va ++ vb)]
  | .umul24 h vd va vb => [laneWord h 0x9#8 (vd ++ va ++ vb)]
  | .imad24 h vd va vb vc u => [laneWord h 0xa#8 (vd ++ va ++ vb), (vc ++ 0#25 ++ BitVec.ofBool u : BitVec 32)]
  | .imul h vd va vb => [laneWord h 0xb#8 (vd ++ va ++ vb)]
  | .imulhi h vd va vb => [laneWord h 0xc#8 (vd ++ va ++ vb)]
  | .umulhi h vd va vb => [laneWord h 0xd#8 (vd ++ va ++ vb)]
  | .idiv h vd va vb => [laneWord h 0xe#8 (vd ++ va ++ vb)]
  | .udiv h vd va vb => [laneWord h 0xf#8 (vd ++ va ++ vb)]
  | .irem h vd va vb => [laneWord h 0x10#8 (vd ++ va ++ vb)]
  | .urem h vd va vb => [laneWord h 0x11#8 (vd ++ va ++ vb)]
  | .iadds h vd va vb => [laneWord h 0x12#8 (vd ++ va ++ vb)]
  | .isubs h vd va vb => [laneWord h 0x13#8 (vd ++ va ++ vb)]
  | .iadd64 h vd va vb => [laneWord h 0x14#8 (vd ++ va ++ vb)]
  | .isub64 h vd va vb => [laneWord h 0x15#8 (vd ++ va ++ vb)]
  | .imad32 h vd va vb vc => [laneWord h 0x16#8 (vd ++ va ++ vb), (vc ++ 0#26 : BitVec 32)]
  | .and h vd va vb => [laneWord h 0x18#8 (vd ++ va ++ vb)]
  | .or h vd va vb => [laneWord h 0x19#8 (vd ++ va ++ vb)]
  | .xor h vd va vb => [laneWord h 0x1a#8 (vd ++ va ++ vb)]
  | .andn h vd va vb => [laneWord h 0x1b#8 (vd ++ va ++ vb)]
  | .shl h vd va vb => [laneWord h 0x1c#8 (vd ++ va ++ vb)]
  | .shr h vd va vb => [laneWord h 0x1d#8 (vd ++ va ++ vb)]
  | .sar h vd va vb => [laneWord h 0x1e#8 (vd ++ va ++ vb)]
  | .rotl h vd va vb => [laneWord h 0x1f#8 (vd ++ va ++ vb)]
  | .bfe h vd va sg len pos => [laneWord h 0x20#8 (vd ++ va ++ 0#6), (0#20 ++ BitVec.ofBool sg ++ len ++ pos : BitVec 32)]
  | .bfi h vd va vb len pos => [laneWord h 0x21#8 (vd ++ va ++ vb), (0#21 ++ len ++ pos : BitVec 32)]
  | .popc h vd va => [laneWord h 0x22#8 (vd ++ va ++ 0#6)]
  | .clz h vd va => [laneWord h 0x23#8 (vd ++ va ++ 0#6)]
  | .ctz h vd va => [laneWord h 0x24#8 (vd ++ va ++ 0#6)]
  | .brev h vd va => [laneWord h 0x25#8 (vd ++ va ++ 0#6)]
  | .prmt h vd va vb sx zm bsel => [laneWord h 0x26#8 (vd ++ va ++ vb), (0#12 ++ sx ++ 0#1 ++ zm ++ bsel : BitVec 32)]
  | .lop3 h vd va vb vc lut => [laneWord h 0x27#8 (vd ++ va ++ vb), (vc ++ 0#18 ++ lut : BitVec 32)]
  | .mov h vd va => [laneWord h 0x28#8 (vd ++ va ++ 0#6)]
  | .movi h vd imm => [laneWord h 0x29#8 (vd ++ 0#12), (imm : BitVec 32)]
  | .sel h vd va vb psn ps => [laneWord h 0x2a#8 (vd ++ va ++ vb), (0#28 ++ BitVec.ofBool psn ++ ps : BitVec 32)]
  | .lspec h vd which => [laneWord h 0x2b#8 (vd ++ which ++ 0#6)]
  | .icmp h va vb psn ps bop pdf pdt cond => [laneWord h 0x30#8 (0#6 ++ va ++ vb), (0#17 ++ BitVec.ofBool psn ++ ps ++ bop.bits ++ pdf ++ pdt ++ cond.bits : BitVec 32)]
  | .ucmp h va vb psn ps bop pdf pdt cond => [laneWord h 0x31#8 (0#6 ++ va ++ vb), (0#17 ++ BitVec.ofBool psn ++ ps ++ bop.bits ++ pdf ++ pdt ++ cond.bits : BitVec 32)]
  | .fcmp h va vb psn ps bop pdf pdt cond => [laneWord h 0x32#8 (0#6 ++ va ++ vb), (0#17 ++ BitVec.ofBool psn ++ ps ++ bop.bits ++ pdf ++ pdt ++ cond.bits : BitVec 32)]
  | .plop h pd pa pb pc lut => [laneWord h 0x33#8 (0#18), (0#12 ++ pd ++ pa ++ pb ++ pc ++ lut : BitVec 32)]
  | .p2v h vd => [laneWord h 0x34#8 (vd ++ 0#12)]
  | .v2p h va mask => [laneWord h 0x35#8 (0#6 ++ va ++ 0#6), (0#25 ++ mask : BitVec 32)]
  | .fadd h vd va vb => [laneWord h 0x40#8 (vd ++ va ++ vb)]
  | .fsub h vd va vb => [laneWord h 0x41#8 (vd ++ va ++ vb)]
  | .fmul h vd va vb => [laneWord h 0x42#8 (vd ++ va ++ vb)]
  | .ffma h vd va vb vc => [laneWord h 0x43#8 (vd ++ va ++ vb), (vc ++ 0#26 : BitVec 32)]
  | .fmin h vd va vb => [laneWord h 0x44#8 (vd ++ va ++ vb)]
  | .fmax h vd va vb => [laneWord h 0x45#8 (vd ++ va ++ vb)]
  | .fmed3 h vd va vb vc => [laneWord h 0x46#8 (vd ++ va ++ vb), (vc ++ 0#26 : BitVec 32)]
  | .fclamp h vd va vb vc => [laneWord h 0x47#8 (vd ++ va ++ vb), (vc ++ 0#26 : BitVec 32)]
  | .frnd h vd va rmode => [laneWord h 0x48#8 (vd ++ va ++ 0#6), (0#30 ++ rmode.bits : BitVec 32)]
  | .fabs h vd va => [laneWord h 0x49#8 (vd ++ va ++ 0#6)]
  | .fneg h vd va => [laneWord h 0x4a#8 (vd ++ va ++ 0#6)]
  | .frcp h vd va => [laneWord h 0x4b#8 (vd ++ va ++ 0#6)]
  | .frsq h vd va => [laneWord h 0x4c#8 (vd ++ va ++ 0#6)]
  | .fsqrt h vd va => [laneWord h 0x4d#8 (vd ++ va ++ 0#6)]
  | .fdiv h vd va vb => [laneWord h 0x4e#8 (vd ++ va ++ vb)]
  | .fexp2 h vd va => [laneWord h 0x4f#8 (vd ++ va ++ 0#6)]
  | .flog2 h vd va => [laneWord h 0x50#8 (vd ++ va ++ 0#6)]
  | .fsin h vd va => [laneWord h 0x51#8 (vd ++ va ++ 0#6)]
  | .fcos h vd va => [laneWord h 0x52#8 (vd ++ va ++ 0#6)]
  | .ftanh h vd va => [laneWord h 0x53#8 (vd ++ va ++ 0#6)]
  | .flut h vd va => [laneWord h 0x54#8 (vd ++ va ++ 0#6)]
  | .fclass h vd va pd mask => [laneWord h 0x55#8 (vd ++ va ++ 0#6), (0#19 ++ pd ++ mask : BitVec 32)]
  | .hadd2 h vd va vb => [laneWord h 0x60#8 (vd ++ va ++ vb)]
  | .hsub2 h vd va vb => [laneWord h 0x61#8 (vd ++ va ++ vb)]
  | .hmul2 h vd va vb => [laneWord h 0x62#8 (vd ++ va ++ vb)]
  | .hfma2 h vd va vb vc => [laneWord h 0x63#8 (vd ++ va ++ vb), (vc ++ 0#26 : BitVec 32)]
  | .hmin2 h vd va vb => [laneWord h 0x64#8 (vd ++ va ++ vb)]
  | .hmax2 h vd va vb => [laneWord h 0x65#8 (vd ++ va ++ vb)]
  | .hmed3 h vd va vb vc => [laneWord h 0x66#8 (vd ++ va ++ vb), (vc ++ 0#26 : BitVec 32)]
  | .hclamp2 h vd va vb vc => [laneWord h 0x67#8 (vd ++ va ++ vb), (vc ++ 0#26 : BitVec 32)]
  | .badd2 h vd va vb => [laneWord h 0x68#8 (vd ++ va ++ vb)]
  | .bmul2 h vd va vb => [laneWord h 0x69#8 (vd ++ va ++ vb)]
  | .bfma2 h vd va vb vc => [laneWord h 0x6a#8 (vd ++ va ++ vb), (vc ++ 0#26 : BitVec 32)]
  | .bmin2 h vd va vb => [laneWord h 0x6b#8 (vd ++ va ++ vb)]
  | .bmax2 h vd va vb => [laneWord h 0x6c#8 (vd ++ va ++ vb)]
  | .cvt h vd va dt st rmode sat => [laneWord h 0x70#8 (vd ++ va ++ 0#6), (0#20 ++ dt.bits ++ st.bits ++ rmode.bits ++ BitVec.ofBool sat ++ 0#1 : BitVec 32)]
  | .pack2 h vd va vb dt rmode sat => [laneWord h 0x71#8 (vd ++ va ++ vb), (0#20 ++ dt.bits ++ 0#4 ++ rmode.bits ++ BitVec.ofBool sat ++ 0#1 : BitVec 32)]
  | .pack4 h vd va dt rmode sat => [laneWord h 0x72#8 (vd ++ va ++ 0#6), (0#20 ++ dt.bits ++ 0#4 ++ rmode.bits ++ BitVec.ofBool sat ++ 0#1 : BitVec 32)]
  | .unpack h vd va idx st => [laneWord h 0x73#8 (vd ++ va ++ 0#6), (0#18 ++ idx ++ 0#4 ++ st.bits ++ 0#4 : BitVec 32)]
  | .qb8 h vd va vb dt => [laneWord h 0x74#8 (vd ++ va ++ vb), (0#20 ++ dt.bits ++ 0#8 : BitVec 32)]
  | .shfl h vd va vb nw imm b5 seg mode => [laneWord h 0x80#8 (vd ++ va ++ vb), (0#19 ++ BitVec.ofBool nw ++ BitVec.ofBool imm ++ b5 ++ seg ++ mode.bits ++ 0#1 : BitVec 32)]
  | .vote h vd mode psn ps pd => [laneWord h 0x81#8 (vd ++ 0#12), (0#18 ++ mode.bits ++ BitVec.ofBool psn ++ ps ++ pd ++ 0#4 : BitVec 32)]
  | .reduce h vd va opc => [laneWord h 0x82#8 (vd ++ va ++ 0#6), (0#28 ++ opc.bits : BitVec 32)]
  | .scan h vd va exc opc => [laneWord h 0x83#8 (vd ++ va ++ 0#6), (0#27 ++ BitVec.ofBool exc ++ opc.bits : BitVec 32)]
  | .matchAny h vd va => [laneWord h 0x84#8 (vd ++ va ++ 0#6)]
  | .rdlane h sd va sl lsrc lane => [laneWord h 0x85#8 (sd ++ va ++ 0#6), (sl ++ 0#20 ++ BitVec.ofBool lsrc ++ lane : BitVec 32)]
  | .wrlane h vd ss sl lsrc lane => [laneWord h 0x86#8 (vd ++ ss ++ 0#6), (sl ++ 0#20 ++ BitVec.ofBool lsrc ++ lane : BitVec 32)]
  | .vpcget h vd => [laneWord h 0x87#8 (vd ++ 0#12)]
  | .vpcset h va => [laneWord h 0x88#8 (0#6 ++ va ++ 0#6)]
  | .lbra h off => [laneWord h 0xa0#8 (off)]
  | .lbrx h va => [laneWord h 0xa1#8 (0#6 ++ va ++ 0#6)]
  | .join h k => [laneWord h 0xa2#8 (0#15 ++ k)]
  | .jarr h acc k => [laneWord h 0xa3#8 (0#11 ++ BitVec.ofBool acc ++ 0#3 ++ k)]
  | .lexit h => [laneWord h 0xa4#8 (0#18)]
  | .ld h vd va la sx off size scope ord => [laneWord h 0xc0#8 (vd ++ va ++ la ++ 0#1 ++ BitVec.ofBool sx), (off ++ size.bits ++ scope.bits ++ ord.bits : BitVec 32)]
  | .st h vs va off size scope ord => [laneWord h 0xc1#8 (vs ++ va ++ 0#6), (off ++ size.bits ++ scope.bits ++ ord.bits : BitVec 32)]
  | .lds h vd va la sx off size ord => [laneWord h 0xc2#8 (vd ++ va ++ la ++ 0#1 ++ BitVec.ofBool sx), (off ++ size.bits ++ 0#2 ++ ord.bits : BitVec 32)]
  | .sts h vs va off size ord => [laneWord h 0xc3#8 (vs ++ va ++ 0#6), (off ++ size.bits ++ 0#2 ++ ord.bits : BitVec 32)]
  | .atom h vd va la vb aop off size scope ord => [laneWord h 0xc4#8 (vd ++ va ++ la ++ 0#2), (vb ++ aop.bits ++ off ++ size.bits ++ scope.bits ++ ord.bits : BitVec 32)]
  | .atoms h vd va la vb aop off size ord => [laneWord h 0xc5#8 (vd ++ va ++ la ++ 0#2), (vb ++ aop.bits ++ off ++ size.bits ++ 0#2 ++ ord.bits : BitVec 32)]
  | .cst h vs va off size scope ord => [laneWord h 0xc6#8 (vs ++ va ++ 0#6), (off ++ size.bits ++ scope.bits ++ ord.bits : BitVec 32)]
  | .accrd h vd va la off size => [laneWord h 0xc7#8 (vd ++ va ++ la ++ 0#2), (off ++ size.bits ++ 0#5 : BitVec 32)]
  | .accwr h vs va off size => [laneWord h 0xc8#8 (vs ++ va ++ 0#6), (off ++ size.bits ++ 0#5 : BitVec 32)]
  | .discard h va off => [laneWord h 0xc9#8 (0#6 ++ va ++ 0#6), (off ++ 0#8 : BitVec 32)]
  | .pref h va off => [laneWord h 0xca#8 (0#6 ++ va ++ 0#6), (off ++ 0#8 : BitVec 32)]
  | .sadd h sd sa sb => [warpWord h 0x0#9 (sd ++ sa ++ sb)]
  | .ssub h sd sa sb => [warpWord h 0x1#9 (sd ++ sa ++ sb)]
  | .saddi h sd sa imm => [warpWord h 0x2#9 (sd ++ sa ++ 0#6), (imm : BitVec 32)]
  | .smul h sd sa sb => [warpWord h 0x3#9 (sd ++ sa ++ sb)]
  | .smulhi h sd sa sb => [warpWord h 0x4#9 (sd ++ sa ++ sb)]
  | .smin h sd sa sb => [warpWord h 0x5#9 (sd ++ sa ++ sb)]
  | .smax h sd sa sb => [warpWord h 0x6#9 (sd ++ sa ++ sb)]
  | .sminn h sd sa sb => [warpWord h 0x7#9 (sd ++ sa ++ sb)]
  | .smaxn h sd sa sb => [warpWord h 0x8#9 (sd ++ sa ++ sb)]
  | .sand h sd sa sb => [warpWord h 0x9#9 (sd ++ sa ++ sb)]
  | .sor h sd sa sb => [warpWord h 0xa#9 (sd ++ sa ++ sb)]
  | .sxor h sd sa sb => [warpWord h 0xb#9 (sd ++ sa ++ sb)]
  | .sshl h sd sa sb => [warpWord h 0xc#9 (sd ++ sa ++ sb)]
  | .sshr h sd sa sb => [warpWord h 0xd#9 (sd ++ sa ++ sb)]
  | .ssar h sd sa sb => [warpWord h 0xe#9 (sd ++ sa ++ sb)]
  | .smov h sd sa => [warpWord h 0xf#9 (sd ++ sa ++ 0#6)]
  | .smovi h sd imm => [warpWord h 0x10#9 (sd ++ 0#12), (imm : BitVec 32)]
  | .sadd64 h sd sa sb => [warpWord h 0x11#9 (sd ++ sa ++ sb)]
  | .ssub64 h sd sa sb => [warpWord h 0x12#9 (sd ++ sa ++ sb)]
  | .sbfe h sd sa sg len pos => [warpWord h 0x13#9 (sd ++ sa ++ 0#6), (0#20 ++ BitVec.ofBool sg ++ len ++ pos : BitVec 32)]
  | .spopc h sd sa => [warpWord h 0x14#9 (sd ++ sa ++ 0#6)]
  | .sclz h sd sa => [warpWord h 0x15#9 (sd ++ sa ++ 0#6)]
  | .scmp h sa sb t psn ps bop pdf pdt cond => [warpWord h 0x16#9 (0#6 ++ sa ++ sb), (0#15 ++ t.bits ++ BitVec.ofBool psn ++ ps ++ bop.bits ++ pdf ++ pdt ++ cond.bits : BitVec 32)]
  | .ssel h sd sa sb qsn qs => [warpWord h 0x17#9 (sd ++ sa ++ sb), (0#28 ++ BitVec.ofBool qsn ++ qs : BitVec 32)]
  | .qlop h qd qa qb qc lut => [warpWord h 0x18#9 (0#18), (0#12 ++ qd ++ qa ++ qb ++ qc ++ lut : BitVec 32)]
  | .sdiv h sd sa sb => [warpWord h 0x19#9 (sd ++ sa ++ sb)]
  | .sdivn h sd sa sb => [warpWord h 0x1a#9 (sd ++ sa ++ sb)]
  | .sfadd h sd sa sb => [warpWord h 0x1b#9 (sd ++ sa ++ sb)]
  | .sfmul h sd sa sb => [warpWord h 0x1c#9 (sd ++ sa ++ sb)]
  | .sffma h sd sa sb sc => [warpWord h 0x1d#9 (sd ++ sa ++ sb), (sc ++ 0#26 : BitVec 32)]
  | .scvt h sd sa dt st rmode sat => [warpWord h 0x1e#9 (sd ++ sa ++ 0#6), (0#20 ++ dt.bits ++ st.bits ++ rmode.bits ++ BitVec.ofBool sat ++ 0#1 : BitVec 32)]
  | .bra h off => [warpWord h 0x40#9 (off)]
  | .brx h sa sb n => [warpWord h 0x41#9 (0#6 ++ sa ++ sb), (0#16 ++ n : BitVec 32)]
  | .call h off => [warpWord h 0x42#9 (off)]
  | .ret h => [warpWord h 0x43#9 (0#18)]
  | .loop h sa lend => [warpWord h 0x44#9 (0#6 ++ sa ++ 0#6), (0#18 ++ lend : BitVec 32)]
  | .loopi h count lend => [warpWord h 0x45#9 (0#18), (count ++ 0#2 ++ lend : BitVec 32)]
  | .lbreak h off => [warpWord h 0x46#9 (off)]
  | .exit h => [warpWord h 0x47#9 (0#18)]
  | .nop h => [warpWord h 0x48#9 (0#18)]
  | .trap h code => [warpWord h 0x49#9 (code)]
  | .tret h => [warpWord h 0x4a#9 (0#18)]
  | .sleep h sa => [warpWord h 0x4b#9 (0#6 ++ sa ++ 0#6)]
  | .bar h sa cnt arv bid => [warpWord h 0x60#9 (0#6 ++ sa ++ BitVec.ofBool cnt ++ BitVec.ofBool arv ++ 0#1 ++ bid)]
  | .gbar h cls => [warpWord h 0x61#9 (0#16 ++ cls.bits)]
  | .mbinit h bi sa => [warpWord h 0x62#9 (0#1 ++ bi ++ sa ++ 0#6)]
  | .mbexp h bi sa => [warpWord h 0x63#9 (0#1 ++ bi ++ sa ++ 0#6)]
  | .mbarr h bi sa tx => [warpWord h 0x64#9 (0#1 ++ bi ++ sa ++ 0#5 ++ BitVec.ofBool tx)]
  | .mbwait h bi sa sb qd => [warpWord h 0x65#9 (0#1 ++ bi ++ sa ++ sb), (0#29 ++ qd : BitVec 32)]
  | .fence h scope ord => [warpWord h 0x66#9 (0#18), (0#27 ++ scope.bits ++ ord.bits : BitVec 32)]
  | .fencea h scope ord => [warpWord h 0x67#9 (0#18), (0#27 ++ scope.bits ++ ord.bits : BitVec 32)]
  | .srd h sd idx => [warpWord h 0x80#9 (sd ++ idx ++ 0#4)]
  | .swr h idx ss => [warpWord h 0x81#9 (0#4 ++ idx ++ ss)]
  | .capq h sd la idx qk => [warpWord h 0x82#9 (sd ++ 0#6 ++ la ++ 0#2), (idx ++ 0#1 ++ qk ++ 0#12 : BitVec 32)]
  | .clk h sd => [warpWord h 0x83#9 (sd ++ 0#12)]
  | .evpost h sa sb => [warpWord h 0x84#9 (0#6 ++ sa ++ sb)]
  | .tblld h sa => [warpWord h 0x85#9 (0#6 ++ sa ++ 0#6)]
  | .tblswp h => [warpWord h 0x86#9 (0#18)]
  | .racq h => [warpWord h 0x87#9 (0#18)]
  | .rrel h => [warpWord h 0x88#9 (0#18)]
  | .tierq h sd sa => [warpWord h 0x89#9 (sd ++ sa ++ 0#6)]
  | .sld h sd sa la sx off size scope ord => [warpWord h 0xa0#9 (sd ++ sa ++ la ++ 0#1 ++ BitVec.ofBool sx), (off ++ size.bits ++ scope.bits ++ ord.bits : BitVec 32)]
  | .sst h ss sa off size scope ord => [warpWord h 0xa1#9 (ss ++ sa ++ 0#6), (off ++ size.bits ++ scope.bits ++ ord.bits : BitVec 32)]
  | .satom h sd sa la sb aop off size scope ord => [warpWord h 0xa2#9 (sd ++ sa ++ la ++ 0#2), (sb ++ aop.bits ++ off ++ size.bits ++ scope.bits ++ ord.bits : BitVec 32)]
  | .slds h sd sa la sx off size ord => [warpWord h 0xa3#9 (sd ++ sa ++ la ++ 0#1 ++ BitVec.ofBool sx), (off ++ size.bits ++ 0#2 ++ ord.bits : BitVec 32)]
  | .ssts h ss sa off size ord => [warpWord h 0xa4#9 (ss ++ sa ++ 0#6), (off ++ size.bits ++ 0#2 ++ ord.bits : BitVec 32)]
  | .spref h sa off => [warpWord h 0xa5#9 (0#6 ++ sa ++ 0#6), (off ++ 0#8 : BitVec 32)]
  | .spclr h sa sb => [warpWord h 0xa6#9 (0#6 ++ sa ++ sb)]
  | .spqry h sd sa kind => [warpWord h 0xa7#9 (sd ++ sa ++ 0#5 ++ BitVec.ofBool kind)]
  | .tcopy h sd sa sb lslot tbar nobar => [warpWord h 0x100#9 (sd ++ sa ++ sb), (lslot ++ tbar ++ BitVec.ofBool nobar ++ 0#22 : BitVec 32)]
  | .tstore h sd sa sb lslot tbar nobar => [warpWord h 0x101#9 (sd ++ sa ++ sb), (lslot ++ tbar ++ BitVec.ofBool nobar ++ 0#22 : BitVec 32)]
  | .tloadx h sd sa sb lslot tbar nobar chain => [warpWord h 0x102#9 (sd ++ sa ++ sb), (lslot ++ tbar ++ BitVec.ofBool nobar ++ 0#1 ++ chain ++ 0#18 : BitVec 32)]
  | .tstorex h sd sa sb lslot tbar nobar chain => [warpWord h 0x103#9 (sd ++ sa ++ sb), (lslot ++ tbar ++ BitVec.ofBool nobar ++ 0#1 ++ chain ++ 0#18 : BitVec 32)]
  | .tlrec h sa slot => [warpWord h 0x104#9 (0#6 ++ sa ++ 0#2 ++ slot)]
  | .twait h n => [warpWord h 0x105#9 (0#10 ++ n)]
  | .xjob h sd sa stream => [warpWord h 0x106#9 (sd ++ sa ++ 0#6), (0#28 ++ stream : BitVec 32)]
  | .xwait h sd sa sb => [warpWord h 0x107#9 (sd ++ sa ++ sb)]
  | .qinit h sa pq => [warpWord h 0x120#9 (0#6 ++ sa ++ 0#6), (0#23 ++ pq ++ 0#5 : BitVec 32)]
  | .qpush h sa pq scope ord => [warpWord h 0x121#9 (0#6 ++ sa ++ 0#6), (0#23 ++ pq ++ scope.bits ++ ord.bits : BitVec 32)]
  | .qpop h sd qd pq scope ord => [warpWord h 0x122#9 (sd ++ 0#9 ++ qd), (0#23 ++ pq ++ scope.bits ++ ord.bits : BitVec 32)]
  | .qtry h sd qd pq scope ord => [warpWord h 0x123#9 (sd ++ 0#9 ++ qd), (0#23 ++ pq ++ scope.bits ++ ord.bits : BitVec 32)]
  | .qclose h pq scope ord => [warpWord h 0x124#9 (0#18), (0#23 ++ pq ++ scope.bits ++ ord.bits : BitVec 32)]
  | .qlen h sd pq => [warpWord h 0x125#9 (sd ++ 0#12), (0#23 ++ pq ++ 0#5 : BitVec 32)]
  | .mma h sd sa sb fw => [warpWord h 0x140#9 (sd ++ sa ++ sb), (fw : BitVec 32)]
  | .mmas h sd sa sb fw => [warpWord h 0x141#9 (sd ++ sa ++ sb), (fw : BitVec 32)]
  | .mmap h sd sa sb fw => [warpWord h 0x142#9 (sd ++ sa ++ sb), (fw : BitVec 32)]
  | .accz h sa sb => [warpWord h 0x143#9 (0#6 ++ sa ++ sb)]
  | .acccpy h sd sa sb => [warpWord h 0x144#9 (sd ++ sa ++ sb)]
  | .mwait h n => [warpWord h 0x145#9 (0#12 ++ n)]
  | .tbegin h sd => [warpWord h 0x160#9 (sd ++ 0#12)]
  | .tend h => [warpWord h 0x161#9 (0#18)]
  | .tabort h leave => [warpWord h 0x162#9 (0#17 ++ BitVec.ofBool leave)]
  | .tstat h sd => [warpWord h 0x163#9 (sd ++ 0#12)]
  | .asdecl h sa sb g setn => [warpWord h 0x164#9 (0#6 ++ sa ++ sb), (0#23 ++ g ++ setn : BitVec 32)]
  | .asdrop h setn => [warpWord h 0x165#9 (0#14 ++ setn)]
  | .unallocatedOpcode w => [w]
  | .lateDataArrival _ _ _ => []
  | .joinForcedRelease _ => []
  | .racqGrant _ => []
  | .rrelDrainDone _ => []
  | .sleepEnd _ => []
  | .mbwaitTimeout _ => []
  | .pergolaParkedWord _ _ => []
  | .matrixStep _ _ => []
  | .matrixOpComplete _ _ => []
  | .copyChunk _ => []
  | .copyLineDelivery _ _ _ => []
  | .copyComplete _ _ => []
  | .jobStart _ _ _ => []
  | .jobComplete _ _ _ => []
  | .rdcEviction _ _ => []
  | .granuleRequest _ _ => []
  | .granuleGrant _ => []
  | .wound _ => []
  | .taskSlotGrant _ => []
  | .taskCommit _ => []
  | .trapDelivery _ => []
  | .teamStall _ => []
  | .priResponse _ _ => []
  | .atsCompletion _ _ _ _ _ => []
  | .atsInvalidateRequest _ _ _ => []
  | .invalidationComplete => []
  | .pageFaultSwapOut _ => []
  | .packetBegin _ _ => []
  | .waitSignalPoll _ _ => []
  | .teamAdmit _ _ _ => []
  | .gangReserve _ _ _ => []
  | .teamRetire _ => []
  | .launchComplete _ => []
  | .doorbell _ _ => []
  | .ctxcmdActivate _ => []
  | .ctxcmdRetire _ => []
  | .invgo => []
  | .keycmdLoad => []
  | .keycmdErase => []
  | .leasecmdOfferGrant _ => []
  | .leasecmdReclaim _ => []
  | .leasecmdReturn _ => []
  | .leasecmdRetire _ => []
  | .grantMessage _ _ _ _ => []
  | .leasePeerTimeout _ => []
  | .reclaimArrival _ => []
  | .quiesceMessage _ _ _ => []
  | .chunkMoved _ _ => []
  | .leaseDemote _ => []
  | .leaseDeadline _ => []
  | .fabricRequest _ _ => []
  | .fabricReply _ _ => []
  | .fabricTimeout _ => []
  | .planeFailure _ => []
  | .planeDrainDone _ => []
  | .pcieLinkDown => []
  | .ucieLinkFailure => []
  | .patrolScrub _ => []
  | .peerRequest _ _ => []
  | .precmdPreempt _ => []
  | .precmdResume _ => []
  | .precmdDiscard _ => []
  | .frameSave _ => []
  | .frameRestore _ _ => []
  | .eventQueueEnable _ _ => []
  | .devnumWrite _ => []
  | .fwcmdGo => []
  | .registerWrite _ _ => []
  | .deviceReset => []
  | .functionReady _ => []
  | .getVersion => []
  | .getCapabilities => []
  | .negotiateAlgorithms => []
  | .getDigests => []
  | .getCertificate _ _ => []
  | .challenge _ => []
  | .getMeasurements _ => []
  | .thermalThrottle _ _ => []
  | .moduleFault _ => []
  | .nguyxFinalise _ _ => []
  | .storePerformed _ => []
  | .eventQueueSpace _ => []
  | .leaseFailed _ => []
  | .portUp _ => []
  | .pcieLinkUp => []
  | .moduleFaultEnd _ => []
  | .issuePauseEnd _ => []
  | .corePowerGate _ _ => []
  | .debuggerHalt _ => []
  | .debuggerResume _ => []
  | .controlStateParityError _ => []

/-- The bytes of an instruction in memory (R3, R58). -/
def encodeBytes (i : Instr) : List Byte := (encode i).flatMap bytesOfWord

/-- The extension word of a two-word instruction, 0 otherwise. -/
def extWord (i : Instr) : W32 := (encode i).getD 1 0
/-- The first word of an instruction. -/
def firstWord (i : Instr) : W32 := (encode i).getD 0 0
/-- Length in bytes (R58). -/
def Instr.len (i : Instr) : Nat := if twoWords (firstWord i) then 8 else 4

end Sys2Proof
end

