-- ==== Sys2Proof/Machine/Num.lean ====
section
/-! DEFINITION. Number formats, exact values and the one rounding operation (06_number_formats). -/

namespace Sys2Proof.Machine

/-- Flags in the places of FPFLAGS bits [4:0] (R52): NV, DZ, OF, UF, NX. -/
abbrev Fl := BitVec 5
def flNV : Fl := 16#5
def flDZ : Fl := 8#5
def flOF : Fl := 4#5
def flUF : Fl := 2#5
def flNX : Fl := 1#5

/-- A flag, if a condition holds. -/
def flIf (c : Bool) (f : Fl) : Fl := if c then f else 0#5

/-- The floating-point formats of R118. -/
inductive Fmt where | f32 | f16 | bf16 | e5m2 | e4m3 | e3m2 | e2m3 | e2m1 deriving DecidableEq, Repr

def Fmt.ebits : Fmt → Nat | .f32 => 8 | .f16 => 5 | .bf16 => 8 | .e5m2 => 5 | .e4m3 => 4 | .e3m2 => 3 | .e2m3 => 2 | .e2m1 => 2
def Fmt.mbits : Fmt → Nat | .f32 => 23 | .f16 => 10 | .bf16 => 7 | .e5m2 => 2 | .e4m3 => 3 | .e3m2 => 2 | .e2m3 => 3 | .e2m1 => 1
def Fmt.bias : Fmt → Nat | .f32 => 127 | .f16 => 15 | .bf16 => 127 | .e5m2 => 15 | .e4m3 => 7 | .e3m2 => 3 | .e2m3 => 1 | .e2m1 => 1
def Fmt.hasInf : Fmt → Bool | .f32 | .f16 | .bf16 | .e5m2 => true | .e4m3 | .e3m2 | .e2m3 | .e2m1 => false
def Fmt.hasNaN : Fmt → Bool | .f32 | .f16 | .bf16 | .e5m2 | .e4m3 => true | .e3m2 | .e2m3 | .e2m1 => false
/-- Width in bits, sign included. -/
def Fmt.width (f : Fmt) : Nat := 1 + f.ebits + f.mbits
/-- The sign bit's weight. -/
def Fmt.signW (f : Fmt) : Nat := 2 ^ (f.ebits + f.mbits)
/-- Magnitude code of the largest finite value (R118). -/
def Fmt.maxCode : Fmt → Nat
  | .f32 => 0x7F7FFFFF | .f16 => 0x7BFF | .bf16 => 0x7F7F | .e5m2 => 0x7B | .e4m3 => 0x7E
  | .e3m2 => 0x1F | .e2m3 => 0x1F | .e2m1 => 7
/-- Magnitude code of infinity, for the formats that have one. -/
def Fmt.infCode : Fmt → Nat
  | .f32 => 0x7F800000 | .f16 => 0x7C00 | .bf16 => 0x7F80 | .e5m2 => 0x7C | .e4m3 => 0x7F
  | .e3m2 => 0x1F | .e2m3 => 0x1F | .e2m1 => 7
/-- The canonical NaN (R118, R120). -/
def Fmt.canonNaN : Fmt → Nat
  | .f32 => 0x7FC00000 | .f16 => 0x7E00 | .bf16 => 0x7FC0 | .e5m2 => 0x7E | .e4m3 => 0x7F
  | .e3m2 => 0x1F | .e2m3 => 0x1F | .e2m1 => 7
/-- R130: the exponent of the largest finite value. -/
def Fmt.emax : Fmt → Int
  | .f32 => 127 | .f16 => 15 | .bf16 => 127 | .e5m2 => 15 | .e4m3 => 8 | .e3m2 => 4 | .e2m3 => 2 | .e2m1 => 2
/-- The exponent of the smallest subnormal. -/
def Fmt.qmin (f : Fmt) : Int := 1 - (f.bias : Int) - f.mbits

/-- An exact value or special: a finite value is m × 2^e with its sign. -/
inductive Val where
  | nan (neg sig : Bool)
  | inf (neg : Bool)
  | fin (neg : Bool) (m : Nat) (e : Int)
  deriving DecidableEq, Repr

def Val.isNaN : Val → Bool | .nan _ _ => true | .inf _ | .fin _ _ _ => false
def Val.isSig : Val → Bool | .nan _ s => s | .inf _ | .fin _ _ _ => false
def Val.isInf : Val → Bool | .inf _ => true | .nan _ _ | .fin _ _ _ => false
def Val.isZero : Val → Bool | .fin _ m _ => m == 0 | .nan _ _ | .inf _ => false
def Val.neg : Val → Bool | .nan n _ => n | .inf n => n | .fin n _ _ => n
/-- The canonical quiet NaN. -/
def Val.qnan : Val := .nan false false

/-- R119, R120: the value of a code of a format (bits above its width are ignored). -/
def valOf (f : Fmt) (code : Nat) : Val :=
  let neg := code / f.signW % 2 == 1
  let ex := code / 2 ^ f.mbits % 2 ^ f.ebits
  let man := code % 2 ^ f.mbits
  if f.hasInf && ex == 2 ^ f.ebits - 1 then
    if man == 0 then .inf neg else .nan neg (decide (man < 2 ^ (f.mbits - 1)))
  else if f == .e4m3 && ex == 15 && man == 7 then .nan neg false
  else if ex == 0 then .fin neg man f.qmin
  else .fin neg (2 ^ f.mbits + man) (f.qmin + ex - 1)

/-- A signed code from a magnitude code. -/
def Fmt.code (f : Fmt) (neg : Bool) (mag : Nat) : Nat := if neg then f.signW + mag else mag

/-- Rounds the quotient n = m / 2^d by a mode: does the magnitude step up? -/
def roundsUp (md : Rm) (neg : Bool) (fl rem d : Nat) : Bool :=
  match md with
  | .rn => decide (2 ^ d < 2 * rem) || (2 * rem == 2 ^ d && fl % 2 == 1)
  | .rz => false
  | .rm => neg && rem != 0
  | .rp => !neg && rem != 0

/-- R125 Grid: the magnitude code, unbounded above, of m × 2^e rounded to the format, and whether it is inexact. -/
def gridCode (f : Fmt) (md : Rm) (neg : Bool) (m : Nat) (e : Int) : Nat × Bool :=
  let top : Int := (Nat.log2 m : Int) + e
  let q : Int := max (top - f.mbits) f.qmin
  let base := (q - f.qmin).toNat * 2 ^ f.mbits
  if q ≤ e then (base + m * 2 ^ (e - q).toNat, false)
  else
    let d := (q - e).toNat
    let fl := m / 2 ^ d
    let rem := m % 2 ^ d
    (base + (if roundsUp md neg fl rem d then fl + 1 else fl), rem != 0)

/-- R125: Convert(x, fmt, md, sat): a code and the flags it raises. -/
def convert (f : Fmt) (md : Rm) (sat : Bool) (x : Val) : Nat × Fl :=
  match x with
  | .nan neg sig =>
    if f.hasNaN then (f.canonNaN, flIf sig flNV) else (f.code neg f.maxCode, flNV)
  | .inf neg =>
    if f.hasInf && !sat then (f.code neg f.infCode, 0)
    else if f == .e4m3 && !sat then (f.code neg 0x7F, flNV)
    else (f.code neg f.maxCode, flNX)
  | .fin neg m e =>
    if m == 0 then (f.code neg 0, 0)
    else
      let tiny := decide ((Nat.log2 m : Int) + e < 1 - (f.bias : Int))
      let (mag, inexact) := gridCode f md neg m e
      let fl := flIf inexact flNX ||| flIf (inexact && tiny) flUF
      if f.maxCode < mag then
        let away := match md with | .rn => true | .rz => false | .rm => neg | .rp => !neg
        let fl := fl ||| flOF ||| flNX
        if !away || sat || !f.hasNaN then (f.code neg f.maxCode, fl)
        else (f.code neg f.infCode, fl)
      else (f.code neg mag, fl)

/-- RoundNE (R7, R125). -/
def roundNE (f : Fmt) (x : Val) : Nat × Fl := convert f .rn false x

/-! ## Exact operations -/

def sgn (neg : Bool) (n : Nat) : Int := if neg then -(n : Int) else n

/-- The exact sum of two finite values (R154: an exact zero is +0 unless both terms are −0). -/
def finAdd (n1 : Bool) (m1 : Nat) (e1 : Int) (n2 : Bool) (m2 : Nat) (e2 : Int) : Val :=
  let e := min e1 e2
  let i := sgn n1 (m1 * 2 ^ (e1 - e).toNat) + sgn n2 (m2 * 2 ^ (e2 - e).toNat)
  if i == 0 then .fin (n1 && n2) 0 e else .fin (decide (i < 0)) i.natAbs e

/-- IEEE addition before rounding, with the NV of ∞ − ∞ and of signalling operands (R154). -/
def vAdd (a b : Val) : Val × Fl :=
  let sg := flIf (a.isSig || b.isSig) flNV
  match a, b with
  | .nan _ _, _ | _, .nan _ _ => (Val.qnan, sg)
  | .inf n, .inf k => if n == k then (.inf n, 0) else (Val.qnan, flNV)
  | .inf n, .fin _ _ _ | .fin _ _ _, .inf n => (.inf n, 0)
  | .fin n1 m1 e1, .fin n2 m2 e2 => (finAdd n1 m1 e1 n2 m2 e2, 0)

def Val.flip : Val → Val
  | .nan n s => .nan n s
  | .inf n => .inf !n
  | .fin n m e => .fin (!n) m e

/-- IEEE multiplication before rounding (R154). -/
def vMul (a b : Val) : Val × Fl :=
  let sg := flIf (a.isSig || b.isSig) flNV
  match a, b with
  | .nan _ _, _ | _, .nan _ _ => (Val.qnan, sg)
  | .inf n, .inf k => (.inf (n != k), 0)
  | .inf n, .fin k m _ | .fin k m _, .inf n => if m == 0 then (Val.qnan, flNV) else (.inf (n != k), 0)
  | .fin n1 m1 e1, .fin n2 m2 e2 => (.fin (n1 != n2) (m1 * m2) (e1 + e2), 0)

/-- Fused multiply-add before its one rounding; 0 × ∞ is invalid whatever c holds (R154). -/
def vFma (a b c : Val) : Val × Fl :=
  let (p, f1) := vMul a b
  let (r, f2) := vAdd p c
  (r, f1 ||| f2)

/-- A finite value scaled by 2^k; specials stay. -/
def Val.scale (x : Val) (k : Int) : Val :=
  match x with
  | .fin n m e => .fin n m (e + k)
  | .inf n => .inf n
  | .nan n s => .nan n s

/-- Rounds an operation's exact result and joins the flags. -/
def finishFp (f : Fmt) (r : Val × Fl) : Nat × Fl :=
  let (c, fl) := roundNE f r.1
  (c, fl ||| r.2)

def fpAdd (f : Fmt) (a b : Nat) : Nat × Fl := finishFp f (vAdd (valOf f a) (valOf f b))
def fpSub (f : Fmt) (a b : Nat) : Nat × Fl := finishFp f (vAdd (valOf f a) (valOf f b).flip)
def fpMul (f : Fmt) (a b : Nat) : Nat × Fl := finishFp f (vMul (valOf f a) (valOf f b))
def fpFma (f : Fmt) (a b c : Nat) : Nat × Fl := finishFp f (vFma (valOf f a) (valOf f b) (valOf f c))

/-- The order key of a code that is no NaN: −0 below +0 (R135, R155). -/
def fpKey (f : Fmt) (a : Nat) : Int :=
  let mag := a % f.signW
  if a / f.signW % 2 == 1 then -(mag : Int) - 1 else mag

/-- minimumNumber and maximumNumber (R135, R155): one NaN yields the other operand, two the canonical NaN. -/
def fpPick (f : Fmt) (wantMax : Bool) (a b : Nat) : Nat × Fl :=
  let va := valOf f a
  let vb := valOf f b
  let sg := flIf (va.isSig || vb.isSig) flNV
  if va.isNaN then (if vb.isNaN then f.canonNaN else b, sg)
  else if vb.isNaN then (a, sg)
  else if wantMax then (if fpKey f a < fpKey f b then b else a, sg)
  else (if fpKey f b < fpKey f a then b else a, sg)

def fpMin (f : Fmt) (a b : Nat) : Nat × Fl := fpPick f false a b
def fpMax (f : Fmt) (a b : Nat) : Nat × Fl := fpPick f true a b

/-- FMED3 (R153): max(min(a, b), min(max(a, b), c)). -/
def fpMed3 (f : Fmt) (a b c : Nat) : Nat × Fl :=
  let (lo, f1) := fpMin f a b
  let (hi, f2) := fpMax f a b
  let (h2, f3) := fpMin f hi c
  let (r, f4) := fpMax f lo h2
  (r, f1 ||| f2 ||| f3 ||| f4)

/-- FCLAMP (R153): min(max(a, b), c). -/
def fpClamp (f : Fmt) (a b c : Nat) : Nat × Fl :=
  let (m, f1) := fpMax f a b
  let (r, f2) := fpMin f m c
  (r, f1 ||| f2)

/-- The magnitude of m × 2^e rounded to an integer by a mode, and whether it is inexact. -/
def integralMag (md : Rm) (neg : Bool) (m : Nat) (e : Int) : Nat × Bool :=
  if 0 ≤ e then (m * 2 ^ e.toNat, false)
  else
    let d := (-e).toNat
    let fl := m / 2 ^ d
    let rem := m % 2 ^ d
    (if roundsUp md neg fl rem d then fl + 1 else fl, rem != 0)

/-- FRND (R156). -/
def fpRound (md : Rm) (a : Nat) : Nat × Fl :=
  match valOf .f32 a with
  | .nan _ sig => (Fmt.canonNaN .f32, flIf sig flNV)
  | .inf _ => (a, 0)
  | .fin neg m e =>
    let (i, ix) := integralMag md neg m e
    ((roundNE .f32 (.fin neg i 0)).1, flIf ix flNX)

/-- R127: conversion to an integer type of w bits. -/
def valToInt (signed : Bool) (w : Nat) (md : Rm) (x : Val) : Int × Fl :=
  let hi : Int := if signed then 2 ^ (w - 1) - 1 else 2 ^ w - 1
  let lo : Int := if signed then -(2 ^ (w - 1)) else 0
  match x with
  | .nan _ _ => (0, flNV)
  | .inf neg => (if neg then lo else hi, flNV)
  | .fin neg m e =>
    let (i, ix) := integralMag md neg m e
    let v := sgn neg i
    if hi < v then (hi, flNV) else if v < lo then (lo, flNV) else (v, flIf ix flNX)

/-- An integer as an exact value. -/
def valOfInt (i : Int) : Val := .fin (decide (i < 0)) i.natAbs 0

/-- IEEE comparison of two values that are no NaN: zeros are equal (R151). -/
def valLt (a b : Val) : Bool :=
  match a, b with
  | .inf true, .inf true => false
  | .inf true, _ => true
  | _, .inf true => false
  | .inf false, _ => false
  | _, .inf false => true
  | .fin n1 m1 e1, .fin n2 m2 e2 =>
    let e := min e1 e2
    decide (sgn n1 (m1 * 2 ^ (e1 - e).toNat) < sgn n2 (m2 * 2 ^ (e2 - e).toNat))
  | .nan _ _, _ | _, .nan _ _ => false

/-- FCMP (R151): the truth and the flags. -/
def fpCmp (c : Cond) (a b : Nat) : Bool × Fl :=
  let va := valOf .f32 a
  let vb := valOf .f32 b
  let un := va.isNaN || vb.isNaN
  let lt := valLt va vb
  let gt := valLt vb va
  let ordering := match c with | .lt | .le | .gt | .ge => true | .eq | .ne | .num | .nan => false
  let fl := flIf (va.isSig || vb.isSig || (un && ordering)) flNV
  let r := match c with
    | .eq => !un && !lt && !gt
    | .ne => un || lt || gt
    | .lt => !un && lt
    | .le => !un && !gt
    | .gt => !un && gt
    | .ge => !un && !lt
    | .num => !un
    | .nan => un
  (r, fl)

/-- The class bit of an f32 code (R156, FCLASS). -/
def fpClass (a : Nat) : Nat :=
  match valOf .f32 a with
  | .nan _ sig => if sig then 8 else 9
  | .inf neg => if neg then 0 else 7
  | .fin neg m _ =>
    if m == 0 then (if neg then 3 else 4)
    else if m < 2 ^ 23 then (if neg then 2 else 5)
    else (if neg then 1 else 6)

/-! ## Block scaling (R130) -/

/-- floor(log2 |x|) of a nonzero finite value. -/
def floorLog2 (m : Nat) (e : Int) : Int := (Nat.log2 m : Int) + e

/-- The largest floor(log2 |x|) over the nonzero finite values of a list; none when there is none. -/
def maxLog2 : List Val → Option Int
  | [] => none
  | x :: xs =>
    let r := maxLog2 xs
    match x with
    | .fin _ m e =>
      if m == 0 then r
      else match r with
        | none => some (floorLog2 m e)
        | some k => some (max k (floorLog2 m e))
    | .nan _ _ | .inf _ => r

/-- R130: the delta of a group. -/
def groupDelta (f : Fmt) (base : Int) (xs : List Val) : Nat :=
  match maxLog2 xs with
  | none => 0
  | some k => (max 0 (min 15 (k - f.emax - base))).toNat

/-- R130: the code of one element of a group whose delta is d. -/
def quantise (f : Fmt) (base : Int) (d : Nat) (x : Val) : Nat × Fl :=
  convert f .rn true (x.scale (-(base + d)))

end Sys2Proof.Machine
end

