-- ==== Sys2Proof/Machine/State.lean ====
section
/-! DEFINITION. The state of one Guyth Iczel, as plain data: warps, teams, cores, dies, the device's tables and
registers, memory, and what the outside world will do next. -/

namespace Sys2Proof.Machine

/-- A finite map from numbers, in ascending key order. -/
abbrev KMap (α : Type) := List (Nat × α)

/-! ## Trap causes (R73) -/

/-- The trap causes of R73. -/
inductive Cause where
  | illegalOp | role | regRange | priv | align | vaRange | page | protect | spadRange | accRange | gangClass | fmt
  | loop | queue | mbar | task | taskCap | set | dataErr | fabric | lease | teamStall | soft | brk | double
  deriving DecidableEq, Repr

/-- A raised cause with its detail (R73, R74). -/
structure TrapReq where
  cause : Cause
  addr : Nat
  lanes : LaneMask
  info : W32
  deriving DecidableEq, Repr

/-! ## Warps -/

/-- R24. -/
inductive Role where | copy | maths | epilogue deriving DecidableEq, Repr

/-- R85: a loop record; the count is that of the handler bank's records (R388), the interrupted code's counts stand
in lc0–lc2. -/
structure LoopRec where
  start : Nat
  exitAddr : Nat
  count : W32
  deriving DecidableEq, Repr

/-- R201. -/
inductive Space where | glob | spad | orang deriving DecidableEq, Repr

/-- What an instruction does to memory. -/
inductive AccKind where
  | load | store | atomic (aop : Aop) | discard | spclr
  /-- R251, R216: a copy of the table of a core: its clearing of P (its parts are the touched lines), or, for a store, the
  place in the queue that its reads follow. -/
  | copyGo (core idx : Nat)
  deriving DecidableEq, Repr

/-- One lane's part of an access: its address and its data words (a store's data; an atomic's x then x2; for SPCLR the
number of lines). -/
structure Part where
  lane : Nat
  addr : Nat
  data : List W32
  deriving DecidableEq, Repr

/-- The accesses of one instruction, with the program-order number of its issue (R205). -/
structure Acc where
  kind : AccKind
  space : Space
  /-- A scalar word's single access (R361: it does not use the private window). -/
  scalar : Bool
  size : Size
  sx : Bool
  scope : Scope
  ord : Ord
  seq : Nat
  pc : Nat
  w0 : W32
  w1 : W32
  parts : List Part
  deriving DecidableEq, Repr

/-- Where a window's result goes. -/
inductive Dest where
  | lanes (vd n : Nat)
  | scalar (sd n : Nat)
  /-- CAPQ (R95): the value and the predicate. -/
  | capq (sd qk : Nat) (value : W32) (known : Bool)
  deriving DecidableEq, Repr

/-- R43 to R47: a lookahead window. `lanes` are those still to be written, `ready` those whose value has been read but
not delivered, `dead` those that have ended while their atomic is still to be performed (R48). `shutNo` orders the closes;
`skip` names the lanes of each destination register that a later close has written (R44). -/
structure Window where
  acc : Acc
  dest : Dest
  la : Nat
  count : Nat
  handler : Bool
  closed : Bool
  lanes : LaneMask
  ready : LaneMask
  late : LaneMask
  vals : KMap (List W32)
  dead : LaneMask
  shutNo : Nat
  skip : KMap LaneMask
  deriving DecidableEq, Repr

/-- Where an operand-log entry's accesses are held (R390). -/
inductive LogSource where
  | window (seq : Nat) | store | copy (core idx : Nat)
  deriving DecidableEq, Repr

/-- R390: an operand-log entry. `timedOut` marks the lanes whose atomic R371 forbids to issue again. -/
structure LogEntry where
  acc : Acc
  source : LogSource
  trap : TrapReq
  delivered : Bool
  timedOut : LaneMask
  deriving DecidableEq, Repr

/-- The whole-warp waits of R301. -/
inductive WaitKind where
  | pushQ (pq : Nat) (handle : W64) (rel : Bool) (scope : Scope)
  | popQ (pq sd qd : Nat) (acq : Bool) (scope : Scope)
  | bar (b : Nat)
  | gbar (cls : GbarCls)
  | mbwait (b : Nat) (phase : W32) (qd : Nat) (start : Nat) (limit : W32)
  | mbinit
  | sleep (start : Nat) (span : W32)
  | racq
  | rrel
  | fence
  | windowClose
  | mwait | twait | xwait
  | atIssue
  | actStore
  | evpost
  | asdrop
  | taskSlot
  | commit
  /-- R301: an instruction fetch in progress. -/
  | fetch
  deriving DecidableEq, Repr

/-- A whole-warp wait: the word held, its active mask at issue and the order in which waits began. -/
structure Wait where
  kind : WaitKind
  word : Instr
  pc : Nat
  act : LaneMask
  order : Nat
  since : Nat
  deriving DecidableEq, Repr

/-- R321: the registers that TBEGIN saves. -/
structure Snapshot where
  v : KMap (List W32)
  s : KMap W32
  p : KMap LaneMask
  q : BitVec 7
  vpc : List (BitVec 57)
  lc : KMap W32
  loops : List LoopRec
  jm : KMap W32
  link : W64
  fpflags : W32
  deriving DecidableEq, Repr

/-- R319, R320: the task a warp is in. -/
structure Task where
  beginPc : Nat
  slot : Nat
  wounded : Bool
  deriving DecidableEq, Repr

structure Warp where
  /-- The team, and the part of it (0 leader or only core, 1 follower; R33). -/
  team : Nat
  core : Nat
  part : Nat
  num : Nat
  role : Role
  pipe : Nat
  vregs : Nat
  /-- R49. Absent entries read 0. -/
  v : KMap (List W32)
  s : KMap W32
  p : KMap LaneMask
  q : BitVec 7
  vpc : List (BitVec 57)
  lc : KMap W32
  jm : KMap W32
  link : W64
  fpflags : W32
  age : W64
  trc : W32
  taskst : Bool
  live : LaneMask
  /-- R81: the lanes that wait on each rejoin mask. -/
  waitK : KMap LaneMask
  /-- R85: loop records, innermost first. -/
  loops : List LoopRec
  /-- R43: open and closed-but-late windows, oldest first. -/
  windows : List Window
  /-- R206: the store queue, oldest first. -/
  storeQ : List Acc
  /-- R390. -/
  opLog : List LogEntry
  /-- Causes that wait for delivery and stand in no log entry, oldest first, with the program-order number of what raised
  them. -/
  pending : List (TrapReq × Nat)
  wait : Option Wait
  /-- R53, R384, R385. -/
  tcause : W32
  tpc : W64
  taddr : W64
  tlanes : W32
  tinfo : W32
  inh : Bool
  t0 : W64
  tact : LaneMask
  hpc : Nat
  /-- Program-order numbers from this one on belong to the handler (R385). -/
  hseq : Nat
  /-- R398: the effect of TRET is still to be performed, after a halted team's restore. -/
  tretDue : Bool
  dcause : W32
  hs : KMap W32
  hq : BitVec 7
  hloops : List LoopRec
  /-- R393: a wound or a TABORT.retry that waits for TRET. -/
  deferredWound : Bool
  deferredRetry : Option (Snapshot × Nat)
  /-- R327: true until the warp's kernel prologue ends. -/
  prologue : Bool
  /-- R331. -/
  taskPending : Bool
  task : Option Task
  /-- R360: index of the private memory ranges. -/
  privIndex : Nat
  /-- R218: the lines that the warp's asynchronous operations have written since its last acquiring FENCEA. -/
  gained : List Nat
  /-- The word at the issue address has been counted toward the open windows but has not completed (R43, R386). -/
  counted : Bool
  /-- R219 and R218: program-order numbers of asynchronous operations and of the next access. -/
  seq : Nat
  exited : Bool
  /-- Registers holding a parity error (R392): vector register and lane at (0, register, lane), scalar at (1, register, 0),
  predicates at (2, register, 0), uniform predicates at (3, register, 0), special registers at (4, index, 0), the handler
bank's uniform predicates at (5, register, 0). -/
  badRegs : List (Nat × Nat × Nat)
  deriving DecidableEq, Repr

/-! ## Memory -/

/-- A line of 128 bytes in an L1: its bytes, its key tag and the stamp of its fill (R15, R212). -/
structure L1Line where
  bytes : List Byte
  key : Nat
  stamp : Nat
  deriving DecidableEq, Repr

/-- A line in an RDC: dirty bytes by mask; the rest of the line is held when `full` (R203). -/
structure RdcLine where
  bytes : List Byte
  dirty : W128
  full : Bool
  key : Nat
  stamp : Nat
  deriving DecidableEq, Repr

/-- A dirty line in its home L2 slice (R13, R219). -/
structure L2Line where
  bytes : List Byte
  dirty : W128
  deriving DecidableEq, Repr

/-! ## Teams -/

/-- R29, R31: the fields of a kernel descriptor, as the command processor read them. -/
structure Desc where
  dver : Nat
  isalvl : Nat
  gclass : Nat
  pairMode : Bool
  ecopy : Nat
  emaths : Nat
  eepi : Nat
  ncopy : Nat
  nmaths : Nat
  nepi : Nat
  vregs : Nat
  spro : Nat
  sfull : Nat
  orang : Nat
  gridX : Nat
  gridY : Nat
  gridZ : Nat
  gangX : Nat
  gangY : Nat
  gangZ : Nat
  privLane : Nat
  asTab : Nat
  asCount : Nat
  lrCount : Nat
  lrTab : Nat
  perg : List W16
  args : List W32
  deriving DecidableEq, Repr

/-- R224: a team's scratchpad on one core: its bytes, the lines with P = 0 and the lines with Z = 0. A line with Z = 1
has no byte but 0. -/
structure Spad where
  cells : List Host.Cell
  absent : List Nat
  written : List Nat
  deriving DecidableEq, Repr

/-- R275: the storage of a pergola. -/
structure Pergola where
  wpos : W32
  rpos : W32
  depth : Nat
  shut : Bool
  ring : KMap W64
  deriving DecidableEq, Repr

/-- R305: a named barrier. -/
structure Bar where
  arr : Nat
  mode : Nat
  deriving DecidableEq, Repr

/-- R238: a transaction-barrier record. -/
structure Mbar where
  phase : W32
  expect : Nat
  arrive : Nat
  pend : Int
  err : Bool
  deriving DecidableEq, Repr

/-- R171, R177: a matrix operation in a queue, with the register values it read at issue. -/
structure MatOp where
  kind : Nat
  pc : Nat
  fw : W32
  a : List W32
  b : List W32
  c : W32
  /-- R188: the program-order number of its issue. -/
  seq : Nat
  /-- Steps completed on the leader's array and on the follower's. -/
  steps : Nat
  steps2 : Nat
  /-- R188: the 16-byte units of operand lines that have been read ahead of their step, by part × 2^40 + unit. -/
  latched : KMap (List Byte)
  /-- R173, R188: the units that the step under way has read, by the same key. -/
  now : KMap (List Byte)
  /-- R195: by element, how many of the next step's writes to it have been made, and the elements that the array holds. -/
  ahead : KMap Nat
  held : KMap W32
  deriving DecidableEq, Repr

/-- R171: the matrix context that a maths warp holds: its number on the core, its warp and its queue, oldest first. -/
structure MatCtx where
  bank : Nat
  warp : Nat
  ops : List MatOp
  deriving DecidableEq, Repr

/-- R164: the activation store: its holder, the banks' segments (three coefficients each) and the active bank. -/
structure ActStore where
  holder : Option Nat
  bank0 : KMap (List W32)
  bank1 : KMap (List W32)
  active : Nat
  /-- R166: when the active bank was last changed, and the bank that was active before the core cycle of that change. -/
  before : Option (Nat × Nat)
  deriving DecidableEq, Repr

structure Team where
  ctx : Nat
  launch : Nat
  desc : Desc
  x : Nat
  y : Nat
  z : Nat
  /-- R22, R54: the linear gang coordinate, which special register 0x05 and the frame's GANG field give. -/
  gangNum : Nat
  /-- R33: the leader or only core first. -/
  cores : List Nat
  /-- R34: the current allotment A. -/
  allot : Nat
  /-- R35: parked by RACQ until the grant. -/
  parked : Bool
  admitOrder : Nat
  /-- R398: halted by an unhandled trap of the warp of this number; no warp issues. -/
  halted : Option Nat
  /-- R398: the TRAP event of the halt has been posted. -/
  haltPosted : Bool
  /-- R317: the lowest refused SETN of the launch. -/
  refusedSet : Option Nat
  /-- By part (0 leader or only core, 1 follower). -/
  spads : KMap Spad
  /-- R174: the allotment of maths warp W on a part, at key 2 × part + W. -/
  orangs : KMap (List Host.Cell)
  /-- By number of the maths warp. -/
  mats : KMap MatCtx
  pergs : KMap Pergola
  bars : KMap Bar
  /-- R238, R243: bound barriers by part × 32 + name. -/
  mbars : KMap Mbar
  /-- R245: the layout records of the team's slots. -/
  layouts : KMap (List Byte)
  /-- R164: by part, the banks that a restored team reloads when it next takes an activation store. -/
  savedAct : KMap ActStore
  /-- R394: being pre-empted; no warp issues. -/
  preempting : Bool
  /-- R396: the pre-emption is a swap-out. -/
  swap : Bool
  /-- R313: since when the condition of the team-stall detector has held. -/
  stuckSince : Option Nat
  /-- R286: by pergola, the time of the last word that reached it and that word's place in the order of one cycle. -/
  pergTurn : KMap (Nat × Nat)
  deriving DecidableEq, Repr

/-! ## Translation (15_translation_and_contexts) -/

/-- Who makes an access that may have to wait for an answer from outside the core. -/
inductive Waiter where
  /-- A lane of a window, by warp, program-order number and lane. -/
  | lane (warp seq lane : Nat)
  /-- The store at the head of a warp's queue. -/
  | store (warp seq lane : Nat)
  /-- An instruction fetch, or a read that the word itself waits for (R427). -/
  | fetch (warp : Nat)
  | word (warp off : Nat)
  | copy (core idx off : Nat)
  | job (ctx stream ticket off : Nat)
  | commit (warp off : Nat)
  | launch (ctx queue off : Nat)
  | hwm (ctx launch : Nat)
  /-- A write-back of a line of an RDC (R203, R212). -/
  | rdc (die line : Nat)
  /-- A lease message of a record (R374 to R380). -/
  | lease (rec : Nat)
  /-- No one: a request on its way whose access was withdrawn. -/
  | none
  deriving DecidableEq, Repr

/-- R348: the kinds of access. -/
inductive AccessKind where | read | write | atomic | fetch | engineRead | engineWrite | discard deriving DecidableEq, Repr

/-- R347: a TLB entry: the leaf of a page of 2^size bytes at va. -/
structure TlbEntry where
  ctx : Nat
  va : Nat
  size : Nat
  tier : Nat
  dev : Nat
  frame : Nat
  key : Nat
  rd : Bool
  wr : Bool
  ex : Bool
  deriving DecidableEq, Repr

/-- R349: an outstanding page request of a die: its intents, the fault that it serves, and the accesses that wait for its
response. `perm` marks a request for a permission of a TIER 3 page (R351); `past` is the offset in the private window that
HWM does not reach (R362), 0 for a fault of the walk. -/
structure PriReq where
  die : Nat
  ctx : Nat
  page : Nat
  rd : Bool
  wr : Bool
  ex : Bool
  since : Nat
  perm : Bool
  past : Nat
  waiters : List Waiter
  deriving DecidableEq, Repr

/-- R351: an outstanding ATS translation request. -/
structure AtsReq where
  die : Nat
  ctx : Nat
  leaf : TlbEntry
  va : Nat
  deriving DecidableEq, Repr

/-- R352: an invalidation command, with the accesses that it still waits for counted by the device. -/
structure InvCmd where
  ctx : Nat
  va : Nat
  len : Nat
  sig : Nat
  deriving DecidableEq, Repr

/-- R315: a declared atomic set. -/
structure SetDecl where
  base : Nat
  len : Nat
  g : Nat
  deriving DecidableEq, Repr

/-- R329: an entry of a lock directory: its slice, the holding warp and stamp, and the warps that wait for it. -/
structure LockEntry where
  slice : Nat
  holder : Option (Nat × W64)
  waiters : List (Nat × W64)
  deriving DecidableEq, Repr

/-- R337, R383: a resident context: the record fields read at its activation. -/
structure Context where
  active : Bool
  retiring : Bool
  dptRoot : Nat
  pasid : Nat
  priOff : Bool
  keyMask : W128
  pBase : Nat
  pBack : Nat
  pMaxLog2 : Nat
  nPriv : Nat
  hwm : Nat
  thand : Nat
  fpool : Nat
  fslot : Nat
  nslot : Nat
  fkey : Nat
  pfTime : Nat
  /-- R395: no team is admitted until PRECMD resume. -/
  preempted : Bool
  /-- R315: by slot. -/
  sets : KMap SetDecl
  deriving DecidableEq, Repr

/-- R356: a key slot: loaded or empty, and its material. -/
structure KeySlot where
  loaded : Bool
  material : List Byte
  deriving DecidableEq, Repr

/-! ## Fabric requests (R363, R369 to R371, R410) -/

/-- The work of a fabric request within one line of another device's HBM. -/
inductive FabOp where
  | read
  | write (bytes : List (Nat × Byte))
  /-- R229: the atomics of one unit by the lanes of one instruction, in lane order. -/
  | atomic (off : Nat) (size : Size) (aop : Aop) (xs : List (W128 × W128))
  | discard
  /-- A lease message: 0 grant, 1 reclaim, 2 quiesce, 3 return. -/
  | message (kind : Nat)
  deriving DecidableEq, Repr

structure FabReq where
  who : Waiter
  die : Nat
  dev : Nat
  pa : Nat
  va : Nat
  op : FabOp
  port : Nat
  since : Nat
  /-- R410: the time-out that it was sent under, in µs. -/
  tmo : Nat
  /-- R368: requests are sent in the order of these numbers. -/
  order : Nat
  /-- The answer, once it has come: the bytes of the line read, or the old values of the atomics. -/
  answer : Option (TrapReq ⊕ List Byte)
  deriving DecidableEq, Repr

/-! ## Event queues (R412, R413) -/

structure EventQ where
  base : Nat
  enabled : Bool
  logn : Nat
  /-- Records accepted since the queue was enabled. -/
  count : Nat
  lost : Bool
  deriving DecidableEq, Repr

/-- R409: the error block. -/
structure ErrBlock where
  log : Nat
  ctl : W64
  widx : Nat
  ridx : Nat
  ceCnt : Nat
  lost : Nat
  deriving DecidableEq, Repr

/-! ## Leases (R372) -/

/-- R372: STATE of a lease record. -/
inductive LeaseState where | idle | offered | active | reclaiming | demoted | ended | failed deriving DecidableEq, Repr

/-- R372: a lease record as the device holds it. `returning` marks a return in progress (R380), `stopped` the stop
point of R376, `quiesced` the end of its step 2; `moved` are the chunks redirected so far. -/
structure Lease where
  lender : Bool
  st : LeaseState
  peer : Nat
  id : W32
  lbase : Nat
  size : Nat
  ctx : Nat
  key : Nat
  fb : Bool
  fbase : Nat
  deadline : Nat
  trecl : W64
  returning : Bool
  stopped : Bool
  quiesced : Bool
  moved : List Nat
  lastMove : Nat
  /-- R376: chunks that the borrower has reported as awaited, first reported first. -/
  awaited : List Nat
  /-- R368: a message that waits while its plane drains. -/
  unsent : Option Nat
  deriving DecidableEq, Repr

/-! ## Engine jobs (R265 to R270) -/

/-- R261, R262: a chunk of a copy or of an engine job in progress: the 16-byte source units read so far, and, once every
source has been read, the single writes still to be made: to the image, the tensor and the scales, and to the residuals.
`sent` and `bytes` count the write requests, and their bytes, that translation has accepted; `again` marks a chunk that
restarts once its fault is served. -/
structure Chunk where
  read : KMap (List Byte)
  computed : Bool
  main : List (Nat × Byte)
  resid : List (Nat × Byte)
  sent : Nat
  bytes : Nat
  again : Bool
  deriving DecidableEq, Repr

/-- A chunk that has not begun. -/
def Chunk.fresh : Chunk := ⟨[], false, [], [], 0, 0, false⟩

/-- R269: a job of a stream, from its submission on. -/
structure Job where
  ticket : W32
  card : List Byte
  /-- The layout record of a transform job. -/
  rcd : List Byte
  started : Bool
  chunk : Nat
  /-- R16: the engine that runs it, numbered through the package. -/
  engine : Option Nat
  work : Chunk
  /-- R272: the number of the free values of a picture in error, and what its decoder has read of its bitstream and its state
  block. -/
  draw : Nat
  bits : List Byte
  block : List Byte
  written : Nat
  /-- The status and detail once it is known; `complete` once the record has been written. -/
  result : Option (Nat × Nat)
  complete : Bool
  /-- The warp that submitted it, for FENCEA. -/
  warp : Nat
  deriving DecidableEq, Repr

/-- R269: a stream: the next ticket and its jobs, oldest first (the last 256). -/
structure Stream where
  next : W32
  jobs : List Job
  deriving DecidableEq, Repr

/-! ## Cores -/

/-- An issue slot (R27): which run it is in. -/
structure Slot where
  /-- The warp whose run goes on, the instructions that the run has issued, and the address of the next (R42). -/
  run : Option (Nat × Nat × Nat)
  /-- R302: warps waiting for the slot, first to issue first, and when each joined. -/
  queue : List Nat
  joined : KMap Nat
  deriving DecidableEq, Repr

/-- R328: an aligned 16-byte unit of a task's write buffer. `hist` holds, newest first, what the unit held before the store
of each program-order number. -/
structure BufUnit where
  va : Nat
  bytes : List Byte
  mask : BitVec 16
  hist : List (Nat × List Byte × BitVec 16)
  deriving DecidableEq, Repr

/-- R320: a task slot. Granules are held, requested, or named by a word but not yet sent to their directory. -/
structure TaskSlot where
  warp : Nat
  snap : Snapshot
  buf : KMap BufUnit
  held : List Nat
  asked : List Nat
  unsent : List Nat
  deriving DecidableEq, Repr

/-- What a copy or a transform job has latched (R248, R251, R271). -/
structure Xf where
  load : Bool
  chain : Nat
  rcd : List Byte
  img : Nat
  tbase : Nat
  c : List Int
  deriving DecidableEq, Repr

/-- R251, R264: an entry of the outstanding-copy table. `left` are the touched lines that it has not delivered. -/
structure Copy where
  team : Nat
  warp : Nat
  part : Nat
  bar : Option Nat
  xf : Xf
  pc : Nat
  w0 : W32
  w1 : W32
  order : Nat
  /-- R205: its program-order number in its warp. -/
  seq : Nat
  chunk : Nat
  left : List Nat
  stopped : Bool
  /-- R251, R216: its place in its warp's store queue has been reached. -/
  go : Bool
  work : Chunk
  deriving DecidableEq, Repr

structure Core where
  l1 : KMap L1Line
  /-- R347. -/
  tlb : List TlbEntry
  slots : KMap Slot
  act : ActStore
  copies : KMap Copy
  tasks : KMap TaskSlot
  /-- R318: the counter value of the last stamp handed out. -/
  lastStamp : Option Nat
  /-- R173: the matrix context that was stepped last. -/
  lastMat : Option Nat
  deriving DecidableEq, Repr

/-! ## What stops the machine -/

/-- Reasons for a fault. -/
inductive Fault where
  /-- exec was asked to run an instruction word with no warp in the issue slot. Raised by every instruction word. Safe:
  no step of the machine reaches it, since a step runs a word only for the warp that won a slot. -/
  | noWarp
  /-- The warp in the slot belongs to no team. Raised by words that need their team. Safe: no team's warps outlive it. -/
  | noTeam
  deriving DecidableEq, Repr

/-- Reasons for a refusal. -/
inductive Refusal where
  /-- The instruction has no meaning in this model yet. Raised by an arm of exec. Safe: the machine stops. -/
  | notModelled (mnemonic : String)
  deriving DecidableEq, Repr

/-! ## Portable objects (R105 to R109, R114) -/

/-- R112: a symbol of an object and what is added to its value. -/
structure NguyxRef where
  sym : Nat
  add : Int
  deriving DecidableEq, Repr

/-- R105, R112: how an instruction uses a symbol: for the target in its OFF or LEND, or as a half of an address in its 32-bit
immediate extension word. -/
inductive NguyxUse where
  | target (r : NguyxRef)
  | lo32 (r : NguyxRef)
  | hi32 (r : NguyxRef)
  deriving DecidableEq, Repr

/-- An item of the .text of a portable form (R114): a label, an instruction with its level, or padding. -/
inductive NguyxText where
  | label (name : Nat)
  | instr (level : Nat) (i : Instr) (use : Option NguyxUse)
  | align (n : Nat)
  deriving DecidableEq, Repr

/-- An item of its .rodata or .data: a label, a BRX table (R109), values, a 32-bit word that is the distance of one label from
another or a half of an address (R98), or padding. -/
inductive NguyxData where
  | label (name : Nat)
  | table (anchor dflt : Nat) (entries : List Nat)
  | bytes (bs : List Byte)
  | distance (head base : Nat) (add : Int)
  | address (hi : Bool) (r : NguyxRef)
  | align (n : Nat)
  deriving DecidableEq, Repr

/-- R106, R316: an .aset line: SETN, the base (a number, or a symbol's address), the length and G. -/
structure NguyxAset where
  setn : Nat
  base : Nat
  sym : Option NguyxRef
  len : Nat
  g : Nat
  deriving DecidableEq, Repr

/-- R102, R244: a .layout line: the record, and the symbols that its SCALE and RESID name. -/
structure NguyxLayout where
  record : List Byte
  scale : Option NguyxRef
  resid : Option NguyxRef
  deriving DecidableEq, Repr

/-- A kernel (R106, R108): its symbol, the descriptor's fields that its directives name, the labels of its entry points, its
.aset lines in their order, and its .layout lines by slot. -/
structure NguyxKernel where
  name : Nat
  fields : Desc
  copy : Option Nat
  maths : Option Nat
  epilogue : Option Nat
  asets : List NguyxAset
  layouts : KMap NguyxLayout
  deriving DecidableEq, Repr

/-- A portable form, with the object's capability records (R113): an index and a mask each. -/
structure NguyxObject where
  caps : List (Nat × Nat)
  text : List NguyxText
  rodata : List NguyxData
  data : List NguyxData
  kernels : List NguyxKernel
  deriving DecidableEq, Repr

/-- R111: the sections that are mapped. -/
inductive NguyxSection where | text | rodata | data | kdesc deriving DecidableEq, Repr

/-- R112: the relocations that are left when an object has been finalised; those of the other types are resolved in it. -/
inductive RelocKind where | abs64 | lo32 | hi32 deriving DecidableEq, Repr

/-- R112: a relocation: its place, and the section and the offset whose address it puts there. -/
structure Reloc where
  kind : RelocKind
  place : NguyxSection
  off : Nat
  target : NguyxSection
  value : Int
  deriving DecidableEq, Repr

/-- R113, R114: the result of a load's finalisation: a refusal code, or the native words, the bytes of .rodata and .data, the
descriptors, whose addresses are offsets in their sections, and the relocations. -/
inductive Finalised where
  | refused (code : Nat)
  | native (text : List W32) (rodata data : List Byte) (descs : List Desc) (relocs : List Reloc)
  deriving DecidableEq, Repr

/-! ## What happens next -/

/-- One thing that happens: a slot issues, or another agent takes one of its steps. `late` names the lanes whose data
arrives after the closes of that issue. The other moves are what R203, R347 and R403 let happen at any time, and what the
outside world does to its own memory. -/
inductive Move where
  | issue (core slot : Nat) (late : LaneMask)
  | event (i : Instr)
  /-- An L1 drops its copy of a line; a TLB of a core, or of a die, drops its entries; an L2 slice writes a line back. -/
  | dropL1 (core line : Nat)
  | dropCoreTlb (core : Nat)
  | dropDieTlb (die : Nat)
  | evictL2 (line : Nat)
  /-- The host writes its memory; another device's memory changes. -/
  | hostWrite (a : Nat) (bytes : List Byte)
  | peerWrite (dev pa : Nat) (bytes : List Byte)
  /-- A unit becomes uncorrectable, or correctable (R403). -/
  | upset (kind owner index : Nat)
  | weaken (kind owner index : Nat)
  /-- R404, R409: a read meets a correctable unit, which is corrected for it and counted. -/
  | corrected (kind owner index : Nat)
  /-- R188, R195: the array of a core reads a 16-byte unit ahead of the step of a context that needs it; a step makes its next
  addition to one element of its tile, which goes to the orangery or stays in the array until the step ends. -/
  | matFetch (core bank unit : Nat)
  | matAdd (core bank elem : Nat) (hold : Bool)
  /-- R73: the debugger has set a breakpoint at the next word of a warp. -/
  | breakpoint (warp : Nat)
  /-- R376: the lender's firmware reclaims a lease on its own behalf. -/
  | firmwareReclaim (rec : Nat)
  /-- The driver is given a Nguyx object (R113). -/
  | offerObject (obj : Nat) (form : NguyxObject)
  deriving DecidableEq, Repr

/-- A move and the periods of the device time counter that pass before it. -/
structure Turn where
  dt : Nat
  move : Move
  deriving DecidableEq, Repr

/-! ## Saved frames (R394 to R402) -/

/-- A saved team: its frame's slot, address and key, and what the frame holds. `queued` marks a frame that waits for
admission, `halt` the warp of an unhandled trap (R398). -/
structure Frame where
  ctx : Nat
  slot : Nat
  pa : Nat
  /-- R383: the base of the pool that the slot belongs to, where its busy bit lies. -/
  pool : Nat
  key : Nat
  team : Team
  warps : KMap Warp
  /-- With the core and the table entry that each had. -/
  copies : List (Nat × Nat × Copy)
  halt : Option Nat
  queued : Bool
  /-- R310: the warps that a GBAR has let go since the save. -/
  released : List Nat
  /-- Saved by the page-fault rule (R396). -/
  fault : Bool
  deriving DecidableEq, Repr

/-! ## Launches (R293 to R299) -/

/-- R293, R422: a launch queue as its last doorbell read it; `met` marks the waits of the next packet that have been met. -/
structure LaunchQ where
  header : Nat
  logn : Nat
  prio : Nat
  widx : Nat
  ridx : Nat
  met0 : Bool
  met1 : Bool
  deriving DecidableEq, Repr

/-- All of memory at its homes, at a moment. -/
structure MemImage where
  hbm : List Host.Cell
  l2 : KMap L2Line
  keyTag : KMap Nat
  undef : List (Nat × Nat × Nat)
  keys : KMap KeySlot
  hostMem : List Host.Cell
  fabMem : List Host.Cell
  deriving DecidableEq, Repr

/-- R294 to R299: a packet that has begun and not completed. `status` is set once it is decided. -/
structure Launch where
  ctx : Nat
  queue : Nat
  packet : Nat
  kdesc : Nat
  prio : Nat
  order : Nat
  /-- R299: since when it has stood at the head of the offering order. -/
  since : Option Nat
  sig : Nat
  compl : Nat
  /-- R295: its descriptor and tables are still being read. -/
  reading : Bool
  /-- R31, R296: what it has read of its descriptor and tables so far; how far the write of its completion record has come. -/
  work : Chunk
  desc : Desc
  /-- The layout-record table, as it was read (R245). -/
  layouts : List (List Byte)
  refusedSet : Option Nat
  /-- Gangs admitted, and teams that have retired. -/
  admitted : List Nat
  retired : Nat
  /-- R362: the request for PRIVLANE has not been answered. -/
  privWait : Bool
  /-- R299: a reserved placement and its gang. -/
  reserved : Option (Nat × List Nat)
  /-- R28: memory as it was when its first team was admitted, and, by address, the words that its warps have fetched since
  and that differ from that. -/
  before : Option MemImage
  seen : KMap (List W32)
  status : Option Nat
  deriving DecidableEq, Repr

/-! ## Management registers (R338, R366, R382, R409, R419 to R426) -/

structure Regs where
  /-- R420. -/
  ready : BitVec 11
  ctxtab : Nat
  /-- R339: the context whose retire is in progress. -/
  ctxBusy : Option Nat
  ctxResult : Nat
  invCtx : Nat
  invVa : Nat
  invLen : Nat
  invSig : Nat
  invErr : Bool
  keyIdx : Nat
  /-- R338: [1:0] of KEYCMD. -/
  keyOp : Nat
  keyData : List Byte
  leasetab : Nat
  /-- R373: the record, the OP and the time of the LEASECMD in progress. -/
  leaseBusy : Option (Nat × Nat × Nat)
  leaseResult : Nat
  rectab : Nat
  /-- R395: the context of the PRECMD pre-empt in progress, and whether some team found no free slot. -/
  preBusy : Option Nat
  preFull : Bool
  preResult : Nat
  presig : Nat
  /-- R421: by context. -/
  lqtab : KMap Nat
  /-- R423: by window. -/
  apwin : KMap W64
  fwstage : Nat
  fwResult : Nat
  /-- R425: FWCMD's BUSY, with the address of the image that is being verified. -/
  fwBusy : Option Nat
  /-- R425: an accepted image, which takes effect at the next reset. -/
  fwPending : Option (List Byte)
  /-- R426. -/
  pwrcap : Nat
  pwrnow : Nat
  thrcnt : Nat
  temp : Nat
  inlet : Nat
  modflow : Nat
  vrFault : Bool
  flowFault : Bool
  overTemp : Bool
  /-- R418: how often each vector has been raised. -/
  msix : KMap Nat
  deriving DecidableEq, Repr

/-- The registers after reset (R338, R366, R382, R419, R423, R426). -/
def Regs.reset : Regs where
  ready := 0
  ctxtab := 0
  ctxBusy := none
  ctxResult := 0
  invCtx := 0
  invVa := 0
  invLen := 0
  invSig := 0
  invErr := false
  keyIdx := 0
  keyOp := 0
  keyData := List.replicate 64 0
  leasetab := 0
  leaseBusy := none
  leaseResult := 0
  rectab := 0
  preBusy := none
  preFull := false
  preResult := 0
  presig := 0
  lqtab := []
  apwin := []
  fwstage := 0
  fwResult := 0
  fwBusy := none
  fwPending := none
  pwrcap := 3200
  pwrnow := 0
  thrcnt := 0
  temp := 0
  inlet := 0
  modflow := 0
  vrFault := false
  flowFault := false
  overTemp := false
  msix := []

/-- R423, R406: the answer to a request at the peer aperture. -/
inductive PeerAnswer where | done (bytes : List Byte) | unsupported | poisoned deriving DecidableEq, Repr

/-- R425: the signature and hash schemes that the device offers. -/
inductive SignScheme where | rsassaPss3072 deriving DecidableEq, Repr
inductive HashScheme where | sha256 deriving DecidableEq, Repr

/-- R425: the answers of the SPDM responder. -/
inductive SpdmAnswer where
  | version (major minor : Nat)
  /-- No session is established. -/
  | capabilities (session : Bool)
  | algorithms (sign : SignScheme) (hash : HashScheme)
  | digests (bytes : List Byte)
  | certificate (bytes : List Byte)
  | challenge (nonce : Nat) (bytes : List Byte)
  | measurements (index : Nat) (bytes : List Byte)
  /-- An index that names no measurement. -/
  | refused
  deriving DecidableEq, Repr

/-- What the device last answered to a request from outside: another device's (R369), a peer's (R424) or an SPDM request
(R425). -/
inductive Reply where
  | fabric (dev : Nat) (answer : FabricAnswer) (bytes : List Byte)
  | peer (answer : PeerAnswer)
  | spdm (answer : SpdmAnswer)
  deriving DecidableEq, Repr

/-! ## The state -/

structure State where
  /-- R55: the device time counter. -/
  time : W64
  warps : KMap Warp
  teams : KMap Team
  cores : KMap Core
  /-- R12: HBM, by physical address. -/
  hbm : List Host.Cell
  /-- R13, R219: dirty lines of the L2 slices, by line number. -/
  l2 : KMap L2Line
  /-- R14: the RDC of each die, by line. -/
  rdc0 : KMap RdcLine
  rdc1 : KMap RdcLine
  /-- R302: the last number given to what the device orders: fills, requests, waits and admissions. -/
  stamp : Nat
  /-- R356, R357: the key slot under which each HBM line was last written back. -/
  keyTag : KMap Nat
  /-- R379: ranges of HBM whose contents became undefined: base, size and the number of the first byte's free value. A
  line there is undefined while `keyTag` has no entry for it. -/
  undef : List (Nat × Nat × Nat)
  /-- R403: units that cannot be corrected, by storage kind, owner and index. -/
  bad : List (Nat × Nat × Nat)
  /-- Memory of the host and of other devices, which the outside world shares with the device (R17, R364, R415). -/
  hostMem : List Host.Cell
  fabMem : List Host.Cell
  /-- R415: the host completes AtomicOps. -/
  hostAtomics : Bool
  /-- R337, R347, R349, R351. -/
  contexts : KMap Context
  /-- R329: entries by granule (granuleCode), and the requests that wait for a free entry: slice, warp, stamp, granule. -/
  locks : KMap LockEntry
  lockWait : List (Nat × Nat × W64 × Nat)
  tlb0 : List TlbEntry
  tlb1 : List TlbEntry
  pri : KMap PriReq
  /-- Waiters whose page request was answered with a failure, with the page and the TINFO of their PAGE (R349). -/
  priDenied : List (Waiter × Nat × W32)
  /-- Success responses after which a fault remained, by context and page (R349). -/
  priTries : List (Nat × Nat × Nat)
  /-- R351: waiters whose request for a permission of a TIER 3 page was answered with Success, with the page. -/
  priGranted : List (Waiter × Nat)
  ats : KMap AtsReq
  keys : KMap KeySlot
  /-- R369 to R371: requests sent to other devices. -/
  fab : KMap FabReq
  /-- R372. -/
  leases : KMap Lease
  /-- R267: by context × 16 + stream. -/
  streams : KMap Stream
  /-- R394: by team. -/
  frames : KMap Frame
  queues : KMap LaunchQ
  launches : KMap Launch
  /-- Numbers for teams, warps and launches that have never been given out. -/
  nextId : Nat
  regs : Regs
  /-- R352: commands that INVGO queued, ATS requests not yet completed, and Invalidate Completions returned. -/
  invQ : List InvCmd
  atsInv : List InvCmd
  atsDone : Nat
  /-- R366, R367: the remap table's ports and the DRAIN and SHARED bits, and the ports that are up. -/
  planePort : List Nat
  planeDrain : List Bool
  planeShared : List Bool
  /-- R367, R368: the port that a draining entry is to take. -/
  planeNext : List (Option Nat)
  portUp : BitVec 18
  fabricTimeout : Nat
  /-- R412, R413: the event queue of each context. -/
  events : KMap EventQ
  err : ErrBlock
  pcieUp : Bool
  diesStopped : Bool
  /-- R419: DEVNUM. -/
  devnum : W64
  /-- R405: units that hold a correctable error. -/
  correctable : List (Nat × Nat × Nat)
  /-- R426: clocks of islands below nominal, in MHz; cores whose issue is paused, with the time. -/
  clocks : KMap Nat
  paused : KMap Nat
  /-- R354. -/
  gated : List Nat
  dbgHalted : List Nat
  /-- R114: Nguyx objects by digest. -/
  nguyx : KMap NguyxObject
  /-- R114: the finalisations made, by context and object. -/
  finalised : List (Nat × Nat × Finalised)
  /-- R425: the image last accepted, none while it is the part's own; the fused minimum of its security version; and whether
  the boot ROM has verified it since the last reset. -/
  fwImage : Option (List Byte)
  fwFused : Nat
  fwGood : Bool
  reply : Option Reply
  /-- The model's own: the warp whose word is executed, its late lanes, the number of free values taken, and what the
  outside world does next. -/
  cur : Nat
  curLate : LaneMask
  freeCtr : Nat
  agenda : List Turn
  deriving DecidableEq, Repr

/-- The machine after reset (R49, R55): no warp, no team, the counter at 0. -/
def State.reset : State where
  time := 0
  warps := []
  teams := []
  cores := []
  hbm := []
  l2 := []
  rdc0 := []
  rdc1 := []
  stamp := 0
  keyTag := []
  undef := []
  bad := []
  hostMem := []
  fabMem := []
  hostAtomics := true
  contexts := []
  locks := []
  lockWait := []
  tlb0 := []
  tlb1 := []
  pri := []
  priDenied := []
  priTries := []
  priGranted := []
  ats := []
  keys := []
  fab := []
  leases := []
  streams := []
  frames := []
  queues := []
  launches := []
  nextId := 0
  regs := Regs.reset
  invQ := []
  atsInv := []
  atsDone := 0
  planePort := tab 16 fun k => k
  planeDrain := tab 16 fun _ => false
  planeShared := tab 16 fun _ => false
  planeNext := tab 16 fun _ => none
  portUp := 0
  fabricTimeout := 1000
  events := []
  err := { log := 0, ctl := 0, widx := 0, ridx := 0, ceCnt := 0, lost := 0 }
  pcieUp := true
  diesStopped := false
  devnum := 0
  correctable := []
  clocks := []
  paused := []
  gated := []
  dbgHalted := []
  nguyx := []
  finalised := []
  fwImage := none
  fwFused := 0
  fwGood := false
  reply := none
  cur := 0
  curLate := 0
  freeCtr := 0
  agenda := []

end Sys2Proof.Machine
end

