-- ==== Sys2Proof/Machine/Maps.lean ====
section
/-! DEFINITION. Finite maps in ascending key order, and lists read by position. -/

namespace Sys2Proof.Machine

variable {α : Type}

/-- The entry of a key. -/
def kget? : KMap α → Nat → Option α
  | [], _ => none
  | (k, v) :: m, j => if k = j then some v else kget? m j

/-- The entry of a key, or a default. -/
def kget (m : KMap α) (k : Nat) (d : α) : α := (kget? m k).getD d

/-- Sets an entry, keeping the keys in ascending order. -/
def kput : KMap α → Nat → α → KMap α
  | [], j, a => [(j, a)]
  | (k, v) :: m, j, a => if j < k then (j, a) :: (k, v) :: m else if j = k then (j, a) :: m else (k, v) :: kput m j a

/-- Removes an entry. -/
def kdel : KMap α → Nat → KMap α
  | [], _ => []
  | (k, v) :: m, j => if k = j then kdel m j else (k, v) :: kdel m j

/-- Changes an entry that is there. -/
def kmod (m : KMap α) (k : Nat) (f : α → α) : KMap α :=
  match kget? m k with
  | some a => kput m k (f a)
  | none => m

/-- Applies a function to every entry. -/
def kmap (f : Nat → α → α) : KMap α → KMap α
  | [] => []
  | (k, v) :: m => (k, f k v) :: kmap f m

/-- The keys whose entries pass a test, ascending. -/
def kwhere (m : KMap α) (f : Nat → α → Bool) : List Nat := (m.filter fun e => f e.1 e.2).map (·.1)

/-- Keys strictly ascend. -/
def ksorted : KMap α → Bool
  | [] => true
  | [_] => true
  | (k, _) :: (j, b) :: m => decide (k < j) && ksorted ((j, b) :: m)

/-- The least number not among the keys below the map's length plus one. -/
def kfresh (m : KMap α) : Nat := ((List.range (m.length + 1)).find? fun k => (kget? m k).isNone).getD m.length

/-- Replaces the element at a place. -/
def lset : List α → Nat → α → List α
  | [], _, _ => []
  | _ :: l, 0, b => b :: l
  | a :: l, n + 1, b => a :: lset l n b

/-- Puts an element into a list in ascending order of a measure, after its equals. -/
def linsert (f : α → Nat) (a : α) : List α → List α
  | [] => [a]
  | b :: l => if f a < f b then a :: b :: l else b :: linsert f a l

/-- A list in ascending order of a measure; equals keep their order. -/
def lsort (f : α → Nat) : List α → List α → List α
  | [], r => r
  | a :: l, r => lsort f l (linsert f a r)

/-- Sum of a list. -/
def lsum : List Nat → Nat
  | [] => 0
  | a :: l => a + lsum l

end Sys2Proof.Machine
end

