-- ==== Sys2Proof/Machine/Operands.lean ====
section
/-! DEFINITION. Operands: registers, register groups, predicates, guards, the issue address and the executing lanes
(R40, R49 to R51, R92, R139), and immediate fields. -/

namespace Sys2Proof.Machine

/-! ## Immediates -/

/-- An n-bit field read as a signed number. -/
def sext {n : Nat} (b : BitVec n) : Int := b.toInt

/-- R76: the target at a byte offset from a word. -/
def relTarget (pc : Nat) (d : Int) : Nat := (((pc : Int) + d) % 2 ^ 64).toNat

/-- R60, R73: the target at a byte offset is canonical; addresses do not wrap past the top or the bottom. -/
def relCanonical (pc : Nat) (d : Int) : Bool := decide (0 ≤ (pc : Int) + d) && isCanonical ((pc : Int) + d).toNat

/-! ## Vector and scalar registers (R49) -/

def Warp.vReg (w : Warp) (r : Nat) : List W32 := kget w.v r []
/-- VR[l][r]. -/
def Warp.vr (w : Warp) (l r : Nat) : W32 := (w.vReg r).getD l 0
/-- VR[l][r+1]:VR[l][r] (R6). -/
def Warp.vr64 (w : Warp) (l r : Nat) : W64 := pair (w.vr l (r + 1)) (w.vr l r)
/-- SR[r]. -/
def Warp.sr (w : Warp) (r : Nat) : W32 := kget w.s r 0
/-- SR[r+1]:SR[r] (R6). -/
def Warp.sr64 (w : Warp) (r : Nat) : W64 := pair (w.sr (r + 1)) (w.sr r)

/-- Writes one vector register in the lanes of a mask; a register that holds a parity error is cleared of it (R392). -/
def Warp.setV (w : Warp) (r : Nat) (m : LaneMask) (f : Nat → W32) : Warp :=
  { w with
    v := kput w.v r (tab 32 fun l => if laneBit m l then f l else w.vr l r)
    badRegs := w.badRegs.filter fun u => !(u.1 == 0 && u.2.1 == r && laneBit m u.2.2) }

/-- Writes a vector register pair. -/
def Warp.setV64 (w : Warp) (r : Nat) (m : LaneMask) (f : Nat → W64) : Warp :=
  (w.setV r m fun l => (f l).lo).setV (r + 1) m fun l => (f l).hi

def Warp.setS (w : Warp) (r : Nat) (x : W32) : Warp :=
  { w with s := kput w.s r x, badRegs := w.badRegs.filter (· != (1, r, 0)) }

def Warp.setS64 (w : Warp) (r : Nat) (x : W64) : Warp := (w.setS r x.lo).setS (r + 1) x.hi

/-- Writes a group of scalar registers from a list of words. -/
def Warp.setSs (w : Warp) (r : Nat) : List W32 → Warp
  | [] => w
  | x :: xs => (w.setS r x).setSs (r + 1) xs

/-- A special register that is written holds no parity error (R392). -/
def Warp.soundSr (w : Warp) (i : Nat) : Warp := { w with badRegs := w.badRegs.filter (· != (4, i, 0)) }

/-- The n registers of a group in one lane. -/
def Warp.vGroup (w : Warp) (l r n : Nat) : List W32 := tab n fun k => w.vr l (r + k)
/-- The n registers of a scalar group. -/
def Warp.sGroup (w : Warp) (r n : Nat) : List W32 := tab n fun k => w.sr (r + k)

/-- Writes a group of vector registers, register k of lane l taking f l k. -/
def Warp.setVs (w : Warp) (r n : Nat) (m : LaneMask) (f : Nat → Nat → W32) : Warp :=
  (List.range n).foldl (fun w k => w.setV (r + k) m fun l => f l k) w

/-! ## Predicates (R49, R51) -/

/-- Pred[·][n] as a mask of lanes; p7 reads true. -/
def Warp.pMask (w : Warp) (n : Nat) : LaneMask := if n = 7 then BitVec.allOnes 32 else kget w.p n 0
def Warp.pred (w : Warp) (l n : Nat) : Bool := laneBit (w.pMask n) l

/-- Q[n]; q7 reads true. In handler mode the handler bank is read (R388). -/
def Warp.qBit (w : Warp) (n : Nat) : Bool :=
  if n = 7 then true else if w.inh then w.hq.getLsbD n else w.q.getLsbD n

/-! ## Lanes and the issue address (R40) -/

/-- Lanes parked on late data (R47): those that a closed window has still to write. -/
def Warp.lateLanes (w : Warp) : LaneMask :=
  w.windows.foldl (fun m x => if x.closed && !x.handler then m ||| x.lanes else m) 0

/-- Lanes parked at a JOIN (R81). -/
def Warp.joinLanes (w : Warp) : LaneMask := w.waitK.foldl (fun m e => m ||| e.2) 0

/-- READY (R40, R57). -/
def Warp.ready (w : Warp) : LaneMask := w.live &&& ~~~(w.lateLanes ||| w.joinLanes)

def Warp.vpcOf (w : Warp) (l : Nat) : Nat := (w.vpc.getD l 0).toNat

/-- The least vpc over the lanes of a mask. -/
def Warp.minPc (w : Warp) (m : LaneMask) : Nat :=
  (lanesOf m).foldl (fun a l => min a (w.vpcOf l)) (2 ^ 57)

/-- The issue address: HPC in handler mode (R388), else the least vpc of the ready lanes (R40), or of the live lanes when
none is ready (R384). -/
def Warp.issueAddr (w : Warp) : Nat :=
  if w.inh then w.hpc
  else canon57 (if w.ready = 0 then w.minPc w.live else w.minPc w.ready)

/-- The lanes of a mask that stand at an address. -/
def Warp.lanesAt (w : Warp) (m : LaneMask) (a : Nat) : LaneMask :=
  maskOf fun l => laneBit m l && canon57 (w.vpcOf l) == a

/-- The active mask (R40); every lane in handler mode (R92). -/
def Warp.active (w : Warp) : LaneMask :=
  if w.inh then BitVec.allOnes 32 else w.lanesAt w.ready w.issueAddr

/-- The lanes whose guard is true, after guard negation (R7). -/
def Warp.guardMask (w : Warp) (h : LaneHdr) : LaneMask :=
  if h.neg then ~~~(w.pMask h.gp.toNat) else w.pMask h.gp.toNat

/-- The executing set X of a lane word (R92, R139). -/
def Warp.exec (w : Warp) (h : LaneHdr) : LaneMask := w.active &&& w.guardMask h

/-- The uniform guard of a warp word. -/
def Warp.qGuard (w : Warp) (h : WarpHdr) : Bool := w.qBit h.qg.toNat

/-- The lowest lane of a mask. -/
def lowest (m : LaneMask) : Nat := (lanesOf m).headD 0

/-- The number of lanes of a mask. -/
def popMask (m : LaneMask) : Nat := (lanesOf m).length

/-- Moves the lanes of a mask to an address. -/
def Warp.moveLanes (w : Warp) (m : LaneMask) (f : Nat → Nat) : Warp :=
  { w with vpc := tab 32 fun l => if laneBit m l then BitVec.ofNat 57 (f l) else w.vpc.getD l 0 }

end Sys2Proof.Machine
end

