-- ==== Sys2Proof/Machine/Flags.lean ====
section
/-! DEFINITION. FPFLAGS (R52, R141) and predicate results (R150). -/

namespace Sys2Proof.Machine

/-- ORs flags into FPFLAGS (R52). -/
def Warp.orFlags (w : Warp) (f : Fl) : Warp := { w with fpflags := w.fpflags ||| f.zeroExtend 32 }

/-- The union of the flags of the lanes of a mask. -/
def flagsOver (m : LaneMask) (f : Nat → Fl) : Fl := (lanesOf m).foldl (fun a l => a ||| f l) 0

/-- Writes Pred[l][n] in the lanes of a mask; p7 discards the write (R51). -/
def Warp.setP (w : Warp) (n : Nat) (m : LaneMask) (f : Nat → Bool) : Warp :=
  if n = 7 then w
  else { w with
    p := kput w.p n (maskOf fun l => if laneBit m l then f l else w.pred l n)
    badRegs := w.badRegs.filter (· != (2, n, 0)) }

/-- Writes Q[n]; q7 discards the write (R51). In handler mode the handler bank is written (R388). -/
def Warp.setQ (w : Warp) (n : Nat) (b : Bool) : Warp :=
  if n = 7 then w
  else
    let put (x : BitVec 7) : BitVec 7 := if b then x ||| (1#7 <<< n) else x &&& ~~~(1#7 <<< n)
    let w := { w with badRegs := w.badRegs.filter (· != (if w.inh then 5 else 3, n, 0)) }
    if w.inh then { w with hq := put w.hq } else { w with q := put w.q }

/-- BOP of a compare (R150). -/
def bopApply (b : Bop) (r s : Bool) : Bool :=
  match b with
  | .and => r && s
  | .or => r || s
  | .xor => r != s

/-- Integer conditions (R150). -/
def condInt (c : Cond) (a b : Int) : Bool :=
  match c with
  | .eq => a == b
  | .ne => a != b
  | .lt => decide (a < b)
  | .le => decide (a ≤ b)
  | .gt => decide (b < a)
  | .ge => decide (b ≤ a)
  | .num => true
  | .nan => false

/-- A bit of an 8-entry truth table (R146 LOP3, R152 PLOP, R168 QLOP). -/
def lutBit (lut : BitVec 8) (a b c : Bool) : Bool :=
  lut.getLsbD ((if a then 1 else 0) + (if b then 2 else 0) + (if c then 4 else 0))

end Sys2Proof.Machine
end

