-- ==== Sys2Proof/Machine/Crypt.lean ====
section
/-! DEFINITION. AES-256-XTS over one 128-byte line (R356, R357), and the CRC-32 of a context frame (R400). The cipher
and the polynomial are those of the standards that the manual names. -/

namespace Sys2Proof.Machine

/-! ## The field of AES -/

/-- Multiplication by x modulo x^8 + x^4 + x^3 + x + 1. -/
def xtime (b : Nat) : Nat := if b < 128 then 2 * b else (2 * b) ^^^ 0x11B

def gmulGo : Nat → Nat → Nat → Nat → Nat
  | 0, _, _, acc => acc
  | n + 1, a, b, acc => gmulGo n (xtime a) (b / 2) (if b % 2 == 1 then acc ^^^ a else acc)

def gmul (a b : Nat) : Nat := gmulGo 8 a b 0

def sboxTab : List Nat :=
  [0x63,0x7c,0x77,0x7b,0xf2,0x6b,0x6f,0xc5,0x30,0x01,0x67,0x2b,0xfe,0xd7,0xab,0x76,
   0xca,0x82,0xc9,0x7d,0xfa,0x59,0x47,0xf0,0xad,0xd4,0xa2,0xaf,0x9c,0xa4,0x72,0xc0,
   0xb7,0xfd,0x93,0x26,0x36,0x3f,0xf7,0xcc,0x34,0xa5,0xe5,0xf1,0x71,0xd8,0x31,0x15,
   0x04,0xc7,0x23,0xc3,0x18,0x96,0x05,0x9a,0x07,0x12,0x80,0xe2,0xeb,0x27,0xb2,0x75] ++
  [0x09,0x83,0x2c,0x1a,0x1b,0x6e,0x5a,0xa0,0x52,0x3b,0xd6,0xb3,0x29,0xe3,0x2f,0x84,
   0x53,0xd1,0x00,0xed,0x20,0xfc,0xb1,0x5b,0x6a,0xcb,0xbe,0x39,0x4a,0x4c,0x58,0xcf,
   0xd0,0xef,0xaa,0xfb,0x43,0x4d,0x33,0x85,0x45,0xf9,0x02,0x7f,0x50,0x3c,0x9f,0xa8,
   0x51,0xa3,0x40,0x8f,0x92,0x9d,0x38,0xf5,0xbc,0xb6,0xda,0x21,0x10,0xff,0xf3,0xd2] ++
  [0xcd,0x0c,0x13,0xec,0x5f,0x97,0x44,0x17,0xc4,0xa7,0x7e,0x3d,0x64,0x5d,0x19,0x73,
   0x60,0x81,0x4f,0xdc,0x22,0x2a,0x90,0x88,0x46,0xee,0xb8,0x14,0xde,0x5e,0x0b,0xdb,
   0xe0,0x32,0x3a,0x0a,0x49,0x06,0x24,0x5c,0xc2,0xd3,0xac,0x62,0x91,0x95,0xe4,0x79,
   0xe7,0xc8,0x37,0x6d,0x8d,0xd5,0x4e,0xa9,0x6c,0x56,0xf4,0xea,0x65,0x7a,0xae,0x08] ++
  [0xba,0x78,0x25,0x2e,0x1c,0xa6,0xb4,0xc6,0xe8,0xdd,0x74,0x1f,0x4b,0xbd,0x8b,0x8a,
   0x70,0x3e,0xb5,0x66,0x48,0x03,0xf6,0x0e,0x61,0x35,0x57,0xb9,0x86,0xc1,0x1d,0x9e,
   0xe1,0xf8,0x98,0x11,0x69,0xd9,0x8e,0x94,0x9b,0x1e,0x87,0xe9,0xce,0x55,0x28,0xdf,
   0x8c,0xa1,0x89,0x0d,0xbf,0xe6,0x42,0x68,0x41,0x99,0x2d,0x0f,0xb0,0x54,0xbb,0x16]

def sbox (b : Nat) : Nat := sboxTab.getD b 0
def sboxInv (b : Nat) : Nat := sboxTab.findIdx (· == b)

def xorL : List Nat → List Nat → List Nat := List.zipWith (· ^^^ ·)

/-- The sixty words of the AES-256 key schedule, built from the last eight words, newest first. -/
def scheduleGo : Nat → Nat → Nat → List (List Nat) → List (List Nat)
  | 0, _, _, ws => ws
  | n + 1, i, rc, ws =>
    let prev := ws.getD 0 []
    let old := ws.getD 7 []
    let t :=
      if i % 8 == 0 then
        match prev with
        | [a, b, c, d] => [sbox b ^^^ rc, sbox c, sbox d, sbox a]
        | _ => prev
      else if i % 8 == 4 then prev.map sbox
      else prev
    scheduleGo n (i + 1) (if i % 8 == 0 then xtime rc else rc) (xorL old t :: ws)

/-- The fifteen round keys of a 32-byte key. -/
def roundKeys (key : List Nat) : List (List Nat) :=
  let w0 := tab 8 fun i => tab 4 fun j => key.getD (4 * i + j) 0
  let ws := (scheduleGo 52 8 1 w0.reverse).reverse
  tab 15 fun r => (tab 4 fun c => ws.getD (4 * r + c) []).flatten

def at16 (b : List Nat) (i : Nat) : Nat := b.getD (i % 16) 0
def shiftRows (b : List Nat) : List Nat := tab 16 fun i => at16 b (i + 4 * (i % 4))
def shiftRowsInv (b : List Nat) : List Nat := tab 16 fun i => at16 b (i + 12 * (i % 4))

def mixWith (c0 c1 c2 c3 : Nat) (b : List Nat) : List Nat :=
  tab 16 fun i =>
    let col := i / 4 * 4
    let r := i % 4
    let g (k : Nat) := b.getD (col + (r + k) % 4) 0
    gmul (g 0) c0 ^^^ gmul (g 1) c1 ^^^ gmul (g 2) c2 ^^^ gmul (g 3) c3

/-- AES-256 encryption of one 16-byte block. -/
def aesEnc (rk : List (List Nat)) (b : List Nat) : List Nat :=
  let s := (List.range 13).foldl
    (fun s r => xorL (mixWith 2 3 1 1 (shiftRows (s.map sbox))) (rk.getD (r + 1) [])) (xorL b (rk.getD 0 []))
  xorL (shiftRows (s.map sbox)) (rk.getD 14 [])

/-- AES-256 decryption of one 16-byte block. -/
def aesDec (rk : List (List Nat)) (b : List Nat) : List Nat :=
  let s := (List.range 13).foldl
    (fun s r => mixWith 14 11 13 9 (xorL ((shiftRowsInv s).map sboxInv) (rk.getD (13 - r) []))) (xorL b (rk.getD 14 []))
  xorL ((shiftRowsInv s).map sboxInv) (rk.getD 0 [])

/-- The next tweak: multiplication by x in the field of 2^128, bytes little-endian. -/
def tweakNext (t : List Nat) : List Nat :=
  let n := t.foldr (fun b a => a * 256 + b) 0
  let m := if n < 2 ^ 127 then 2 * n else (2 * n - 2 ^ 128) ^^^ 0x87
  tab 16 fun i => m / 256 ^ i % 256

/-- The eight blocks of a line under XTS with tweak t. -/
def xtsGo (f : List Nat → List Nat) : Nat → List Nat → List Nat → List Nat
  | 0, _, _ => []
  | n + 1, t, bs => xorL (f (xorL (bs.take 16) t)) t ++ xtsGo f n (tweakNext t) (bs.drop 16)

/-- One line through XTS: the tweak is the line number (R356); the data key is the first half of the material. -/
def xtsLine (decrypt : Bool) (material : List Nat) (line : Nat) (bs : List Nat) : List Nat :=
  let dk := roundKeys (material.take 32)
  let tk := roundKeys (material.drop 32)
  let t := aesEnc tk (tab 16 fun i => line / 256 ^ i % 256)
  xtsGo (if decrypt then aesDec dk else aesEnc dk) 8 t bs

/-! ## CRC-32 -/

def crcBits : Nat → Nat → Nat
  | 0, c => c
  | n + 1, c => crcBits n (if c % 2 == 1 then (c / 2) ^^^ 0xEDB88320 else c / 2)

/-- CRC-32 of IEEE 802.3 (R400): reflected, initial value and final complement all ones. -/
def crc32 (bs : List Byte) : W32 :=
  BitVec.ofNat 32 ((bs.foldl (fun c b => crcBits 8 (c ^^^ b.toNat)) 0xFFFFFFFF) ^^^ 0xFFFFFFFF)

end Sys2Proof.Machine
end

