-- ==== Sys2Proof/Machine/Mem.lean ====
section
/-! DEFINITION. Memory: byte cells, locations, the home slices, HBM under its keys, and the device's own reads and writes. -/

namespace Sys2Proof.Machine

/-! ## Byte cells in canonical form -/

/-- A byte of a list of cells. An unlisted address reads 0: DESIGN CHOICE, notes/assumptions/1.md. -/
def mget (m : List Host.Cell) (a : Nat) : Byte := kget m a 0

/-- Writes a byte and keeps the canonical form. -/
def mput (m : List Host.Cell) (a : Nat) (b : Byte) : List Host.Cell := if b = 0 then kdel m a else kput m a b

/-- Canonical: addresses strictly rise and no listed byte is 0. -/
def Memory.wf (m : List Host.Cell) : Bool := ksorted m && m.all fun c => c.2 != 0

/-- Little-endian bytes (R3). -/
def leBytes (n x : Nat) : List Byte := tab n fun i => BitVec.ofNat 8 (x / 256 ^ i)
def leNat : List Byte → Nat
  | [] => 0
  | b :: bs => b.toNat + 256 * leNat bs

/-- Words of a list of bytes, four bytes each, lowest first. -/
def leWords (n : Nat) (bs : List Byte) : List W32 := tab n fun i => BitVec.ofNat 32 (leNat ((bs.drop (4 * i)).take 4))
/-- Bytes of words. -/
def wordBytes (ws : List W32) : List Byte := ws.flatMap fun w => leBytes 4 w.toNat

/-! ## Locations -/

/-- Where a translated byte lives (R344): this device's HBM under a key slot, another device's, or the host's. -/
inductive Loc where
  | own (pa key : Nat)
  | peer (dev pa : Nat)
  | host (hpa : Nat)
  deriving DecidableEq, Repr

/-- The tag of the 128-byte line in a cache (R357: physical address and key slot). -/
def Loc.line : Loc → Nat
  | .own pa key => pa / 128 * 128 + key
  | .peer dev pa => 2 ^ 64 + (dev * 2 ^ 52 + pa) / 128 * 128
  | .host h => 2 ^ 72 + h / 128 * 128

/-- The offset within the line. -/
def Loc.off : Loc → Nat
  | .own pa _ => pa % 128
  | .peer _ pa => pa % 128
  | .host h => h % 128

/-- The location of a line from its tag. -/
def locOfLine (t : Nat) : Loc :=
  if t < 2 ^ 64 then .own (t / 128 * 128) (t % 128)
  else if t < 2 ^ 72 then .peer ((t - 2 ^ 64) / 2 ^ 52) ((t - 2 ^ 64) % 2 ^ 52)
  else .host (t - 2 ^ 72)

/-- The physical address at the home. -/
def Loc.phys : Loc → Nat
  | .own pa _ => pa
  | .peer _ pa => pa
  | .host h => h

def Loc.plus : Loc → Nat → Loc
  | .own pa key, n => .own (pa + n) key
  | .peer d pa, n => .peer d (pa + n)
  | .host h, n => .host (h + n)

/-- R203: own-die, sibling or fabric, for a party on a die. -/
inductive Reach where | ownDie | sibling | fabric deriving DecidableEq, Repr

def Loc.reach (l : Loc) (die : Nat) : Reach :=
  match l with
  | .own pa _ => if Config.homeDie pa == die then .ownDie else .sibling
  | .peer _ _ | .host _ => .fabric

/-! ## Uncorrectable units (R403, R407) -/

def State.isBad (s : State) (u : Nat × Nat × Nat) : Bool := s.bad.contains u

/-- Units of a kind that a write of bytes [a, a + n) covers whole become sound (R407). -/
def State.mendBad (s : State) (kind owner unit a n : Nat) : State :=
  if s.bad.isEmpty then s
  else { s with bad := s.bad.filter fun u =>
    !(u.1 == kind && u.2.1 == owner && decide (a ≤ u.2.2 * unit) && decide ((u.2.2 + 1) * unit ≤ a + n)) }

/-! ## The home (R13, R356, R357) -/

/-- Key material of a slot (R356). An empty slot has no stated material: its bytes are those of no key that is known. -/
def State.keyBytes (s : State) (k : Nat) : List Nat :=
  match kget? s.keys k with
  | some x => if k != 0 && x.loaded then x.material.map (·.toNat) else tab 64 fun i => (Config.hiddenKey k i).toNat
  | none => tab 64 fun i => (Config.hiddenKey k i).toNat

/-- The tag of an HBM line whose bytes are held as ciphertext: its key has been replaced (R356). -/
def cipherTag : Nat := 128

/-- A byte of HBM that no line tag covers: nothing has been written there, or it became undefined (R379). -/
def State.rawByte (s : State) (pa : Nat) : Byte :=
  match s.undef.find? fun r => decide (r.1 ≤ pa) && decide (pa < r.1 + r.2.1) with
  | none => mget s.hbm pa
  | some r => BitVec.ofNat 8 (Config.freeValue (r.2.2 + (pa - r.1)))

/-- The 128 bytes of an HBM line as its writer's key shows them, or its ciphertext. -/
def State.hbmRaw (s : State) (line : Nat) : List Byte := tab 128 fun i => mget s.hbm (line * 128 + i)

/-- The 128 bytes of an HBM line under a key. -/
def State.hbmUnder (s : State) (line key : Nat) : List Byte :=
  let raw := s.hbmRaw line
  match kget? s.keyTag line with
  | none => tab 128 fun i => s.rawByte (line * 128 + i)
  | some t =>
    if t = key then raw
    else
      let cipher := if t = cipherTag then raw.map (·.toNat) else xtsLine false (s.keyBytes t) line (raw.map (·.toNat))
      (xtsLine true (s.keyBytes key) line cipher).map (BitVec.ofNat 8)

/-- One byte of HBM under a key. -/
def State.hbmByte (s : State) (pa key : Nat) : Byte :=
  match kget? s.keyTag (pa / 128) with
  | none => s.rawByte pa
  | some t => if t = key then mget s.hbm pa else (s.hbmUnder (pa / 128) key).getD (pa % 128) 0

/-- One byte at the home slice: the slice's dirty copy, else HBM. -/
def State.ownByte (s : State) (pa key : Nat) : Byte :=
  match kget? s.l2 (pa / 128 * 128 + key) with
  | some l => if l.dirty.getLsbD (pa % 128) then l.bytes.getD (pa % 128) 0 else s.hbmByte pa key
  | none => s.hbmByte pa key

/-- One byte at its home. -/
def State.homeByte (s : State) : Loc → Byte
  | .own pa key => s.ownByte pa key
  | .peer dev pa => mget s.fabMem (dev * 2 ^ 52 + pa)
  | .host h => mget s.hostMem h

/-- Writes one byte at its home; HBM bytes go to the slice's dirty copy (R13). -/
def State.putHome (s : State) (l : Loc) (b : Byte) : State :=
  match l with
  | .own pa key =>
    let t := pa / 128 * 128 + key
    let old := kget s.l2 t ⟨[], 0⟩
    let new : L2Line :=
      { bytes := tab 128 fun i => if i = pa % 128 then b else old.bytes.getD i 0
        dirty := old.dirty ||| (1#128 <<< (pa % 128)) }
    { s with l2 := kput s.l2 t new }
  | .peer dev pa => { s with fabMem := mput s.fabMem (dev * 2 ^ 52 + pa) b }
  | .host h => { s with hostMem := mput s.hostMem h b }

/-- All of memory at its homes. -/
def State.image (s : State) : MemImage := ⟨s.hbm, s.l2, s.keyTag, s.undef, s.keys, s.hostMem, s.fabMem⟩

/-- A state with the memory of another moment. -/
def State.withImage (s : State) (m : MemImage) : State :=
  { s with hbm := m.hbm, l2 := m.l2, keyTag := m.keyTag, undef := m.undef, keys := m.keys, hostMem := m.hostMem, fabMem := m.fabMem }

def State.homeBytes (s : State) (l : Loc) (n : Nat) : List Byte := tab n fun i => s.homeByte (l.plus i)

def State.putHomes (s : State) (l : Loc) : List Byte → State
  | [] => s
  | b :: bs => (s.putHome l b).putHomes (l.plus 1) bs

/-- R407: n bytes at a home have been written: a 16-byte unit of the slice or of another device, a 64-byte burst of HBM and a
unit of the host's memory that they cover whole become sound. -/
def State.mendHome (s : State) (l : Loc) (n : Nat) : State :=
  let covers (a lo len : Nat) : Bool := decide (a ≤ lo) && decide (lo + len ≤ a + n)
  let mended (u : Nat × Nat × Nat) : Bool := match l with
    | .own pa key => (u.1 == 1 && covers pa (64 * u.2.2) 64)
        || (u.1 == 2 && u.2.2 / 8 % 128 == key && covers pa (u.2.2 / 8 / 128 * 128 + u.2.2 % 8 * 16) 16)
    | .peer dev pa => u.1 == 0x11 && u.2.1 == dev && covers pa (16 * u.2.2) 16
    | .host h => u.1 == 0x10 && covers h (64 * u.2.2) 64
  if s.bad.isEmpty then s else { s with bad := s.bad.filter fun u => !mended u }

/-- Writes a run of bytes at its home (R407). -/
def State.writeHome (s : State) (l : Loc) (bs : List Byte) : State := (s.putHomes l bs).mendHome l bs.length

/-- Consecutive single writes joined. -/
def runsOf : List (Nat × Byte) → List (Nat × List Byte)
  | [] => []
  | (a, b) :: ws => match runsOf ws with
    | [] => [(a, [b])]
    | (c, bs) :: rs => if c = a + 1 then (a, b :: bs) :: rs else (a, [b]) :: (c, bs) :: rs

/-- Writes bytes at offsets of a line at its home. -/
def State.putHomeAt (s : State) (l : Loc) (ws : List (Nat × Byte)) : State :=
  (runsOf ws).foldl (fun s r => s.writeHome (l.plus r.1) r.2) s

/-- R13: a dirty line of an L2 slice is written back to HBM under its key. -/
def State.l2Evict (s : State) (t : Nat) : State :=
  match kget? s.l2 t with
  | none => s
  | some l =>
    let line := t / 128
    let key := t % 128
    let base := s.hbmUnder line key
    let new := tab 128 fun i => if l.dirty.getLsbD i then l.bytes.getD i 0 else base.getD i 0
    { s with
      l2 := kdel s.l2 t
      hbm := (List.range 128).foldl (fun m i => mput m (line * 128 + i) (new.getD i 0)) s.hbm
      keyTag := kput s.keyTag line key }

/-- The contents of a range of HBM become undefined (R379). -/
def State.scramble (s : State) (base size : Nat) : State :=
  let out (line : Nat) : Bool := decide (line * 128 + 128 ≤ base) || decide (base + size ≤ line * 128)
  { s with
    l2 := s.l2.filter fun e => out (e.1 / 128)
    keyTag := s.keyTag.filter fun e => out e.1
    undef := (base, size, s.freeCtr) :: s.undef
    freeCtr := s.freeCtr + size }

/-- The storage kind of an uncorrectable unit that a read of bytes [off, off + n) of a line at its home meets (R403). A
unit of the slice that has not been written whole holds bytes of its burst of HBM (R407). -/
def State.homeBad (s : State) (l : Loc) (n : Nat) : Option Nat :=
  if s.bad.isEmpty then none
  else match l with
    | .own pa key =>
      let held := kget? s.l2 (pa / 128 * 128 + key)
      (List.range n).findSome? fun i =>
        let a := pa + i
        let unit := a % 128 / 16
        if held.isSome && s.isBad (2, 0, (a / 128 * 128 + key) * 8 + unit) then some 2
        else if (held.elim 0 (·.dirty)).extractLsb' (16 * unit) 16 == BitVec.allOnes 16 then none
        else if s.isBad (1, 0, a / 64) then some 1 else none
    | .peer dev pa => if (List.range n).any fun i => s.isBad (0x11, dev, (pa + i) / 16) then some 0x11 else none
    | .host h => if (List.range n).any fun i => s.isBad (0x10, 0, (h + i) / 64) then some 0x10 else none

/-! ## The device's own reads and writes (R356: under key slot 0) -/

/-- Reads HBM at its home under key slot 0. -/
def State.devRead (s : State) (pa n : Nat) : List Byte := s.homeBytes (.own pa 0) n
def State.devNat (s : State) (pa n : Nat) : Nat := leNat (s.devRead pa n)
def State.devWrite (s : State) (pa : Nat) (bs : List Byte) : State := s.writeHome (.own pa 0) bs

end Sys2Proof.Machine
end

