-- ==== Sys2Proof/Machine/Events.lean ====
section
/-! DEFINITION. Event queues (R412 to R414) and error reports (R404, R409). -/

namespace Sys2Proof.Machine

/-- R413: the queue of a context is enabled. -/
def EventQ.on (q : EventQ) : Bool := q.enabled && decide (4 ≤ q.logn) && decide (q.logn ≤ 16)

def State.eventQ (s : State) (n : Nat) : EventQ := kget s.events n ⟨0, false, 0, 0, false⟩

/-- R413: WIDX − RIDX equals 2^LOGN. DESIGN CHOICE, notes/assumptions/137.md: a queue whose RIDX cannot be corrected counts as
full. -/
def State.eventFull (s : State) (n : Nat) : Bool :=
  let q := s.eventQ n
  (s.homeBad (.own (q.base + 8) 0) 8).isSome || (q.count + 2 ^ 64 - s.devNat (q.base + 8) 8) % 2 ^ 64 == 2 ^ q.logn

/-- R412: the 32 bytes of a record. -/
def eventBytes (kind : Nat) (lost : Bool) (warp seq : Nat) (time : W64) (code datum : W32) (core : Nat) : List Byte :=
  leBytes 1 kind ++ leBytes 1 (if lost then 1 else 0) ++ leBytes 1 warp ++ leBytes 1 0 ++ leBytes 4 seq
    ++ leBytes 8 time.toNat ++ leBytes 4 code.toNat ++ leBytes 4 datum.toNat ++ leBytes 2 core ++ leBytes 6 0

/-- R418: raises an MSI-X vector. -/
def State.raiseVec (s : State) (v : Nat) : State :=
  { s with regs := { s.regs with msix := kput s.regs.msix v (kget s.regs.msix v 0 + 1) } }

/-- R413, R414, R418: appends a record to an enabled queue that has room, then WIDX. -/
def State.appendEvent (s : State) (n kind warp core : Nat) (code datum : W32) : State :=
  let q := s.eventQ n
  let s := s.devWrite (q.base + 64 + 32 * (q.count % 2 ^ q.logn))
    (eventBytes kind q.lost warp q.count s.time code datum core)
  let s := s.devWrite q.base (leBytes 8 (q.count + 1))
  { s with events := kput s.events n { q with count := q.count + 1, lost := false } }.raiseVec (64 + n)

/-- R404, R409: appends a record to the host error log, or counts it lost. -/
def State.hostError (s : State) (ctx warp core : Nat) (code datum : W32) : State :=
  let e := s.err
  let logn := e.ctl.toNat % 32
  let on := e.ctl.getLsbD 31 && decide (4 ≤ logn) && decide (logn ≤ 16)
  if on && decide (e.widx - e.ridx < 2 ^ logn) then
    let b := eventBytes 4 false warp e.widx s.time code datum core
    let s := s.devWrite (e.log + 32 * (e.widx % 2 ^ logn)) (b.take 3 ++ leBytes 1 ctx ++ b.drop 4)
    { s with err := { e with widx := e.widx + 1 } }.raiseVec 0
  else { s with err := { e with lost := min (e.lost + 1) (2 ^ 32 - 1) } }

/-- R404: the read of a queue's RIDX; one that cannot be corrected is reported to the host, as the queue cannot take a
record. -/
def State.readRidx (s : State) (n : Nat) : State :=
  let a := (s.eventQ n).base + 8
  match s.homeBad (.own a 0) 8 with
  | none => s
  | some k => s.hostError n 0xFF 0xFFFF (BitVec.ofNat 32 (0x100 + k)) (BitVec.ofNat 32 a)

/-- R413: a device source's record; a full or disabled queue drops it and marks LOST. -/
def State.postEvent (s : State) (n kind warp core : Nat) (code datum : W32) : State :=
  let q := s.eventQ n
  let s := if q.on then s.readRidx n else s
  if q.on && !s.eventFull n then s.appendEvent n kind warp core code datum
  else { s with events := kput s.events n { q with lost := true } }

/-- R404: the reports of a consumed unit of a storage kind: to the consuming context and to the host. `addr` is the
unit's physical address, 0 for on-core storage (R412). -/
def State.reportBad (s : State) (ctx warp core kind addr : Nat) : State :=
  let code : W32 := BitVec.ofNat 32 (kind + 0x100)
  let datum : W32 := BitVec.ofNat 32 addr
  (s.postEvent ctx 4 warp core code datum).hostError ctx warp core code datum

/-- Adds 1 to a 64-bit signal by an atomic at system scope (R352, R395). A signal that cannot be corrected stays as it is
(R406) and is reported to the host alone. -/
def State.devSignal (s : State) (pa : Nat) : State :=
  match s.homeBad (.own pa 0) 8 with
  | none => s.devWrite pa (leBytes 8 (s.devNat pa 8 + 1))
  | some k => s.hostError 0xFF 0xFF 0xFFFF (BitVec.ofNat 32 (0x100 + k)) (BitVec.ofNat 32 pa)

end Sys2Proof.Machine
end

