-- ==== Sys2Proof/Machine/Cache.lean ====
section
/-! DEFINITION. The copies in L1 and RDC and the points of service of R203, and atomics at a home. -/

namespace Sys2Proof.Machine

/-! ## L1 and RDC (R14, R15, R203, R212) -/

/-- A core that no team has used. -/
def Core.fresh : Core where
  l1 := []
  tlb := []
  slots := []
  act := ⟨none, [], [], 0, none⟩
  copies := []
  tasks := []
  lastStamp := none
  lastMat := none

def State.core (s : State) (c : Nat) : Core := kget s.cores c Core.fresh

def State.setCore (s : State) (c : Nat) (x : Core) : State := { s with cores := kput s.cores c x }

def State.rdc (s : State) (die : Nat) : KMap RdcLine := if die = 0 then s.rdc0 else s.rdc1
def State.setRdc (s : State) (die : Nat) (m : KMap RdcLine) : State :=
  if die = 0 then { s with rdc0 := m } else { s with rdc1 := m }

def State.tick (s : State) : State := { s with stamp := s.stamp + 1 }

/-- Fills a core's L1 with a line that was read from its home at a stamp (R212). -/
def State.fillL1 (s : State) (c : Nat) (t : Nat) (bs : List Byte) (stamp : Nat) : State :=
  let x := s.core c
  s.setCore c { x with l1 := kput x.l1 t ⟨bs, t % 128, stamp⟩ }

def State.dropL1 (s : State) (c t : Nat) : State :=
  let x := s.core c
  match kget? x.l1 t with
  | none => s
  | some _ => s.setCore c { x with l1 := kdel x.l1 t }

/-- Drops a line from the L1 of every core of a die. -/
def State.dropL1Die (s : State) (die t : Nat) : State :=
  { s with cores := kmap (fun c x => if Config.dieOfCore c == die then { x with l1 := kdel x.l1 t } else x) s.cores }

/-- The dirty bytes of an RDC line, by offset. -/
def RdcLine.dirtyBytes (r : RdcLine) : List (Nat × Byte) :=
  ((List.range 128).filter fun i => r.dirty.getLsbD i).map fun i => (i, r.bytes.getD i 0)

/-- Fills the clean bytes of an RDC line from the home; dirty bytes stay (R203). -/
def State.fillRdc (s : State) (die : Nat) (l : Loc) : State :=
  let s := s.tick
  let t := l.line
  let old := kget (s.rdc die) t ⟨[], 0, false, t % 128, 0⟩
  let base := locOfLine t
  s.setRdc die (kput (s.rdc die) t
    { bytes := tab 128 fun i => if old.dirty.getLsbD i then old.bytes.getD i 0 else s.homeByte (base.plus i)
      dirty := old.dirty, full := true, key := t % 128, stamp := s.stamp })

/-- Sets bytes of an RDC line as dirty bytes. -/
def State.putRdc (s : State) (die : Nat) (l : Loc) (bs : List Byte) : State :=
  let t := l.line
  let o := l.off
  let n := bs.length
  let old := kget (s.rdc die) t ⟨[], 0, false, t % 128, s.stamp⟩
  s.setRdc die (kput (s.rdc die) t { old with
    bytes := tab 128 fun i => if o ≤ i && i < o + n then bs.getD (i - o) 0 else old.bytes.getD i 0
    dirty := old.dirty ||| (BitVec.ofNat 128 ((2 ^ n - 1) * 2 ^ o)) })

/-- Bytes of an RDC line change with their home's, where the die holds the line. -/
def State.updateRdc (s : State) (die t : Nat) (ws : List (Nat × Byte)) : State :=
  match kget? (s.rdc die) t with
  | none => s
  | some old => s.setRdc die (kput (s.rdc die) t { old with bytes := ws.foldl (fun bs e => lset bs e.1 e.2) old.bytes })

/-- The bytes [off, off + n) of an RDC line, where the line holds them. -/
def State.rdcServe (s : State) (die : Nat) (l : Loc) (n : Nat) : Option (List Byte) :=
  match kget? (s.rdc die) l.line with
  | none => none
  | some r =>
    let allDirty := (List.range n).all fun i => r.dirty.getLsbD (l.off + i)
    if allDirty || r.full then some ((r.bytes.drop l.off).take n) else none

/-- The 16-byte units of an RDC line whose dirty bytes cannot be corrected (R403). -/
def State.rdcBad (s : State) (die t : Nat) (dirty : W128) : List Nat :=
  if s.bad.isEmpty then []
  else (List.range 8).filter fun j => s.isBad (3, die, t * 8 + j) && dirty.extractLsb' (16 * j) 16 != 0

/-- The units of an RDC line are no longer marked as damaged. -/
def State.clearRdcBad (s : State) (die t : Nat) : State :=
  if s.bad.isEmpty then s else { s with bad := s.bad.filter fun u => !(u.1 == 3 && u.2.1 == die && u.2.2 / 8 == t) }

/-- R406: what a write-back of a damaged unit leaves at the home: a unit that every later read finds damaged. The host
log is told (R404). -/
def State.poison (s : State) (t : Nat) (j : Nat) : State :=
  let mark (s : State) (u : Nat × Nat × Nat) (pa : Nat) : State :=
    { s with bad := u :: s.bad.filter (· != u) }.hostError 0xFF 0xFF 0xFFFF (BitVec.ofNat 32 0x103) (BitVec.ofNat 32 pa)
  match locOfLine t with
  | .own pa _ => mark s (2, 0, t * 8 + j) (pa + 16 * j)
  | .host h => mark s (0x10, 0, (h + 16 * j) / 64) (h + 16 * j)
  | .peer dev pa => mark s (0x11, dev, pa / 16 + j) (pa + 16 * j)

/-- The dirty bytes of an RDC line that its write-back carries: those of sound units (R406). -/
def State.soundBytes (s : State) (die t : Nat) (r : RdcLine) : List (Nat × Byte) :=
  let hurt := s.rdcBad die t r.dirty
  r.dirtyBytes.filter fun e => !hurt.contains (e.1 / 16)

/-- The dirty bytes of an RDC line reach its home: `ws` are those that the write-back carries, and damaged units are marked
there. Bytes written since stay dirty. -/
def State.writtenBack (s : State) (die t : Nat) (ws : List (Nat × Byte)) : State :=
  match kget? (s.rdc die) t with
  | none => s
  | some r =>
    let hurt := s.rdcBad die t r.dirty
    let gone : W128 := ws.foldl (fun m e => if r.bytes.getD e.1 0 = e.2 then m ||| (1#128 <<< e.1) else m) 0
    let lost : W128 := hurt.foldl (fun m j => m ||| (0xFFFF#128 <<< (16 * j))) 0
    let s := s.setRdc die (kput (s.rdc die) t { r with dirty := r.dirty &&& ~~~(gone ||| lost), full := r.full && hurt.isEmpty })
    hurt.foldl (fun s j => s.poison t j) (s.clearRdcBad die t)

/-- Writes the dirty bytes of an RDC line back at its home. -/
def State.writeBackRdc (s : State) (die t : Nat) : State :=
  match kget? (s.rdc die) t with
  | none => s
  | some r =>
    let ws := s.soundBytes die t r
    (s.putHomeAt (locOfLine t) ws).writtenBack die t ws

/-- Drops an RDC line, its dirty bytes included. -/
def State.dropRdc (s : State) (die t : Nat) : State := (s.clearRdcBad die t).setRdc die (kdel (s.rdc die) t)

/-- Drops the clean bytes that an RDC holds of the lines that pass a test. -/
def State.dropClean (s : State) (die : Nat) (p : Nat → Bool) : State :=
  s.setRdc die ((s.rdc die).filterMap fun e =>
    if !p e.1 then some e else if e.2.dirty = 0 then none else some (e.1, { e.2 with full := false }))

/-- R212: an acquire at a scope by a warp of a core has been performed: the copies that it names go. DEDUCED,
notes/assumptions/141.md: the core's L1 holds none for its other warps either, so that a later release carries what the
acquire gained (R208, R210). -/
def State.acquire (s : State) (core : Nat) (sc : Scope) : State :=
  let die := Config.dieOfCore core
  let bare : State := if (s.core core).l1.isEmpty then s else s.setCore core { s.core core with l1 := [] }
  match sc with
  | .core => s
  | .die => bare
  | .device => bare.dropClean die fun t => (locOfLine t).reach die == .sibling
  | .system => bare.dropClean die fun t => (locOfLine t).reach die != .ownDie

/-- What a read of global memory answers. -/
inductive ReadRes where
  | val (s : State) (bytes : List Byte)
  /-- The line must come from another device. -/
  | remote
  | bad (kind : Nat)

/-- R66, R203: plain accesses are served as at core scope. -/
def effScope (ord : Ord) (sc : Scope) : Scope := match ord with | .plain => .core | .rlx | .acq | .rel | .acqrel => sc

/-- Bytes [off, off + n) of an RDC line include a damaged dirty unit (R403). -/
def State.rdcHurt (s : State) (die : Nat) (l : Loc) (n : Nat) : Bool :=
  let hurt := s.rdcBad die l.line ((kget? (s.rdc die) l.line).elim 0 (·.dirty))
  (List.range n).any fun i => hurt.contains ((l.off + i) / 16)

/-- The storage kind of a damaged unit that a read of n bytes at the home meets, under the dirty bytes of a die's RDC. -/
def State.readBad (s : State) (die : Nat) (l : Loc) (n : Nat) : Option Nat :=
  if s.bad.isEmpty then none
  else if s.rdcHurt die l n then some 3
  else
    let dirty := (kget? (s.rdc die) l.line).elim 0 (·.dirty)
    (List.range n).findSome? fun i => if dirty.getLsbD (l.off + i) then none else s.homeBad (l.plus i) 1

/-- Serves a read at the home of this package or of the host and refreshes the copies (R203). A line that holds a unit
which cannot be corrected is not cached, so that a later read of that unit finds it (R403, R406). -/
def readAtHome (s : State) (core die : Nat) (l : Loc) (n : Nat) : ReadRes :=
  let t := l.line
  let base := locOfLine t
  match s.readBad die l n with
  | some k => .bad k
  | none =>
    if (s.readBad die base 128).isSome then
      let old := kget (s.rdc die) t ⟨[], 0, false, 0, 0⟩
      .val ((s.dropClean die (· == t)).dropL1 core t)
        (tab n fun i => if old.dirty.getLsbD (l.off + i) then old.bytes.getD (l.off + i) 0 else s.homeByte (l.plus i))
    else
      match l.reach die with
      | .ownDie =>
        let s := s.tick
        let line := s.homeBytes base 128
        .val (s.fillL1 core t line s.stamp) ((line.drop l.off).take n)
      | .sibling | .fabric =>
        let s := s.fillRdc die l
        let r := kget (s.rdc die) t ⟨[], 0, false, 0, 0⟩
        .val (s.fillL1 core t r.bytes r.stamp) ((r.bytes.drop l.off).take n)

/-- A load served by its die's RDC leaves that copy in the core's L1, with the age it has; bytes that the RDC holds alone
leave none (R203, R370). -/
def State.copyToL1 (s : State) (core die t : Nat) : State :=
  match kget? (s.rdc die) t with
  | none => s.dropL1 core t
  | some r => if r.full && (s.rdcBad die t r.dirty).isEmpty then s.fillL1 core t r.bytes r.stamp else s.dropL1 core t

/-- R203: a load of n bytes by a warp on a core. A load of another device's line at system scope is always served at that
device. -/
def readGlobal (s : State) (w : Warp) (l : Loc) (n : Nat) (sc : Scope) : ReadRes :=
  let die := Config.dieOfCore w.core
  let t := l.line
  let home : ReadRes := match l with | .peer _ _ => .remote | .own _ _ | .host _ => readAtHome s w.core die l n
  let viaRdc : ReadRes :=
    match s.rdcServe die l n with
    | some bs => if s.rdcHurt die l n then .bad 3 else .val (s.copyToL1 w.core die t) bs
    | none => home
  match sc, l.reach die with
  | .core, r =>
    match kget? (s.core w.core).l1 t, r with
    | some x, _ => .val s ((x.bytes.drop l.off).take n)
    | none, .ownDie => home
    | none, .sibling | none, .fabric => viaRdc
  | _, .ownDie => home
  | .die, .sibling | .die, .fabric | .device, .fabric => viaRdc
  | .device, .sibling | .system, .sibling | .system, .fabric => home

/-- R203: is a store of a scope performed at its home (rather than as dirty bytes of the RDC)? -/
def storeAtHome (sc : Scope) (r : Reach) : Bool :=
  match r, sc with
  | .ownDie, _ => true
  | .sibling, .device | .sibling, .system => true
  | .sibling, .core | .sibling, .die => false
  | .fabric, .system => true
  | .fabric, .core | .fabric, .die | .fabric, .device => false

/-- R15: a store passes its core's L1, whose copy of the line takes the new bytes, given by their offsets. -/
def State.throughL1 (s : State) (c t : Nat) (ws : List (Nat × Byte)) : State :=
  let x := s.core c
  match kget? x.l1 t with
  | none => s
  | some old => s.setCore c { x with l1 := kput x.l1 t { old with bytes := ws.foldl (fun bs e => lset bs e.1 e.2) old.bytes } }

/-- The bytes of a store by their offsets in its line. -/
def offBytes (l : Loc) (bs : List Byte) : List (Nat × Byte) := tab bs.length fun i => (l.off + i, bs.getD i 0)

/-- R203, R207: bytes of a line have been written at its home by a store of a core: the copies of the core's L1 and of its
die's RDC take them, but for those that the RDC holds dirty, which are to be written later. -/
def State.storedHome (s : State) (core t : Nat) (ws : List (Nat × Byte)) : State :=
  let die := Config.dieOfCore core
  let dirty := (kget? (s.rdc die) t).elim 0 (·.dirty)
  let ws := ws.filter fun e => !dirty.getLsbD e.1
  (s.throughL1 core t ws).updateRdc die t ws

/-- R203: performs a store whose point of service is in this package or the host. Dirty bytes that the RDC holds in the
line are written back before a store that goes past it to the home, so that the store stays the later one (R207). -/
def storeGlobal (s : State) (core : Nat) (l : Loc) (bs : List Byte) (sc : Scope) : State :=
  let die := Config.dieOfCore core
  let r := l.reach die
  if storeAtHome sc r then
    let s := if r = .ownDie then s else s.writeBackRdc die l.line
    (s.writeHome l bs).storedHome core l.line (offBytes l bs)
  else
    ((s.throughL1 core l.line (offBytes l bs)).putRdc die l bs).mendBad 3 die 16 (l.line * 128 + l.off) bs.length

/-! ## Atomics (R65) -/

def smin (n : Nat) (a b : BitVec n) : BitVec n := if b.slt a then b else a
def smax (n : Nat) (a b : BitVec n) : BitVec n := if a.slt b then b else a

/-- The integer operations of R65 at one width. -/
def aopInt (n : Nat) (op : Aop) (m x x2 : BitVec n) : BitVec n :=
  match op with
  | .add => m + x
  | .min => smin n m x
  | .max => smax n m x
  | .minn => if x.toNat < m.toNat then x else m
  | .maxn => if m.toNat < x.toNat then x else m
  | .and => m &&& x
  | .or => m ||| x
  | .xor => m ^^^ x
  | .exch => x
  | .cas => if m = x then x2 else m
  | .incwrap => if x.toNat ≤ m.toNat then 0 else m + 1
  | .decwrap => if m = 0 || x.toNat < m.toNat then x else m - 1
  | .fadd => BitVec.ofNat n (fpAdd .f32 m.toNat x.toNat).1
  | .fmin => BitVec.ofNat n (fpMin .f32 m.toNat x.toNat).1
  | .fmax => BitVec.ofNat n (fpMax .f32 m.toNat x.toNat).1

/-- R65, R228: the new value of a unit. -/
def aopApply (op : Aop) (sz : Size) (m x x2 : W128) : W128 :=
  match sz with
  | .b64 => (aopInt 64 op (m.extractLsb' 0 64) (x.extractLsb' 0 64) (x2.extractLsb' 0 64)).zeroExtend 128
  | .b128 => aopInt 128 op m x x2
  | .b8 | .b16 | .b32 => (aopInt 32 op (m.extractLsb' 0 32) (x.extractLsb' 0 32) (x2.extractLsb' 0 32)).zeroExtend 128

def w128OfBytes (bs : List Byte) : W128 := BitVec.ofNat 128 (leNat bs)
def w128Words (n : Nat) (x : W128) : List W32 := tab n fun i => x.extractLsb' (32 * i) 32
def w128OfWords (ws : List W32) : W128 := BitVec.ofNat 128 (leNat (wordBytes ws))

/-- R213: before an atomic at a line, the die's RDC writes back and drops its copy; the core's L1 keeps none. -/
def State.clearCopies (s : State) (core t : Nat) : State :=
  let die := Config.dieOfCore core
  (if (locOfLine t).reach die = .ownDie then s else (s.writeBackRdc die t).dropRdc die t).dropL1 core t

/-- R213: an atomic at a home of this package or the host, its line's copies gone. Answers the old value. -/
def atomicAtHome (s : State) (l : Loc) (sz : Size) (op : Aop) (x x2 : W128) : State × W128 :=
  let m := w128OfBytes (s.homeBytes l sz.bytes)
  (s.writeHome l (leBytes sz.bytes (aopApply op sz m x x2).toNat), m)

/-- R219: a DISCARD at a home of this package: the slice's dirty copy goes, and the die's copies of the line. -/
def discardAtHome (s : State) (die : Nat) (l : Loc) : State :=
  let t := l.line
  let s := (s.dropL1Die die t).dropRdc die t
  { s with l2 := kdel s.l2 t }

end Sys2Proof.Machine
end

