-- ==== Sys2Proof/Machine/Translate.lean ====
section
/-! DEFINITION. Translation (R340 to R351, R360 to R362), page requests, lease decisions (R375) and requests to other
devices (R365, R368, R371). -/

namespace Sys2Proof.Machine

/-! ## The walk (R341 to R345) -/

/-- What a walk finds. -/
inductive Walk where
  | leaf (e : TlbEntry)
  /-- V = 0: a translation fault (R349). -/
  | invalid
  | refused (code : W32)
  /-- An uncorrectable table entry, at its physical address (R406). -/
  | bad (pa : Nat)
  deriving DecidableEq, Repr

/-- R341: the low VA bit and the number of index bits of a level. -/
def levelShift : Nat → Nat | 0 => 44 | 1 => 35 | 2 => 30 | 3 => 21 | _ => 16
def levelBits : Nat → Nat | 0 => 13 | 1 => 9 | 2 => 5 | 3 => 9 | _ => 5
/-- log2 of the alignment of the table of a level. -/
def tableAlign : Nat → Nat | 0 => 16 | 1 => 12 | 2 => 8 | 3 => 12 | _ => 8

/-- Bits [hi:lo] of a number. -/
def bits (x hi lo : Nat) : Nat := x / 2 ^ lo % 2 ^ (hi + 1 - lo)

/-- R345: the refusal of a leaf at a level, lowest code first. -/
def leafRefusal (s : State) (c : Context) (level e : Nat) : Option W32 :=
  let size := levelShift level
  let tier := bits e 6 5
  let dev := bits e 61 52
  let frame := bits e 51 16 * 65536
  let key := bits e 14 8
  if bits e 63 62 != 0 || bits e 15 15 != 0 || bits e 7 7 != 0 then some 0x100
  else if level != 0 && frame % 2 ^ size != 0 then some 0x101
  else if (tier < 2 && Config.hbmBytes ≤ frame) || (tier == 2 && (dev == s.devnum.toNat % 1024 || Config.hbmBytes ≤ frame))
      || (2 ≤ tier && key != 0) || (tier == 3 && (frame != 0 || dev != 0)) then some 0x102
  else if !c.keyMask.getLsbD key || (key != 0 && !(kget s.keys key ⟨false, []⟩).loaded) then some 0x103
  else if level == 0 then some 0x104
  else none

/-- R345: the refusal of a non-leaf entry. -/
def nodeRefusal (level e : Nat) : Option W32 :=
  let next := bits e 51 8 * 256
  if bits e 63 52 != 0 || bits e 7 2 != 0 then some 0x100
  else if next % 2 ^ tableAlign (level + 1) != 0 then some 0x101
  else if level == 4 || Config.hbmBytes ≤ next then some 0x104
  else none

/-- R341: the walk from a level, by the levels that remain. -/
def walkGo (s : State) (n : Nat) (c : Context) (va : Nat) : Nat → Nat → Nat → Walk
  | 0, _, _ => .invalid
  | fuel + 1, level, table =>
    let i := va / 2 ^ levelShift level % 2 ^ levelBits level
    let l := Loc.own (table + 8 * i) 0
    match s.homeBad l 8 with
    | some _ => .bad (table + 8 * i)
    | none =>
      let e := leNat (s.homeBytes l 8)
      if e % 2 == 0 then .invalid
      else if e / 2 % 2 == 1 then
        match leafRefusal s c level e with
        | some code => .refused code
        | none =>
          let b := levelShift level
          .leaf { ctx := n, va := va / 2 ^ b * 2 ^ b % 2 ^ 57, size := b, tier := bits e 6 5, dev := bits e 61 52
                  frame := bits e 51 16 * 65536, key := bits e 14 8
                  rd := e.testBit 2, wr := e.testBit 3, ex := e.testBit 4 }
      else
        match nodeRefusal level e with
        | some code => .refused code
        | none => walkGo s n c va fuel (level + 1) (bits e 51 8 * 256)

def walk (s : State) (n : Nat) (c : Context) (va : Nat) : Walk := walkGo s n c (va % 2 ^ 57) 5 0 c.dptRoot

/-! ## TLBs (R347) -/

def TlbEntry.covers (e : TlbEntry) (n va : Nat) : Bool :=
  e.ctx == n && decide (e.va ≤ va % 2 ^ 57) && decide (va % 2 ^ 57 < e.va + 2 ^ e.size)

def State.dieTlb (s : State) (die : Nat) : List TlbEntry := if die = 0 then s.tlb0 else s.tlb1
def State.setDieTlb (s : State) (die : Nat) (t : List TlbEntry) : State :=
  if die = 0 then { s with tlb0 := t } else { s with tlb1 := t }

def State.addDieTlb (s : State) (die : Nat) (e : TlbEntry) : State := s.setDieTlb die ((e :: s.dieTlb die).take 16384)

def State.addCoreTlb (s : State) (core : Option Nat) (e : TlbEntry) : State :=
  match core with
  | none => s
  | some c =>
    let x := s.core c
    if x.tlb.contains e then s else s.setCore c { x with tlb := (e :: x.tlb).take Config.tlbEntries }

def State.tlbFind (s : State) (core : Option Nat) (die n va : Nat) : Option TlbEntry :=
  let inCore := match core with
    | some c => (s.core c).tlb.find? fun e => e.covers n va
    | none => none
  match inCore with
  | some e => some e
  | none => (s.dieTlb die).find? fun e => e.covers n va

/-- R348: does a leaf permit an access? -/
def TlbEntry.permits (e : TlbEntry) : AccessKind → Bool
  | .read | .engineRead => e.rd
  | .write | .engineWrite | .discard => e.wr
  | .atomic => e.rd && e.wr
  | .fetch => e.ex

/-- R348: the TINFO of PROTECT. -/
def AccessKind.code : AccessKind → W32
  | .read => 0 | .write => 1 | .atomic => 2 | .fetch => 3 | .engineRead => 4 | .engineWrite => 5 | .discard => 6

/-! ## Page requests (R349) -/

/-- What a translation answers. -/
inductive Tr where
  /-- The location and the effective tier (R344). -/
  | ok (s : State) (l : Loc) (tier : Nat)
  | wait (s : State)
  | err (s : State) (c : Cause) (info : W32)

def PriReq.carries (r : PriReq) : AccessKind → Bool
  | .read | .engineRead => r.rd
  | .write | .engineWrite | .discard => r.wr
  | .atomic => r.rd && r.wr
  | .fetch => r.ex

def State.triesOf (s : State) (n page : Nat) : Nat :=
  ((s.priTries.find? fun t => t.1 == n && t.2.1 == page).map (·.2.2)).getD 0

def State.clearTries (s : State) (n page : Nat) : State :=
  if s.priTries.isEmpty then s else { s with priTries := s.priTries.filter fun t => !(t.1 == n && t.2.1 == page) }

/-- R349: the fault of an access of context n at va, merged with an outstanding request of its page: an access whose intent
that request carries waits for its response, any other repeats its walk afterwards. `perm` and `past` are as in a request. -/
def pageFault (s : State) (who : Waiter) (n die va : Nat) (kind : AccessKind) (perm : Bool) (past : Nat) : Tr :=
  let page := va / 4096 * 4096
  if ((kget? s.contexts n).map (·.priOff)).getD false then .err s .page 0x0F
  else
    match s.pri.find? fun r => r.2.die == die && r.2.ctx == n && r.2.page == page with
    | some (k, r) =>
      if !r.carries kind || r.perm != perm then .wait s
      else .wait { s with pri := kput s.pri k { r with
        past := max r.past past, waiters := if r.waiters.contains who then r.waiters else r.waiters ++ [who] } }
    | none =>
      if 512 ≤ (s.pri.filter fun r => r.2.die == die).length then .wait s
      else
        let r : PriReq :=
          { die := die, ctx := n, page := page
            rd := kind == .read || kind == .engineRead || kind == .atomic
            wr := kind == .write || kind == .engineWrite || kind == .discard || kind == .atomic
            ex := kind == .fetch, since := s.time.toNat, perm := perm, past := past, waiters := [who] }
        .wait { s with pri := kput s.pri (kfresh s.pri) r }

/-- The refusal that the host's answer left for a waiter and a page (R349), taken once. A refusal of another page is one
whose access was withdrawn. -/
def State.takeDenied (s : State) (who : Waiter) (page : Nat) : Option (State × W32) :=
  match s.priDenied.find? fun d => d.1 == who with
  | some d =>
    if d.2.1 = page then some ({ s with priDenied := s.priDenied.filter fun e => !(e.1 == who) }, d.2.2) else none
  | none => none

/-- R351: the waiter's request for a permission of a page has been answered with Success. -/
def State.granted (s : State) (who : Waiter) (page : Nat) : Bool := s.priGranted.contains (who, page)

def State.dropGrant (s : State) (who : Waiter) : State :=
  if s.priGranted.isEmpty then s else { s with priGranted := s.priGranted.filter fun g => !(g.1 == who) }

/-! ## Leases (R370, R375) -/

/-- R375: what the borrower decides. -/
inductive LeaseDecision where
  | refuse (info : W32)
  | send (reclaiming : Bool)
  | park (rec chunk : Nat)
  | redirect (pa key : Nat)
  deriving DecidableEq, Repr

def leaseDecide (s : State) (n dev pa : Nat) : LeaseDecision :=
  match s.leases.find? fun r => !r.2.lender && r.2.ctx == n && r.2.peer == dev && decide (r.2.lbase ≤ pa)
      && decide (pa < r.2.lbase + r.2.size) with
  | none => .refuse 0
  | some (k, r) =>
    let chunk := (pa - r.lbase) / 2 ^ 21
    let there : LeaseDecision := .redirect (r.fbase + (pa - r.lbase)) r.key
    match r.st with
    | .idle | .offered => .refuse 0
    | .active => .send false
    | .reclaiming => if r.moved.contains chunk then there else if r.stopped then .park k chunk else .send true
    | .demoted => there
    | .ended => .refuse 1
    | .failed => if r.moved.contains chunk then there else .refuse 2

/-- R370: an own-HBM address lies in a range that this device lends. -/
def isLent (s : State) (pa : Nat) : Bool :=
  s.leases.any fun r => r.2.lender && (r.2.st == .active || r.2.st == .reclaiming) && decide (r.2.lbase ≤ pa)
    && decide (pa < r.2.lbase + r.2.size)

/-! ## Translation of one access -/

/-- R376: the borrower reports a chunk as awaited. -/
def State.awaitChunk (s : State) (k chunk : Nat) : State :=
  { s with leases := kmod s.leases k fun r =>
      if r.awaited.contains chunk then r else { r with awaited := r.awaited ++ [chunk] } }

/-- The location of an address under its leaf (R344, R370, R375). -/
def place (s : State) (die n va : Nat) (e : TlbEntry) (kind : AccessKind) : Tr :=
  let off := va % 2 ^ 57 - e.va
  let pa := e.frame + off
  let own (pa key : Nat) : Tr :=
    if isLent s pa then .err s .protect (kind.code + 0x10)
    else .ok s (.own pa key) (if Config.homeDie pa == die then 0 else 1)
  if e.tier < 2 then own pa e.key
  else if e.tier = 2 then
    match leaseDecide s n e.dev pa with
    | .refuse info => .err s .lease info
    | .send _ => .ok s (.peer e.dev pa) 2
    | .park k chunk => .wait (s.awaitChunk k chunk)
    | .redirect fpa key => own fpa key
  else .ok s (.host pa) 3

/-- R351: the ATS request for a page of host memory. -/
def askAts (s : State) (n die va : Nat) (e : TlbEntry) : Tr :=
  match s.ats.find? fun r => r.2.die == die && r.2.ctx == n && r.2.va / 4096 == va / 4096 with
  | some _ => .wait s
  | none => .wait { s with ats := kput s.ats (kfresh s.ats) { die := die, ctx := n, leaf := e, va := va } }

/-- R351: a TIER 3 leaf or completion that lacks a permission: the page is requested, and PROTECT is raised where that
request has been answered with Success. -/
def lacksPermission (s : State) (who : Waiter) (n die va : Nat) (kind : AccessKind) : Tr :=
  if s.granted who (va / 4096 * 4096) then .err (s.dropGrant who) .protect kind.code
  else pageFault s who n die va kind true 0

/-- The warp in whose name a request of its own goes out. -/
def Waiter.warp? : Waiter → Option Nat
  | .lane w _ _ | .store w _ _ | .fetch w | .word w _ => some w
  | _ => Option.none

def State.waiterWarp (s : State) (v : Waiter) : Option Warp := v.warp?.bind (kget? s.warps ·)

/-- R412: the warp number and the core that an error of an access is reported with; `core` is the core that makes it. -/
def State.waiterSource (s : State) (v : Waiter) (core : Option Nat) : Nat × Nat :=
  let w := match v with
    | .commit k _ => kget? s.warps k
    | .copy c k _ => (kget? (s.core c).copies k).bind fun e => kget? s.warps e.warp
    | _ => s.waiterWarp v
  match w, v with
  | some w, .copy c _ _ => (w.num, c)
  | some w, _ => (w.num, w.core)
  | none, _ => (0xFF, core.getD 0xFFFF)

/-- R31, R296: what goes wrong with an access for a launch, but for the reads of its waits, is not reported to the context. -/
def Waiter.quiet : Waiter → Bool
  | .launch _ _ u => decide (2 ^ 40 ≤ u)
  | _ => false

/-- R404: an access meets a unit that cannot be corrected. -/
def State.reportFor (s : State) (who : Waiter) (n num core kind pa : Nat) : State :=
  if who.quiet then s.hostError 0xFF 0xFF 0xFFFF (BitVec.ofNat 32 (0x100 + kind)) (BitVec.ofNat 32 pa)
  else s.reportBad n num core kind pa

/-- R347 to R351: translates one access of context n by a party of a die (on a core, when a core makes it). DESIGN CHOICE,
notes/assumptions/146.md: a TIER 3 leaf that itself lacks RD or W raises PROTECT with no request. -/
def translate (s : State) (who : Waiter) (n : Nat) (core : Option Nat) (die va : Nat) (kind : AccessKind) : Tr :=
  match s.takeDenied who (va / 4096 * 4096) with
  | some (s, info) => .err s .page info
  | none =>
    match kget? s.contexts n with
    | none => .err s .page 0x01
    | some c =>
      if !c.active then .err s .page 0x01
      else
        let (num, at') := s.waiterSource who core
        let bad (pa : Nat) : Tr := .err (s.reportFor who n num at' 1 pa) .dataErr 0x01
        match s.tlbFind core die n va with
        | some e =>
          if e.permits kind && !(e.tier == 3 && kind == .fetch) then
            place ((s.dropGrant who).addCoreTlb core e) die n va e kind
          else if e.tier != 3 || kind == .fetch then .err s .protect kind.code
          else
            match walk s n c va with
            | .leaf l => if l.permits kind then lacksPermission s who n die va kind else .err s .protect kind.code
            | .invalid => pageFault s who n die va kind false 0
            | .refused code => .err s .page code
            | .bad pa => bad pa
        | none =>
          match walk s n c va with
          | .bad pa => bad pa
          | .refused code => .err s .page code
          | .invalid => pageFault s who n die va kind false 0
          | .leaf e =>
            let s := s.clearTries (n + 64 * die) (va / 4096 * 4096)
            if e.tier = 3 then
              if kind == .fetch || !e.permits kind then .err s .protect kind.code else askAts s n die va e
            else
              let s := (s.addDieTlb die e).addCoreTlb core e
              if e.permits kind then place s die n va e kind else .err s .protect kind.code

/-- R349, R351: an access would meet a recoverable translation fault, and not only wait for a translation or a lease. -/
def State.faults (s : State) (n : Nat) (core : Option Nat) (die va : Nat) (kind : AccessKind) : Bool :=
  (kget? s.contexts n).any fun c =>
    match s.tlbFind core die n va with
    | some e => !e.permits kind && e.tier == 3 && kind != .fetch && match walk s n c va with
      | .leaf l => l.permits kind
      | .invalid => true
      | .refused _ | .bad _ => false
    | none => match walk s n c va with
      | .invalid => true
      | .leaf _ | .refused _ | .bad _ => false

/-! ## Private memory (R360 to R362) -/

/-- R361: is a lane's address in its context's private window? -/
def inWindow (c : Context) (a : Nat) : Bool :=
  c.nPriv != 0 && decide (c.pBase ≤ a) && decide (a < c.pBase + 2 ^ c.pMaxLog2)

/-- R361: the backing address of lane l of the warp with private index W. -/
def backing (c : Context) (w l a : Nat) : Nat := c.pBack + (32 * w + l) * 2 ^ c.pMaxLog2 + (a - c.pBase)

/-- The translation of a lane's global access of n bytes, private window included. -/
def translateLane (s : State) (who : Waiter) (n : Nat) (w : Warp) (l a size : Nat) (kind : AccessKind) : Tr :=
  let die := Config.dieOfCore w.core
  match kget? s.contexts n with
  | none => .err s .page 0x01
  | some c =>
    if inWindow c a then
      if c.hwm < a - c.pBase + size then
        match s.takeDenied who (a / 4096 * 4096) with
        | some (s, info) => .err s .page info
        | none => pageFault s who n die a kind false (a - c.pBase + size)
      else translate s who n (some w.core) die (backing c w.privIndex l a) kind
    else translate s who n (some w.core) die a kind

/-! ## Requests to other devices (R365, R368, R371) -/

/-- R365: the fold of a physical address. -/
def fold (pa : Nat) : Nat :=
  let f := bits pa 27 7
  (bits f 3 0) ^^^ (bits f 7 4) ^^^ (bits f 11 8) ^^^ (bits f 15 12) ^^^ (bits f 19 16) ^^^ (bits f 20 20)

inductive FabRes where
  | wait (s : State)
  | done (s : State) (bytes : List Byte)
  | err (s : State) (t : TrapReq)

/-- The request of a waiter for some work in a line. -/
def State.fabFind (s : State) (who : Waiter) (dev pa : Nat) (op : FabOp) : Option (Nat × FabReq) :=
  s.fab.find? fun r => r.2.who == who && r.2.dev == dev && r.2.pa / 128 == pa / 128 && r.2.op == op

/-- Sends a request. The fold of its address names its plane; a fold that is being moved holds new requests (R368). -/
def fabSend (s : State) (who : Waiter) (die dev pa va : Nat) (op : FabOp) : State :=
  let f := fold pa
  if s.planeDrain.getD f false then s
  else
    let s := s.tick
    let r : FabReq :=
      { who := who, die := die, dev := dev, pa := pa, va := va, op := op, port := s.planePort.getD f 0
        since := s.time.toNat, tmo := s.fabricTimeout, order := s.stamp, answer := none }
    { s with fab := kput s.fab (kfresh s.fab) r }

/-- What an accepted request answers; the request stays until its instruction has taken the answer for all its lanes. -/
def FabReq.result (r : FabReq) (s : State) : FabRes :=
  match r.answer with
  | none => .wait s
  | some (.inl t) => .err s t
  | some (.inr bs) => .done s bs

/-- Sends a request once for its waiter and answers what has come. -/
def fabShare (s : State) (who : Waiter) (die dev pa va : Nat) (op : FabOp) : FabRes :=
  match s.fabFind who dev pa op with
  | some (_, r) => r.result s
  | none => .wait (fabSend s who die dev pa va op)

/-- As `fabShare`, for a party that takes the answer at once. -/
def fabAsk (s : State) (who : Waiter) (die dev pa va : Nat) (op : FabOp) : FabRes :=
  match s.fabFind who dev pa op with
  | some (k, r) => r.result (if r.answer.isSome then { s with fab := kdel s.fab k } else s)
  | none => .wait (fabSend s who die dev pa va op)

/-- The answers that an instruction's accesses have taken go. -/
def State.takeAnswers (s : State) (p : Waiter → Bool) : State :=
  if s.fab.isEmpty then s else { s with fab := s.fab.filter fun r => !(p r.2.who && r.2.answer.isSome) }

/-- The requests, page requests and refusals of some waiters are dropped; late answers are discarded. A write, an atomic or
a DISCARD that a port has accepted goes on to its home (R371). -/
def State.dropWaiters (s : State) (p : Waiter → Bool) : State :=
  { s with
    fab := (s.fab.filter fun r => !(p r.2.who && (r.2.op == .read || r.2.answer.isSome))).map fun r =>
      if p r.2.who then (r.1, { r.2 with who := .none }) else r
    pri := kmap (fun _ r => { r with waiters := r.waiters.filter fun w => !p w }) s.pri
    priDenied := s.priDenied.filter fun d => !p d.1
    priGranted := s.priGranted.filter fun g => !p g.1 }

/-- As `dropWaiters`, but what a port has accepted and not yet performed keeps its name. -/
def State.stopWaiters (s : State) (p : Waiter → Bool) : State :=
  { s.dropWaiters p with fab := s.fab.filter fun r => !(p r.2.who && (r.2.op == .read || r.2.answer.isSome)) }

/-- Some write of a waiter has been accepted and not been answered. -/
def State.underWay (s : State) (p : Waiter → Bool) : Bool := s.fab.any fun r => p r.2.who && r.2.op != .read && r.2.answer.isNone

/-- The answers to a waiter's writes are of no use any more. -/
def State.dropAnswers (s : State) (p : Waiter → Bool) : State :=
  { s with fab := s.fab.filter fun r => !(p r.2.who && r.2.op != .read && r.2.answer.isSome) }

/-- The waiter belongs to a word of a warp that is not to be issued as it stood (R386, R427). -/
def Waiter.ofWord (wid : Nat) : Waiter → Bool
  | .word w _ | .fetch w | .commit w _ => w == wid
  | _ => false

/-- The waiter belongs to an entry of an outstanding-copy table. -/
def Waiter.ofCopy (core k : Nat) : Waiter → Bool
  | .copy c j _ => c == core && j == k
  | _ => false

/-- How far the write-backs of a release have come (R212). -/
inductive Flush where
  | done
  | wait
  /-- R411: a write-back has failed. -/
  | fail (t : TrapReq)
  deriving DecidableEq, Repr

/-- R203, R212: writes the dirty bytes of lines of other devices in a die's RDC back. A request goes out for each line
that has none; a failure is told once, and the line stays dirty. It is done when no such line is left. -/
def flushPeers (s : State) (die : Nat) : List Nat → State × Flush
  | [] => (s, .done)
  | t :: ts =>
    let (s, rest) := flushPeers s die ts
    match rest, kget? (s.rdc die) t, locOfLine t with
    | .fail e, _, _ => (s, .fail e)
    | _, some r, .peer dev pa =>
      if r.dirty = 0 then (s, rest)
      else
        match s.fab.find? fun e => e.2.who == .rdc die t with
        | none => (fabSend s (.rdc die t) die dev pa 0 (.write (s.soundBytes die t r)), .wait)
        | some (k, q) => match q.answer with
          | some (.inl e) => ({ s with fab := kdel s.fab k }, .fail e)
          | some (.inr _) | none => (s, .wait)
    | _, _, _ => (s, rest)

/-- The write-backs of a release (R212). -/
def releaseCopies (s : State) (die : Nat) (sc : Scope) : State × Flush :=
  let lines (r : Reach) : List Nat :=
    kwhere (s.rdc die) fun t x => (locOfLine t).reach die == r && x.dirty != 0
  let isPeer (t : Nat) : Bool := match locOfLine t with | .peer _ _ => true | .own _ _ | .host _ => false
  match sc with
  | .core | .die => (s, .done)
  | .device => ((lines .sibling).foldl (fun s t => s.writeBackRdc die t) s, .done)
  | .system =>
    let near := lines .sibling ++ (lines .fabric).filter fun t => !isPeer t
    let s1 := near.foldl (fun s t => s.writeBackRdc die t) s
    flushPeers s1 die ((lines .fabric).filter isPeer)

end Sys2Proof.Machine
end

