-- ==== Sys2Proof/Machine/Ops.lean ====
section
/-! DEFINITION. The shared operations of every instruction word: finding the warp, moving past a word (R41, R86), the
decode causes (R71), taking a trap (R385) and ending a word. -/

namespace Sys2Proof.Machine

/-- The outcome of a step. -/
abbrev Out := Host.Outcome State Fault Refusal

/-! ## The tables of the state -/

def State.warp? (s : State) (k : Nat) : Option Warp := kget? s.warps k
def State.setWarp (s : State) (k : Nat) (w : Warp) : State := { s with warps := kput s.warps k w }
def State.team? (s : State) (k : Nat) : Option Team := kget? s.teams k
def State.setTeam (s : State) (k : Nat) (t : Team) : State := { s with teams := kput s.teams k t }

/-- The context of a warp. -/
def State.ctxOf (s : State) (w : Warp) : Nat := ((s.team? w.team).map (·.ctx)).getD 0

/-- Two values of the device time counter lie in one cycle of a core's clock (R426). -/
def State.sameCycle (s : State) (core t u : Nat) : Bool :=
  let f := kget s.clocks core 1400
  t * f / 1400 == u * f / 1400

/-- The warps of a team, ascending. -/
def State.teamWarps (s : State) (t : Nat) : List Nat := kwhere s.warps fun _ w => w.team == t

/-! ## Causes (R73, R74) -/

def Cause.code : Cause → W32
  | .illegalOp => 0x01 | .role => 0x02 | .regRange => 0x03 | .priv => 0x04 | .align => 0x05 | .vaRange => 0x06
  | .page => 0x07 | .protect => 0x08 | .spadRange => 0x09 | .accRange => 0x0A | .gangClass => 0x0B | .fmt => 0x0C
  | .loop => 0x0D | .queue => 0x0E | .mbar => 0x0F | .task => 0x10 | .taskCap => 0x11 | .set => 0x12
  | .dataErr => 0x13 | .fabric => 0x14 | .lease => 0x15 | .teamStall => 0x16 | .soft => 0x17 | .brk => 0x18
  | .double => 0x19

/-- The step of R74 at which a cause is reported. -/
def Cause.rank : Cause → Nat
  | .illegalOp | .role | .regRange | .priv => 1
  | .align => 2
  | .vaRange => 3
  | .spadRange | .accRange => 4
  | .fmt | .loop | .queue | .mbar | .task | .taskCap | .set | .gangClass | .brk => 5
  | .page | .protect | .dataErr | .fabric | .lease | .teamStall | .soft | .double => 6

/-- TLANES of a warp word (R53). -/
def allLanes : LaneMask := BitVec.allOnes 32

/-- A cause of a warp word. -/
def warpTrap (c : Cause) (addr : Nat) (info : W32) : TrapReq := ⟨c, addr, allLanes, info⟩

/-! ## Taking a trap (R384, R385, R398) -/

/-- R398: stops every warp of a team; its pre-emption saves it and posts the TRAP event. -/
def halt (s : State) (tid : Nat) (w : Warp) : State :=
  match s.team? tid with
  | none => s
  | some t => s.setTeam tid { t with halted := some w.num }

/-- R392: the trap registers that a delivery writes hold no parity error; DOUBLE leaves TPC as it is. -/
def Warp.soundTraps (w : Warp) (pc : Bool) : List (Nat × Nat × Nat) :=
  w.badRegs.filter fun u => !(u.1 == 4 && decide (0x30 ≤ u.2.1) && decide (u.2.1 ≤ 0x34) && (pc || u.2.1 != 0x31))

/-- R53, R73, R384: the trap state of a delivered cause. -/
def Warp.trapState (w : Warp) (t : TrapReq) (pc : Nat) (act : LaneMask) : Warp :=
  { w with tcause := t.cause.code, tpc := BitVec.ofNat 64 pc, t0 := BitVec.ofNat 64 pc, tact := act
           taddr := BitVec.ofNat 64 t.addr, tlanes := t.lanes, tinfo := t.info
           badRegs := w.soundTraps true }

/-- R385: entering handler mode. -/
def Warp.enterHandler (w : Warp) (thand : Nat) : Warp :=
  { w with inh := true, hq := 0, hloops := [], hpc := thand, hseq := w.seq, badRegs := w.badRegs.filter fun u => u.1 != 5 }

/-- R386: what a warp's wait has counted is taken back: a BAR arrival, a RACQ request. -/
def withdraw (s : State) (w : Warp) : State :=
  match w.wait, s.team? w.team with
  | some x, some t =>
    match x.kind with
    | .bar b => s.setTeam w.team { t with bars := kmod t.bars b fun y => { y with arr := y.arr - 1 } }
    | .racq => s.setTeam w.team { t with parked := false }
    | _ => s
  | _, _ => s

/-- R403: the register, as `badRegs` names it, of a unit of kind 0x08 or 0x09. Vector registers are counted as register ×
32 + lane; of kind 0x09, index n < 64 is a scalar register, 64 + n a predicate, 72 + n a uniform predicate, 80 + n one of
the handler bank's uniform predicates, 128 + n a special register. -/
def regOfUnit (kind index : Nat) : Nat × Nat × Nat :=
  if kind = 8 then (0, index / 32, index % 32)
  else if index < 64 then (1, index, 0) else if index < 72 then (2, index - 64, 0) else if index < 80 then (3, index - 72, 0)
  else if index < 128 then (5, index - 80, 0) else (4, index - 128, 0)

/-- R385: taking a trap. `pc` and `act` are TPC and TACT as R384 gives them. A wait of the warp is withdrawn (R386), with
the requests that its word or its fetch has made. -/
def deliver (s0 : State) (wid : Nat) (w : Warp) (t : TrapReq) (pc : Nat) (act : LaneMask) : State :=
  let s := (withdraw s0 w).dropWaiters (Waiter.ofWord wid)
  let w := { w with wait := none }
  if w.inh then
    let w := { w with tcause := Cause.double.code, dcause := t.cause.code, taddr := BitVec.ofNat 64 t.addr
                      tlanes := t.lanes, tinfo := t.info, badRegs := w.soundTraps false }
    halt (s.setWarp wid w) w.team w
  else
    let thand := ((kget? s.contexts (s.ctxOf w)).map (·.thand)).getD 0
    let w := w.trapState t pc act
    if thand = 0 then halt (s.setWarp wid w) w.team w
    else s.setWarp wid (w.enterHandler thand)

/-! ## Moving past a word (R41, R86) -/

/-- R86: the end test of the innermost records that end at an address, for the lanes that fell through to it. -/
def loopTest (act : LaneMask) (addr : Nat) : List LoopRec → Warp → Warp
  | [], w => { w with loops := [] }
  | r :: rs, w =>
    if r.exitAddr = addr then
      let d := rs.length
      let c := kget w.lc d 0
      if c.toNat ≤ 1 then loopTest act addr rs { w with lc := kput w.lc d 0 }
      else { w with loops := r :: rs, lc := kput w.lc d (c - 1), vpc := (w.moveLanes act fun _ => r.start).vpc }
    else { w with loops := r :: rs }

/-- R86, R388: the end test on the handler bank's records. -/
def handlerLoopTest (addr : Nat) : List LoopRec → Warp → Warp
  | [], w => { w with hloops := [] }
  | r :: rs, w =>
    if r.exitAddr = addr then
      if r.count.toNat ≤ 1 then handlerLoopTest addr rs w
      else { w with hloops := { r with count := r.count - 1 } :: rs, hpc := r.start }
    else { w with hloops := r :: rs }

/-- The active lanes fall through to an address (R41), HPC does in handler mode (R388); then the end test (R86). DESIGN
CHOICE, notes/assumptions/119.md: an address past the top, or past a canonical edge, wraps in 57 bits, as vpc has 57 bits. -/
def Warp.fallTo (w : Warp) (act : LaneMask) (addr : Nat) : Warp :=
  if w.inh then handlerLoopTest addr w.hloops { w with hpc := addr }
  else loopTest act addr w.loops (w.moveLanes act fun _ => addr)

/-- The active lanes, or HPC, take a target (R78, R388). -/
def Warp.jumpTo (w : Warp) (act : LaneMask) (addr : Nat) : Warp :=
  if w.inh then { w with hpc := addr } else w.moveLanes act fun _ => addr

/-- R43: the word at the issue address has not issued after all, so no open window counts it. -/
def Warp.uncount (w : Warp) : Warp :=
  if w.inh || !w.counted then w
  else { w with
    counted := false
    windows := w.windows.map fun x => if x.closed || x.handler then x else { x with count := x.count - 1 } }

/-- A word that the warp held completes: its lanes go on past it. -/
def Warp.release (w : Warp) (x : Wait) : Warp :=
  { w.fallTo x.act (x.pc + x.word.len) with wait := none, counted := w.inh && w.counted }

/-! ## Words -/

/-- What the body of a word answers. -/
inductive Res where
  /-- The effect took place; the active lanes go on past the word. -/
  | done (s : State) (w : Warp)
  /-- The effect took place, moves of the lanes included, or the warp waits at the word. -/
  | moved (s : State) (w : Warp)
  | trap (t : TrapReq)
  /-- A trap together with effects that stand: those of older accesses, and of window closes, on the state and the warp. -/
  | trapIn (s : State) (w : Warp) (t : TrapReq)
  | stop (f : Fault)

/-- R71, steps 2 to 4: ROLE, REG_RANGE, PRIV. -/
def decodeCause (roleOk privOk : Bool) (vgroups sgroups : List (Nat × Nat)) (vregs : Nat) : Option Cause :=
  if !roleOk then some .role
  else if vgroups.any (fun g => decide (vregs < g.1 + g.2)) || sgroups.any (fun g => decide (64 < g.1 + g.2)) then some .regRange
  else if !privOk then some .priv
  else none

/-- R86: words that may not end a loop. -/
def neverEndsLoop : Instr → Bool
  | .lbra _ _ | .lbrx _ _ | .bra _ _ | .brx _ _ _ _ | .call _ _ | .ret _ | .lbreak _ _ | .loop _ _ _ | .loopi _ _ _
  | .exit _ | .lexit _ | .join _ _ | .trap _ _ | .tret _ => true
  | _ => false

/-- R86: the word ends the innermost loop and breaks one of the two rules. DESIGN CHOICE, notes/assumptions/121.md: the rule
about active lanes and LIVE is for the interrupted code's loops; a handler runs from HPC, not from its lanes' vpcs (R388). -/
def loopFault (w : Warp) (i : Instr) : Bool :=
  let records := if w.inh then w.hloops else w.loops
  match records with
  | [] => false
  | r :: _ =>
    r.exitAddr == w.issueAddr + i.len
      && (neverEndsLoop i || (w.role == .epilogue && !w.inh && w.active != w.live))

/-- The LOOP cause: TINFO is the loop depth (R73). -/
def loopTrap (w : Warp) (lanes : LaneMask) : TrapReq :=
  ⟨.loop, 0, lanes, BitVec.ofNat 32 (if w.inh then w.hloops.length else w.loops.length)⟩

/-- R327: the words that end a warp's prologue. -/
def endsPrologue : Instr → Bool
  | .ld .. | .st .. | .lds .. | .sts .. | .atom .. | .atoms .. | .cst .. | .discard .. | .pref .. | .sld .. | .sst ..
  | .satom .. | .slds .. | .ssts .. | .spref .. | .spclr .. | .spqry .. | .fence .. | .fencea .. | .mbinit .. | .mbexp ..
  | .mbarr .. | .mbwait .. | .xjob .. | .qinit .. | .qpush .. | .qpop .. | .qtry .. | .qclose .. | .qlen .. | .bar ..
  | .gbar .. | .tbegin .. => true
  | _ => false

/-- The warp after it has issued a word (R327). -/
def Warp.issued (w : Warp) (i : Instr) : Warp := if endsPrologue i then { w with prologue := false } else w

/-- Ends a word: its effect, or the trap that R74 picks. -/
def finish (s : State) (w : Warp) (i : Instr) (lanes : LaneMask) (r : Res) : Out :=
  let pc := w.issueAddr
  let act := w.active
  let bad := loopFault w i
  match r with
  | .done s' w' =>
    if bad then .next (deliver s s.cur w (loopTrap w lanes) pc act)
    else .next (s'.setWarp s'.cur { (w'.issued i).fallTo act (pc + i.len) with wait := none, counted := w.inh && w.counted })
  | .moved s' w' =>
    if bad then .next (deliver s s.cur w (loopTrap w lanes) pc act)
    else .next (s'.setWarp s'.cur { w'.issued i with counted := if w.inh then w'.counted else w'.wait.isSome })
  | .trap t =>
    .next (deliver s s.cur w (if bad && decide (4 < t.cause.rank) then loopTrap w lanes else t) pc act)
  | .trapIn s' w' t => if bad && decide (4 < t.cause.rank) then .next (deliver s s.cur w (loopTrap w lanes) pc act)
    else .next (deliver s' s'.cur w' t pc act)
  | .stop f => .fault f

/-- The word may be issued in handler mode or not. -/
def anyMode (_ : Warp) : Bool := true
/-- R389: PRIV in handler mode. -/
def notInHandler (w : Warp) : Bool := !w.inh

/-- PRIV outside handler mode (R91, R393). -/
def onlyInHandler (w : Warp) : Bool := w.inh

/-- A lane word (R25, R26, R71, R139): decode causes, then its body on the executing set. `privOk` is the mode rule of
R92 and R389. -/
def laneOp (i : Instr) (h : LaneHdr) (groups : List (Nat × Nat)) (privOk : Warp → Bool) (s : State)
    (body : Warp → LaneMask → Res) : Out :=
  match s.warp? s.cur with
  | none => .fault .noWarp
  | some w =>
    match decodeCause (w.role == .epilogue) (privOk w) groups [] w.vregs with
    | some c => .next (deliver s s.cur w ⟨c, 0, w.active, firstWord i⟩ w.issueAddr w.active)
    | none => finish s w i (w.exec h) (body w (w.exec h))

/-- A role class of warp words (R70): class A is open to every role. -/
def classOk (cls : Option Role) (r : Role) : Bool := match cls with | none => true | some c => c == r

/-- A warp word: decode causes, then its body when the uniform guard is true; otherwise nothing. -/
def warpOp (i : Instr) (h : WarpHdr) (cls : Option Role) (groups : List (Nat × Nat)) (privOk : Warp → Bool) (s : State)
    (body : Warp → Res) : Out :=
  match s.warp? s.cur with
  | none => .fault .noWarp
  | some w =>
    match decodeCause (classOk cls w.role) (privOk w) [] groups w.vregs with
    | some c => .next (deliver s s.cur w (warpTrap c 0 (firstWord i)) w.issueAddr w.active)
    | none => finish s w i allLanes (if w.qGuard h then body w else .done s w)

/-- A whole-warp wait at the word (R301). A word that waits again keeps the order and the time of its first wait. -/
def hold (s : State) (w : Warp) (k : WaitKind) (i : Instr) : Res :=
  if w.wait.any fun x => x.kind == k then .moved s w
  else .moved s.tick { w with wait := some ⟨k, i, w.issueAddr, w.active, s.stamp, s.time.toNat⟩ }

/-! ## Shapes of the arithmetic words (R139, R168) -/

/-- vd from va. -/
def lane1 (i : Instr) (h : LaneHdr) (vd va : Reg) (f : W32 → W32 × Fl) (s : State) : Out :=
  laneOp i h [(vd.toNat, 1), (va.toNat, 1)] notInHandler s fun w x =>
    let r l := f (w.vr l va.toNat)
    .done s ((w.setV vd.toNat x fun l => (r l).1).orFlags (flagsOver x fun l => (r l).2))

/-- vd from va and vb. -/
def lane2 (i : Instr) (h : LaneHdr) (vd va vb : Reg) (f : W32 → W32 → W32 × Fl) (s : State) : Out :=
  laneOp i h [(vd.toNat, 1), (va.toNat, 1), (vb.toNat, 1)] notInHandler s fun w x =>
    let r l := f (w.vr l va.toNat) (w.vr l vb.toNat)
    .done s ((w.setV vd.toNat x fun l => (r l).1).orFlags (flagsOver x fun l => (r l).2))

/-- vd from va, vb and vc. -/
def lane3 (i : Instr) (h : LaneHdr) (vd va vb vc : Reg) (f : W32 → W32 → W32 → W32 × Fl) (s : State) : Out :=
  laneOp i h [(vd.toNat, 1), (va.toNat, 1), (vb.toNat, 1), (vc.toNat, 1)] notInHandler s fun w x =>
    let r l := f (w.vr l va.toNat) (w.vr l vb.toNat) (w.vr l vc.toNat)
    .done s ((w.setV vd.toNat x fun l => (r l).1).orFlags (flagsOver x fun l => (r l).2))

/-- The pair vd:vd+1 from the pairs at va and vb. -/
def lane64 (i : Instr) (h : LaneHdr) (vd va vb : Reg) (f : W64 → W64 → W64) (s : State) : Out :=
  laneOp i h [(vd.toNat, 2), (va.toNat, 2), (vb.toNat, 2)] notInHandler s fun w x =>
    .done s (w.setV64 vd.toNat x fun l => f (w.vr64 l va.toNat) (w.vr64 l vb.toNat))

/-- sd from sa. -/
def scalar1 (i : Instr) (h : WarpHdr) (sd sa : Reg) (f : W32 → W32 × Fl) (s : State) : Out :=
  warpOp i h none [] anyMode s fun w =>
    let r := f (w.sr sa.toNat)
    .done s ((w.setS sd.toNat r.1).orFlags r.2)

/-- sd from sa and sb. -/
def scalar2 (i : Instr) (h : WarpHdr) (sd sa sb : Reg) (f : W32 → W32 → W32 × Fl) (s : State) : Out :=
  warpOp i h none [] anyMode s fun w =>
    let r := f (w.sr sa.toNat) (w.sr sb.toNat)
    .done s ((w.setS sd.toNat r.1).orFlags r.2)

/-- The pair sd:sd+1 from the pairs at sa and sb. -/
def scalar64 (i : Instr) (h : WarpHdr) (sd sa sb : Reg) (f : W64 → W64 → W64) (s : State) : Out :=
  warpOp i h none [(sd.toNat, 2), (sa.toNat, 2), (sb.toNat, 2)] anyMode s fun w =>
    .done s (w.setS64 sd.toNat (f (w.sr64 sa.toNat) (w.sr64 sb.toNat)))

/-! ## Free values -/

/-- The next undefined value of a width, and the state that has taken it. -/
def State.free (s : State) (n : Nat) : State × BitVec n :=
  ({ s with freeCtr := s.freeCtr + 1 }, BitVec.ofNat n (Config.freeValue s.freeCtr))

end Sys2Proof.Machine
end

