-- ==== Sys2Proof/Machine/Local.lean ====
section
/-! DEFINITION. Memory inside a core: scratchpad lines with their P and Z bits (R224), pergola storage (R30, R274) and the
orangery (R174 to R176). -/

namespace Sys2Proof.Machine

/-! ## Scratchpad -/

def emptySpad : Spad := ⟨[], [], []⟩

def Team.spad (t : Team) (part : Nat) : Spad := kget t.spads part emptySpad
def Team.setSpad (t : Team) (part : Nat) (x : Spad) : Team := { t with spads := kput t.spads part x }

/-- P of a line (R224). -/
def Spad.present (x : Spad) (line : Nat) : Bool := !x.absent.contains line
/-- Z of a line (R224). -/
def Spad.zero (x : Spad) (line : Nat) : Bool := !x.written.contains line

def Spad.read (x : Spad) (a n : Nat) : List Byte := tab n fun i => mget x.cells (a + i)

/-- Adds a number to a list without repeats. -/
def addNum (l : List Nat) (n : Nat) : List Nat := if l.contains n then l else n :: l

/-- The lines of 128 bytes that [a, a + n) touches. -/
def linesOf (a n : Nat) : List Nat := if n = 0 then [] else tab ((a + n - 1) / 128 + 1 - a / 128) fun i => a / 128 + i

/-- Writes bytes; every line written has Z = 0 from then on (R224). -/
def Spad.write (x : Spad) (a : Nat) (bs : List Byte) : Spad :=
  { x with
    cells := (List.range bs.length).foldl (fun m i => mput m (a + i) (bs.getD i 0)) x.cells
    written := (linesOf a bs.length).foldl addNum x.written }

/-- Sets Z on a line. -/
def Spad.clearLine (x : Spad) (line : Nat) : Spad :=
  { x with cells := x.cells.filter fun c => c.1 / 128 != line, written := x.written.filter (· != line) }

/-- Sets P of a line to 0 or 1. -/
def Spad.dropP (x : Spad) (line : Nat) : Spad := { x with absent := addNum x.absent line }
def Spad.raiseP (x : Spad) (line : Nat) : Spad := { x with absent := x.absent.filter (· != line) }

/-- All lines that [a, a + n) touches are present. -/
def Spad.allPresent (x : Spad) (a n : Nat) : Bool := (linesOf a n).all x.present

/-! ## Pergola storage (R30, R274) -/

/-- A pergola declaration is valid. -/
def pergValid (d : W16) : Bool := d.getLsbD 15
/-- Declared depth. -/
def pergDepth (d : W16) : Nat := (d.extractLsb' 0 6).toNat + 1
/-- Bytes of a pergola's storage. -/
def pergSize (d : W16) : Nat := if pergValid d then ceilDiv (128 + 8 * pergDepth d) 128 * 128 else 0

/-- Bytes of all pergola storage of a descriptor. -/
def Desc.pergTotal (d : Desc) : Nat := lsum (d.perg.map pergSize)

/-- The first byte of pergola n's storage. -/
def Desc.pergBase (d : Desc) (n : Nat) : Nat := d.spro - lsum ((d.perg.take (n + 1)).map pergSize)

/-- The bytes [a, a + n) touch pergola storage. -/
def Desc.inPergola (d : Desc) (a n : Nat) : Bool :=
  decide (a < d.spro) && decide (d.spro - d.pergTotal < a + n) && d.pergTotal != 0 && n != 0

/-- Z of a line of a team's scratchpad (R224): the header of a pergola has been written at admission (R276). -/
def Team.lineZ (t : Team) (part line : Nat) : Bool :=
  (t.spad part).zero line && !(part == 0 && (List.range 16).any fun q =>
    pergValid (t.desc.perg.getD q 0) && t.desc.pergBase q / 128 == line)

/-- R222 step 3: SPAD_RANGE. -/
def Team.spadBad (t : Team) (a : Int) (n : Nat) : Bool :=
  decide (a < 0) || decide ((t.allot : Int) < a + n) || t.desc.inPergola a.toNat n

/-! ## Orangery (R174 to R176) -/

def Team.orang (t : Team) (part w : Nat) : List Host.Cell := kget t.orangs (2 * part + w) []
def Team.setOrang (t : Team) (part w : Nat) (m : List Host.Cell) : Team := { t with orangs := kput t.orangs (2 * part + w) m }

/-- R176: W and OFFSET of an orangery address. -/
def orangWarp (a : Nat) : Nat := a / 2 ^ 18 % 2
def orangOff (a : Nat) : Nat := a % 2 ^ 18

/-- R176: the access is out of range. -/
def Team.orangBad (t : Team) (a : Int) (n : Nat) : Bool :=
  decide (a < 0) || decide ((2 : Int) ^ 19 ≤ a) || decide (t.desc.nmaths ≤ orangWarp a.toNat)
    || decide (t.desc.orang < orangOff a.toNat + n)

def readCells (m : List Host.Cell) (a n : Nat) : List Byte := tab n fun i => mget m (a + i)
def writeCells (m : List Host.Cell) (a : Nat) (bs : List Byte) : List Host.Cell :=
  (List.range bs.length).foldl (fun m i => mput m (a + i) (bs.getD i 0)) m

/-! ## Uncorrectable units (R403): a unit's number holds its team -/

def unitNum (tid a : Nat) : Nat := tid * 2 ^ 16 + a / 16

/-- A read of bytes of a team's scratchpad meets a unit that cannot be corrected (R403). A line with Z = 1 reads as zero,
whatever the array holds (R224). -/
def State.spadDamaged (s : State) (sp : Spad) (core tid a n : Nat) : Bool :=
  !s.bad.isEmpty && (List.range n).any fun i => !sp.zero ((a + i) / 128) && s.isBad (5, core, unitNum tid (a + i))
def State.orangDamaged (s : State) (core tid a n : Nat) : Bool :=
  !s.bad.isEmpty && (List.range n).any fun i => s.isBad (6, core, unitNum tid (a + i))

/-! ## Storage of a warp's team -/

/-- Changes the scratchpad of a team on a part. -/
def State.modSpad (s : State) (tid part : Nat) (f : Spad → Spad) : State :=
  match s.team? tid with
  | none => s
  | some t => s.setTeam tid (t.setSpad part (f (t.spad part)))

/-- The units of a line of a scratchpad become sound: every byte of it has been written (R407). -/
def State.mendLine (s : State) (tid core line : Nat) : State := s.mendBad 5 core 16 (tid * 2 ^ 20 + 128 * line) 128

/-- Writes scratchpad bytes. Whole units become sound (R407); so does a whole line with Z = 1, whose other bytes the first
write sets to zero (R224). -/
def State.writeSpad (s : State) (tid part core a : Nat) (bs : List Byte) : State :=
  let zeros := if s.bad.isEmpty then [] else match s.team? tid with
    | none => []
    | some t => (linesOf a bs.length).filter (t.spad part).zero
  zeros.foldl (fun s line => s.mendLine tid core line)
    ((s.modSpad tid part fun x => x.write a bs).mendBad 5 core 16 (tid * 2 ^ 20 + a) bs.length)

/-- Writes orangery bytes. -/
def State.writeOrang (s : State) (tid part core a : Nat) (bs : List Byte) : State :=
  match s.team? tid with
  | none => s
  | some t =>
    let w := orangWarp a
    (s.setTeam tid (t.setOrang part w (writeCells (t.orang part w) (orangOff a) bs))).mendBad 6 core 16
      (tid * 2 ^ 20 + a) bs.length

end Sys2Proof.Machine
end

