-- ==== Sys2Proof/Machine/Sets.lean ====
section
/-! DEFINITION. Atomic sets (R315, R316), granules, age stamps (R318, R319), task slots and write buffers (R320, R328). -/

namespace Sys2Proof.Machine

/-! ## Sets -/

def SetDecl.holds (d : SetDecl) (a : Nat) : Bool := decide (d.base ≤ a) && decide (a < d.base + d.len)

/-- The set slot of a context in which a byte lies. -/
def Context.setOf (c : Context) (a : Nat) : Option (Nat × SetDecl) := c.sets.find? fun e => e.2.holds a

/-- A number for granule i of set k of context n. -/
def granuleCode (n k i : Nat) : Nat := (n * 16 + k) * 2 ^ 52 + i
def granuleCtx (g : Nat) : Nat := g / 2 ^ 56
def granuleSet (g : Nat) : Nat := g / 2 ^ 52 % 16
def granuleIdx (g : Nat) : Nat := g % 2 ^ 52

/-- The granule of a byte of context n. -/
def State.granuleAt (s : State) (n a : Nat) : Option Nat :=
  match kget? s.contexts n with
  | none => none
  | some c => (c.setOf a).map fun e => granuleCode n e.1 ((a - e.2.base) / 2 ^ e.2.g)

/-- The address of a granule's first byte. -/
def State.granuleBase (s : State) (g : Nat) : Nat :=
  match kget? s.contexts (granuleCtx g) with
  | none => 0
  | some c => match kget? c.sets (granuleSet g) with
    | none => 0
    | some d => d.base + granuleIdx g * 2 ^ d.g

/-- One canonical half of the address space holds [a, a + n) (R222). -/
def inHalf (a n : Nat) : Bool :=
  decide (a + n ≤ 2 ^ 56) || (decide (2 ^ 64 - 2 ^ 56 ≤ a) && decide (a + n ≤ 2 ^ 64))

/-- R315: a declaration for slot k is valid. -/
def SetDecl.valid (d : SetDecl) (sets : KMap SetDecl) (k : Nat) : Bool :=
  decide (8 ≤ d.g) && decide (d.g ≤ 20) && d.base % 2 ^ d.g == 0 && d.len % 2 ^ d.g == 0 && d.len != 0
    && inHalf d.base d.len
    && sets.all fun e => e.1 == k || decide (d.base + d.len ≤ e.2.base) || decide (e.2.base + e.2.len ≤ d.base)

/-! ## Stamps -/

/-- R318. -/
def stampOf (time : W64) (core : Nat) : W64 := BitVec.ofNat 64 (time.toNat % 2 ^ 55 * 512 + core % 512)

/-- R319: a is older than b. -/
def older (a b : W64) : Bool :=
  let d := (a.extractLsb' 9 55) - (b.extractLsb' 9 55)
  decide (2 ^ 54 ≤ d.toNat) || (d == 0 && decide ((a.extractLsb' 0 9).toNat < (b.extractLsb' 0 9).toNat))

/-- The oldest of a list of requests. -/
def oldest {α : Type} (f : α → W64) : List α → Option α
  | [] => none
  | x :: xs => match oldest f xs with
    | none => some x
    | some y => if older (f y) (f x) then some y else some x

/-- The youngest of a list. -/
def youngest {α : Type} (f : α → W64) : List α → Option α
  | [] => none
  | x :: xs => match youngest f xs with
    | none => some x
    | some y => if older (f x) (f y) then some y else some x

/-! ## Task slots -/

/-- The task slot of a warp in a task. -/
def State.taskSlot (s : State) (w : Warp) : Option TaskSlot :=
  match w.task with
  | none => none
  | some k => kget? (s.core w.core).tasks k.slot

def State.modTask (s : State) (w : Warp) (f : TaskSlot → TaskSlot) : State :=
  match w.task with
  | none => s
  | some k => let x := s.core w.core; s.setCore w.core { x with tasks := kmod x.tasks k.slot f }

/-- The granules of a word's bytes, each once, ascending in address (R328). -/
def State.granulesOf (s : State) (n : Nat) (spans : List (Nat × Nat)) : List Nat :=
  let base := s.granuleBase
  (spans.flatMap fun e => [e.1, e.1 + e.2 - 1].filterMap fun a => s.granuleAt n a).foldl
    (fun l g => (l.filter (fun h => base h < base g)) ++ [g] ++ (l.filter fun h => base g < base h)) []

/-- R328: the task requests each granule that it does not already hold or request. -/
def State.touch (s : State) (w : Warp) (gs : List Nat) : State :=
  s.modTask w fun t =>
    { t with unsent := t.unsent ++ gs.filter fun g => !(t.held.contains g || t.asked.contains g || t.unsent.contains g) }

/-- R328: every granule of a list is held by the warp's task. -/
def State.holdsAll (s : State) (w : Warp) (gs : List Nat) : Bool :=
  match s.taskSlot w with
  | none => false
  | some t => gs.all t.held.contains

/-- A unit of the write buffer as the stores before a program-order number left it: its bytes and which are valid. -/
def BufUnit.before (u : BufUnit) (seq : Nat) : List Byte × BitVec 16 :=
  u.hist.foldl (fun r h => if seq ≤ h.1 then h.2 else r) (u.bytes, u.mask)

/-- The byte of the task's write buffer at an effective address, for an access of a program-order number (R206, R328). -/
def TaskSlot.bufByte (t : TaskSlot) (seq a : Nat) : Option Byte :=
  match kget? t.buf (a / 16) with
  | none => none
  | some u =>
    let b := u.before seq
    if b.2.getLsbD (a % 16) then some (b.1.getD (a % 16) 0) else none

/-- Writes one byte at an effective address into the write buffer, for the store of a program-order number; `va` is the
address that the program gave. -/
def putBuf (seq : Nat) (m : KMap BufUnit) (a va : Nat) (b : Byte) : KMap BufUnit :=
  let u := kget m (a / 16) ⟨va / 16 * 16, List.replicate 16 0, 0, []⟩
  let hist := if u.hist.any fun h => h.1 == seq then u.hist else (seq, u.bytes, u.mask) :: u.hist
  kput m (a / 16) { u with bytes := lset u.bytes (a % 16) b, mask := u.mask ||| (1#16 <<< (a % 16)), hist := hist }

/-- The units of the write buffer that a set of spans of effective addresses needs and that are not in use. -/
def TaskSlot.newUnits (t : TaskSlot) (spans : List (Nat × Nat)) : Nat :=
  ((spans.flatMap fun e => [e.1 / 16, (e.1 + e.2 - 1) / 16]).foldl addNum []).countP fun u => (kget? t.buf u).isNone

end Sys2Proof.Machine
end

