-- ==== Sys2Proof/Machine/Access.lean ====
section
/-! DEFINITION. How accesses are performed: effective addresses, forwarding from the store queue (R206), loads, atomics and
stores of one lane (R203, R213, R219, R223, R224, R328), windows (R43 to R48) and the operand log (R390, R391). -/

namespace Sys2Proof.Machine

/-! ## Addresses and the store queue -/

/-- The address whose bytes a lane's access reaches: the backing address in the private window (R361). -/
def State.effAddr (s : State) (w : Warp) (x : Acc) (p : Part) : Nat :=
  match x.space with
  | .spad | .orang => p.addr
  | .glob =>
    match kget? s.contexts (s.ctxOf w) with
    | none => p.addr
    | some c => if inWindow c p.addr && !x.scalar then backing c w.privIndex p.lane p.addr else p.addr

/-- What the lanes of one instruction share: a load or a DISCARD goes out once for each line (R223, R230), stores and
atomics act on one unit one directly after another (R7, R229). -/
def State.groupKey (s : State) (w : Warp) (x : Acc) (p : Part) : Nat :=
  match x.kind with
  | .load | .discard => s.effAddr w x p / 128
  | .store | .atomic _ | .spclr | .copyGo _ _ => s.effAddr w x p

/-- The parts that share their access with a part, among some lanes of the instruction, in lane order. -/
def State.group (s : State) (w : Warp) (x : Acc) (live : LaneMask) (p : Part) : List Part :=
  x.parts.filter fun q => laneBit live q.lane && s.groupKey w x q == s.groupKey w x p

/-- The lane in whose name a group's request to another device goes out: the lowest. -/
def leadLane (g : List Part) (p : Part) : Nat := (g.head?.map (·.lane)).getD p.lane

/-- A mask with every lane that shares an access with one of its lanes. -/
def State.closure (s : State) (w : Warp) (x : Acc) (m : LaneMask) : LaneMask :=
  m ||| maskOf fun l => x.parts.any fun p => p.lane == l && x.parts.any fun q =>
    laneBit m q.lane && s.groupKey w x q == s.groupKey w x p

/-- A request has been sent in a waiter's name. -/
def State.sent (s : State) (who : Waiter) : Bool := s.fab.any fun r => r.2.who == who

/-- The translation of one access of an instruction. An access whose request, in the name of `lead`, a fabric port has
accepted keeps its translation (R353). -/
def trAcc (s : State) (who lead : Waiter) (w : Warp) (x : Acc) (p : Part) (n : Nat) (kind : AccessKind) : Tr :=
  match s.fab.find? fun r => r.2.who == lead with
  | some (_, r) => .ok s (.peer r.dev (r.pa / 128 * 128 + s.effAddr w x p % 128)) 2
  | none =>
  if x.scalar then translate s who (s.ctxOf w) (some w.core) (Config.dieOfCore w.core) p.addr kind
  else translateLane s who (s.ctxOf w) w p.lane p.addr n kind

/-- The bytes [start, start + n) that a queued part covers, in effective addresses. -/
def State.partSpan (s : State) (w : Warp) (x : Acc) (p : Part) : Nat × Nat :=
  let a := s.effAddr w x p
  match x.kind with
  | .discard => (a / 128 * 128, 128)
  | .spclr => (a, 128 * (p.data.getD 0 0).toNat)
  | .copyGo _ _ => (a, 128 * p.data.length)
  | .load | .store | .atomic _ => (a, x.size.bytes)

def overlap (a n b m : Nat) : Bool := decide (a < b + m) && decide (b < a + n)

/-- What a queued access gives a byte. -/
inductive Queued where
  | none
  | byte (b : Byte)
  /-- A DISCARD (R219), or a copy's clearing of P (R251), stands in the way. -/
  | blocked
  deriving DecidableEq, Repr

/-- The youngest queued write, older than a program-order number, to a byte of a space (R206). -/
def State.queued (s : State) (w : Warp) (sp : Space) (seq a : Nat) : Queued :=
  w.storeQ.foldl (fun r x =>
    if x.space == sp && decide (x.seq < seq) then
      x.parts.foldl (fun r p =>
        let e := s.partSpan w x p
        if e.1 ≤ a && a < e.1 + e.2 then
          match x.kind with
          | .discard | .copyGo _ _ => .blocked
          | .spclr => .byte 0
          | .load | .store | .atomic _ => .byte ((wordBytes p.data).getD (a - e.1) 0)
        else r) r
    else r) .none

/-- An older queued write overlaps the bytes. -/
def State.queueOverlaps (s : State) (w : Warp) (sp : Space) (seq a n : Nat) : Bool :=
  w.storeQ.any fun x => x.space == sp && decide (x.seq < seq)
    && x.parts.any fun p => let e := s.partSpan w x p; overlap e.1 e.2 a n

/-- Some access of the warp older than a number waits in its store queue. -/
def Warp.queueOlder (w : Warp) (seq : Nat) : Bool := w.storeQ.any fun x => decide (x.seq < seq)

/-- A copy of the warp older than a number has its clearing of P still in the store queue (R251). -/
def Warp.copyOlder (w : Warp) (seq : Nat) : Bool :=
  w.storeQ.any fun x => decide (x.seq < seq) && match x.kind with
    | .copyGo _ _ => true
    | .load | .store | .atomic _ | .discard | .spclr => false

/-! ## What stands before an access in program order (R206, R208) -/

/-- The lane's access is held in the operand log. -/
def Warp.logged (w : Warp) (src : LogSource) (lane : Nat) : Bool :=
  w.opLog.any fun e => e.source == src && laneBit e.trap.lanes lane

/-- The order code makes the access an acquire, or a release (R202). -/
def isAcq (o : Ord) : Bool := o == .acq || o == .acqrel
def isRel (o : Ord) : Bool := o == .rel || o == .acqrel

/-- The lanes of a window whose access has not been performed. -/
def Window.undone (x : Window) : LaneMask := (x.lanes &&& ~~~x.ready) ||| x.dead

/-- A load or atomic of the warp, older than a number, that has not been performed. In handler mode the accesses that the
operand log holds until TRET do not count. -/
def Warp.loadsOlder (w : Warp) (seq : Nat) : Bool :=
  w.windows.any fun x => decide (x.acc.seq < seq)
    && (lanesOf x.undone).any fun l => !(w.inh && w.logged (.window x.acc.seq) l)

/-- The part's lines are absent (R224). -/
def State.parksOnP (s : State) (w : Warp) (x : Acc) (p : Part) : Bool :=
  x.space == .spad &&
    match s.team? w.team with
    | none => false
    | some t => !(t.spad w.part).allPresent p.addr x.size.bytes

/-- In handler mode: the first of the interrupted code's loads and atomics that waits for TRET, or for P = 1. It and the
interrupted code's later ones do not hold up the handler's own accesses, whose end they may wait for. DESIGN CHOICE,
notes/assumptions/129.md. -/
def State.stuckFrom (s : State) (w : Warp) : Option Nat :=
  if !w.inh then none
  else (w.windows.find? fun x => decide (x.acc.seq < w.hseq) && x.acc.parts.any fun p =>
    laneBit x.undone p.lane && (w.logged (.window x.acc.seq) p.lane || s.parksOnP w x.acc p)).map (·.acc.seq)

/-- A load or atomic older than a number that a later access must not overtake (R206, R208): one that has not been performed.
One that the operand log holds keeps its place in program order (R391). -/
def State.loadsBlock (s : State) (w : Warp) (seq : Nat) : Bool :=
  w.windows.any fun x => decide (x.acc.seq < seq) && x.undone != 0
    && !(decide (w.hseq ≤ seq) && (s.stuckFrom w).any fun k => decide (k ≤ x.acc.seq) && decide (x.acc.seq < w.hseq))

/-- An atomic of the warp older than a number has not been performed. -/
def Warp.atomicsOlder (w : Warp) (seq : Nat) : Bool :=
  w.windows.any fun x => decide (x.acc.seq < seq) && x.undone != 0 && match x.acc.kind with
    | .atomic _ => true
    | .load | .store | .discard | .spclr | .copyGo _ _ => false

/-! ## One lane's access -/

/-- What an attempt to perform one lane's access answers. -/
inductive Try where
  | ok (s : State) (w : Warp) (vals : List W32)
  | wait (s : State)
  | fail (s : State) (t : TrapReq)

def failAt (s : State) (c : Cause) (a : Nat) (info : W32) : Try := .fail s ⟨c, a, 0, info⟩

/-- A consumed unit that cannot be corrected (R404, R406), at a physical address (0 on the core). -/
def damaged (s : State) (w : Warp) (kind a pa : Nat) : Try :=
  failAt (s.reportBad (s.ctxOf w) w.num w.core kind pa) .dataErr a (BitVec.ofNat 32 kind)

/-- The registers that a loaded unit fills (R221). -/
def loadWords (sz : Size) (sx : Bool) (bs : List Byte) : List W32 :=
  let x := leNat bs
  match sz with
  | .b8 => [if sx then (BitVec.ofNat 8 x).signExtend 32 else BitVec.ofNat 32 x]
  | .b16 => [if sx then (BitVec.ofNat 16 x).signExtend 32 else BitVec.ofNat 32 x]
  | .b32 => leWords 1 bs
  | .b64 => leWords 2 bs
  | .b128 => leWords 4 bs

/-- Bytes forwarded from the queue over bytes read; none when a DISCARD is in the way. -/
def State.forward (s : State) (w : Warp) (x : Acc) (a : Nat) (bs : List Byte) : Option (List Byte) :=
  (List.range x.size.bytes).foldr (fun i r =>
    match r, s.queued w x.space x.seq (a + i) with
    | none, _ => none
    | some _, .blocked => none
    | some l, .byte b => some (b :: l)
    | some l, .none => some (bs.getD i 0 :: l)) (some [])

/-- Every byte of the access stands in the queue. -/
def State.forwarded (s : State) (w : Warp) (x : Acc) (a : Nat) : Bool :=
  (List.range x.size.bytes).all fun i => match s.queued w x.space x.seq (a + i) with
    | .byte _ => true | .none | .blocked => false

/-- A load of the scratchpad or the orangery (R193, R224, R225). -/
def tryLocalLoad (s : State) (w : Warp) (x : Acc) (p : Part) : Try :=
  match s.team? w.team with
  | none => .wait s
  | some t =>
    let n := x.size.bytes
    let answer (bs : List Byte) : Try :=
      match s.forward w x p.addr bs with
      | none => .wait s
      | some bs => .ok s w (loadWords x.size x.sx bs)
    match x.space with
    | .orang =>
      if s.orangDamaged w.core w.team p.addr n then damaged s w 6 0 0
      else answer (readCells (t.orang w.part (orangWarp p.addr)) (orangOff p.addr) n)
    | .spad | .glob =>
      let sp := t.spad w.part
      if s.forwarded w x p.addr then answer []
      else if (s.forward w x p.addr []).isNone || !sp.allPresent p.addr n then .wait s
      else if s.spadDamaged sp w.core w.team p.addr n then damaged s w 5 p.addr 0
      else answer (sp.read p.addr n)

/-- A load or atomic of a warp has been performed: one that acquires drops copies (R212). -/
def State.acquired (s : State) (w : Warp) (x : Acc) : State := if isAcq x.ord then s.acquire w.core x.scope else s

/-- R328: a set load, once its granule is held (one of a set declared after its issue asks for it here): at the unit's
home, under the bytes of the write buffer. As for an atomic, the die's RDC copy goes first (R213), and so does the core's
L1 copy, so that no later load reads an older value (R207). -/
def trySetLoad (s : State) (wid : Nat) (w : Warp) (x : Acc) (p : Part) (g : Nat) : Try :=
  let n := x.size.bytes
  let ea := s.effAddr w x p
  let who := Waiter.lane wid x.seq p.lane
  if !s.holdsAll w [g] then .wait (s.touch w [g])
  else if s.queueOverlaps w .glob x.seq ea n then .wait s
  else
    match trAcc s who who w x p n .read with
    | .wait s => .wait s
    | .err s c info => failAt s c p.addr info
    | .ok s l tier =>
      if 2 ≤ tier then failAt s .set p.addr (BitVec.ofNat 32 (granuleSet g))
      else
        let s := s.clearCopies w.core l.line
        match s.homeBad l n with
        | some k => damaged s w k p.addr l.phys
        | none =>
          let bs := s.homeBytes l n
          let bs := match s.taskSlot w with
            | none => bs
            | some t => tab n fun i => (t.bufByte x.seq (ea + i)).getD (bs.getD i 0)
          .ok (s.acquired w x) w (loadWords x.size x.sx bs)

/-- A load of global memory outside the sets of a task (R203, R225). A line of another device comes once for all the lanes
in whose name `lead` asked for it. -/
def tryGlobalLoad (s : State) (who lead : Waiter) (kind : AccessKind) (w : Warp) (x : Acc) (p : Part) : Try :=
  let n := x.size.bytes
  let ea := s.effAddr w x p
  match trAcc s who lead w x p n kind with
  | .wait s => .wait s
  | .err s c info => failAt s c p.addr info
  | .ok s l _ =>
    let die := Config.dieOfCore w.core
    let answer (s : State) (bs : List Byte) : Try :=
      match s.forward w x ea bs with
      | none => .wait s
      | some bs => .ok (s.acquired w x) w (loadWords x.size x.sx bs)
    if s.forwarded w x ea then answer s []
    else if (s.forward w x ea []).isNone then .wait s
    else
      let ask (dev pa : Nat) : Try :=
        match fabShare s lead die dev pa p.addr .read with
        | .wait s => .wait s
        | .err s t => .fail s t
        | .done s bs =>
          if s.rdcHurt die l n then damaged s w 3 p.addr l.phys
          else answer (s.copyToL1 w.core die l.line) ((bs.drop l.off).take n)
      match l, s.sent lead with
      | .peer dev pa, true => ask dev pa
      | _, _ =>
        match readGlobal s w l n (effScope x.ord x.scope) with
        | .val s bs => answer s bs
        | .bad k => damaged s w k p.addr l.phys
        | .remote => match l with
          | .peer dev pa => ask dev pa
          | .own _ _ | .host _ => .wait s

/-- One lane of a load; `live` are the lanes that have still to be performed. DESIGN CHOICE, notes/assumptions/144.md: a load
that is performed after TABORT.exit is a plain one, whatever it was at its issue. -/
def tryLoad (s : State) (wid : Nat) (w : Warp) (x : Acc) (live : LaneMask) (p : Part) : Try :=
  let lead := Waiter.lane wid x.seq (leadLane (s.group w x live p) p)
  if !s.sent lead && s.loadsBlock w x.seq then .wait s
  else
    match x.space with
    | .spad | .orang => tryLocalLoad s w x p
    | .glob =>
      match (if w.taskst then s.granuleAt (s.ctxOf w) p.addr else none) with
      | some g => trySetLoad s wid w x p g
      | none => tryGlobalLoad s (.lane wid x.seq p.lane) lead .read w x p

/-- The operands x and x2 of an atomic's data words (R228). -/
def atomArgs (sz : Size) (d : List W32) : W128 × W128 :=
  let n := sz.bytes / 4
  (w128OfWords (d.take n), w128OfWords ((d.drop n).take n))

/-- The old value's registers. -/
def oldWords (sz : Size) (m : W128) : List W32 := w128Words (sz.bytes / 4) m

/-- One lane of an atomic on the scratchpad (R229). -/
def tryLocalAtomic (s : State) (w : Warp) (x : Acc) (p : Part) (op : Aop) : Try :=
  match s.team? w.team with
  | none => .wait s
  | some t =>
    let sp := t.spad w.part
    let n := x.size.bytes
    if !sp.allPresent p.addr n then .wait s
    else if s.spadDamaged sp w.core w.team p.addr n then damaged s w 5 p.addr 0
    else
      let m := w128OfBytes (sp.read p.addr n)
      let a := atomArgs x.size p.data
      .ok (s.writeSpad w.team w.part w.core p.addr (leBytes n (aopApply op x.size m a.1 a.2).toNat)) w (oldWords x.size m)

/-- Sends a request for a line of another device once the dirty bytes that the die's RDC holds of the line have been written
back (R207, R213). -/
def sendFlushed (s : State) (who : Waiter) (die : Nat) (l : Loc) (va : Nat) (op : FabOp) : Try :=
  match flushPeers s die [l.line], l with
  | (s, .done), .peer dev pa => .wait (fabSend s who die dev pa va op)
  | (s, .done), .own _ _ | (s, .done), .host _ | (s, .wait), _ => .wait s
  | (s, .fail t), _ => .fail s t

/-- One lane of an atomic on global memory (R213, R229). The lanes of a unit of another device go out in one request, in
lane order; the lane's old value stands at its place in the answer. -/
def tryGlobalAtomic (s : State) (wid : Nat) (w : Warp) (x : Acc) (live : LaneMask) (p : Part) (op : Aop) : Try :=
  let n := x.size.bytes
  let die := Config.dieOfCore w.core
  let g := s.group w x live p
  let lead := Waiter.lane wid x.seq (leadLane g p)
  let a := atomArgs x.size p.data
  match trAcc s (.lane wid x.seq p.lane) lead w x p n .atomic with
  | .wait s => .wait s
  | .err s c info => failAt s c p.addr info
  | .ok s l _ =>
    let finish (s : State) (m : W128) : Try := .ok (s.acquired w x) w (oldWords x.size m)
    match l with
    | .peer dev pa =>
      let work := FabOp.atomic (pa % 128) x.size op (g.map fun q => atomArgs x.size q.data)
      match s.fabFind lead dev pa work with
      | some (_, r) =>
        match r.result s with
        | .wait s => .wait s
        | .err s t => .fail s t
        | .done s bs =>
          let k := g.findIdx fun q => q.lane == p.lane
          finish s (w128OfBytes ((bs.drop (n * k)).take n))
      | none => sendFlushed s lead die l p.addr work
    | .own _ _ | .host _ =>
      let onHost := match l with | .host _ => true | .own _ _ | .peer _ _ => false
      if onHost && !s.hostAtomics then failAt s .protect p.addr 2
      else
        let s := s.clearCopies w.core l.line
        match s.homeBad l n with
        | some k => damaged s w k p.addr l.phys
        | none => let (s, m) := atomicAtHome s l x.size op a.1 a.2; finish s m

/-- One lane of an atomic: after the earlier accesses that R206 and R208 put before it, after an earlier copy's clearing of P
(R251), and after the write-backs of a release. -/
def tryAtomic (s : State) (wid : Nat) (w : Warp) (x : Acc) (live : LaneMask) (p : Part) (op : Aop) : Try :=
  let all := isRel x.ord || x.space == .spad || effScope x.ord x.scope == .core
  let out := s.sent (.lane wid x.seq (leadLane (s.group w x live p) p))
  if !out && (s.loadsBlock w x.seq || (isRel x.ord && w.loadsOlder x.seq) || (all && w.queueOlder x.seq)
      || w.copyOlder x.seq || s.queueOverlaps w x.space x.seq (s.effAddr w x p) x.size.bytes) then .wait s
  else
    match (if isRel x.ord && !out then releaseCopies s (Config.dieOfCore w.core) x.scope else (s, .done)) with
    | (s, .wait) => .wait s
    | (s, .fail t) => .fail s t
    | (s, .done) =>
      match x.space with
      | .spad | .orang => tryLocalAtomic s w x p op
      | .glob => tryGlobalAtomic s wid w x live p op

/-- One lane of a queued store to global memory (R203, R226); `g` are the queued lanes on its unit. -/
def tryGlobalStore (s : State) (wid : Nat) (w : Warp) (x : Acc) (g : List Part) (p : Part) : Try :=
  let n := x.size.bytes
  let die := Config.dieOfCore w.core
  let lead := Waiter.store wid x.seq (leadLane g p)
  let bs := (wordBytes p.data).take n
  match trAcc s (.store wid x.seq p.lane) lead w x p n .write with
  | .wait s => .wait s
  | .err s c info => failAt s c p.addr info
  | .ok s l _ =>
    match l, effScope x.ord x.scope with
    | .peer dev pa, .system =>
      let work := FabOp.write (tab n fun i => (pa % 128 + i, bs.getD i 0))
      match s.fabFind lead dev pa work with
      | some (_, r) =>
        match r.result s with
        | .wait s => .wait s
        | .err s t => .fail s t
        | .done s _ => .ok s w []
      | none => sendFlushed s lead die l p.addr work
    | _, sc => .ok (storeGlobal s w.core l bs sc) w []

/-- One lane of a DISCARD (R219, R230); `g` are the queued lanes on its line, which is discarded once. -/
def tryDiscard (s : State) (wid : Nat) (w : Warp) (x : Acc) (g : List Part) (p : Part) : Try :=
  let die := Config.dieOfCore w.core
  let lead := Waiter.store wid x.seq (leadLane g p)
  match trAcc s (.store wid x.seq p.lane) lead w x p 1 .discard with
  | .wait s => .wait s
  | .err s c info => failAt s c p.addr info
  | .ok s l _ =>
    match l with
    | .peer dev pa =>
      match fabShare s lead die dev pa p.addr .discard with
      | .wait s => .wait s
      | .err s t => .fail s t
      | .done s _ => .ok s w []
    | .own _ _ | .host _ => .ok (discardAtHome s die l) w []

/-- R232: SPCLR clears its lines in order, as far as they are present; every unit of a cleared line becomes sound (R407).
Answers the state and the lines that are left. -/
def clearLines (s : State) (tid part core : Nat) : Nat → Nat → State × Nat
  | _, 0 => (s, 0)
  | line, n + 1 =>
    match s.team? tid with
    | none => (s, n + 1)
    | some t =>
      if (t.spad part).present line then
        clearLines ((s.modSpad tid part fun x => x.clearLine line).mendLine tid core line) tid part core (line + 1) n
      else (s, n + 1)

/-- One lane of a queued store or DISCARD at the head of the queue; `live` are the lanes that can go out. -/
def tryStore (s : State) (wid : Nat) (w : Warp) (x : Acc) (live : LaneMask) (p : Part) : Try :=
  match x.kind, x.space with
  | .discard, _ => tryDiscard s wid w x (s.group w x live p) p
  | _, .glob => tryGlobalStore s wid w x (s.group w x live p) p
  | _, .orang => .ok (s.writeOrang w.team w.part w.core p.addr ((wordBytes p.data).take x.size.bytes)) w []
  | _, .spad =>
    if s.parksOnP w x p then .wait s
    else .ok (s.writeSpad w.team w.part w.core p.addr ((wordBytes p.data).take x.size.bytes)) w []

/-! ## The operand log (R390, R391) -/

/-- The failing lanes of one cause: the trap of the lowest, with every lane of the cause marked (R74). -/
def gather (fails : List (Nat × TrapReq)) (c : Cause) : TrapReq :=
  match fails.find? fun f => f.2.cause == c with
  | none => ⟨c, 0, 0, 0⟩
  | some f => { f.2 with lanes := maskOf fun l => fails.any fun g => g.1 == l && g.2.cause == c }

/-- R371: an atomic that timed out is not issued again. -/
def noReissue (x : Acc) (t : TrapReq) : Bool :=
  match x.kind with
  | .atomic _ => t.cause == .fabric && t.info == 0x01
  | .load | .store | .discard | .spclr | .copyGo _ _ => false

/-- Adds the failing lanes of an instruction to the log: one entry for each cause (R223). The log delivers its first eight;
the entries behind them stand for accesses held where they were, which enter it as entries free (R390). -/
def Warp.logFail (w : Warp) (x : Acc) (src : LogSource) (fails : List (Nat × TrapReq)) : Warp :=
  let mark (m : LaneMask) : LaneMask := if x.scalar && m != 0 then allLanes else m
  { w with opLog := w.opLog ++ ((fails.map (·.2.cause)).eraseDups.map fun c =>
      let t := gather fails c
      { acc := x, source := src, trap := { t with lanes := mark t.lanes }, delivered := false
        timedOut := mark (maskOf fun l => fails.any fun f => f.1 == l && f.2.cause == c && noReissue x f.2) }) }

/-! ## Windows (R43 to R48) -/

/-- The place of the window of a program-order number. -/
def Warp.window? (w : Warp) (seq : Nat) : Option Window := w.windows.find? fun x => x.acc.seq == seq
def Warp.setWindow (w : Warp) (x : Window) : Warp :=
  { w with windows := w.windows.map fun y => if y.acc.seq = x.acc.seq then x else y }
def Warp.dropWindow (w : Warp) (seq : Nat) : Warp := { w with windows := w.windows.filter fun y => y.acc.seq != seq }

/-- The lanes of a window whose access is still to be performed and is not in the operand log. -/
def Window.live (x : Window) (w : Warp) : LaneMask :=
  x.undone &&& ~~~maskOf fun l => w.logged (.window x.acc.seq) l

/-- A lane's access has been performed: its value is there, or, for a lane that has ended, is discarded (R48). -/
def Window.perform (x : Window) (lane : Nat) (vals : List W32) : Window :=
  if laneBit x.dead lane then { x with dead := x.dead &&& ~~~(1#32 <<< lane) }
  else { x with ready := x.ready ||| (1#32 <<< lane), vals := kput x.vals lane vals }

/-- Tries the parts of a window that are in a mask, in ascending order; `live` are the lanes that were still to be performed
when the attempt began. -/
def pumpParts (wid : Nat) (seq : Nat) (m live : LaneMask) : List Part → State × Warp × List (Nat × TrapReq) →
    State × Warp × List (Nat × TrapReq)
  | [], r => r
  | p :: ps, (s, w, fails) =>
    match w.window? seq with
    | none => (s, w, fails)
    | some x =>
      if laneBit (m &&& live) p.lane then
        let r := match x.acc.kind with
          | .atomic op => tryAtomic s wid w x.acc live p op
          | .load | .store | .discard | .spclr | .copyGo _ _ => tryLoad s wid w x.acc live p
        match r with
        | .ok s w vals => pumpParts wid seq m live ps (s, w.setWindow (x.perform p.lane vals), fails)
        | .wait s => pumpParts wid seq m live ps (s, w, fails)
        | .fail s t => pumpParts wid seq m live ps (s, w, fails ++ [(p.lane, t)])
      else pumpParts wid seq m live ps (s, w, fails)

/-- A request in the name of one of a window's lanes. -/
def Waiter.ofWindow (wid seq : Nat) (m : LaneMask) : Waiter → Bool
  | .lane w q l => w == wid && q == seq && laneBit m l
  | _ => false

/-- R223: the page of an effective address: that of its leaf, or the smallest there is. -/
def State.pageOf (s : State) (w : Warp) (a : Nat) : Nat × Nat :=
  let n := s.ctxOf w
  let least := (a / 65536 * 65536, 16)
  match s.tlbFind (some w.core) (Config.dieOfCore w.core) n a with
  | some e => (e.va, e.size)
  | none => match (kget? s.contexts n).map fun c => walk s n c a with
    | some (.leaf e) => (e.va, e.size)
    | _ => least

/-- The cause is an outcome of the translation of an address. -/
def State.ofTranslation (s : State) (w : Warp) (a : Nat) : Cause → Bool
  | .page | .protect | .lease => true
  | .dataErr => (kget? s.contexts (s.ctxOf w)).any fun c => match walk s (s.ctxOf w) c a with
    | .bad _ => true
    | _ => false
  | _ => false

/-- R223: the failing lanes of an instruction, in lane order: those found, and the other lanes still to be performed on the
pages whose translation failed. `out` says whether a lane's request has gone out. -/
def State.shareFails (s : State) (w : Warp) (x : Acc) (live : LaneMask) (out : Part → Bool) (fails : List (Nat × TrapReq)) :
    List (Nat × TrapReq) :=
  let pages := fails.filterMap fun f => (x.parts.find? fun p => p.lane == f.1).bind fun p =>
    let a := s.effAddr w x p
    if s.ofTranslation w a f.2.cause then some (s.pageOf w a, f.2) else none
  x.parts.filterMap fun q =>
    match fails.find? fun f => f.1 == q.lane with
    | some f => some f
    | none =>
      if !laneBit live q.lane || out q then none
      else (pages.find? fun g => g.1 == s.pageOf w (s.effAddr w x q)).map fun g => (q.lane, { g.2 with addr := q.addr })

/-- Logs the failing lanes of an instruction, with those that share their pages (R223); what the latter waited for is given
up. -/
def logFails (s : State) (w : Warp) (x : Acc) (src : LogSource) (live : LaneMask) (who : Nat → Waiter)
    (fails : List (Nat × TrapReq)) : State × Warp :=
  if fails.isEmpty then (s, w)
  else
    let all := s.shareFails w x live (fun q => s.sent (who (leadLane (s.group w x live q) q))) fails
    let mine (v : Waiter) : Bool := all.any fun f => v == who f.1 && !fails.any fun g => g.1 == f.1
    (if all.length = fails.length then s else s.dropWaiters mine, w.logFail x src all)

/-- Performs what can be performed of a window's lanes in a mask, with the lanes that share their accesses (R229). -/
def pump (s : State) (wid : Nat) (w : Warp) (seq : Nat) (m : LaneMask) : State × Warp :=
  match w.window? seq with
  | none => (s, w)
  | some x =>
    let m := s.closure w x.acc m
    let (s, w, fails) := pumpParts wid seq m (x.live w) x.acc.parts (s, w, [])
    let s := s.takeAnswers (Waiter.ofWindow wid seq m)
    logFails s w x.acc (.window seq) (((w.window? seq).map fun x => x.live w).getD 0) (fun l => .lane wid seq l) fails

/-- Performs what can be performed of every window, oldest first. A window that waited only for the accesses of ended lanes
goes with them. -/
def pumpAll (s : State) (wid : Nat) (w : Warp) : State × Warp :=
  let (s, w) := w.windows.foldl (fun (s, w) x => pump s wid w x.acc.seq x.undone) (s, w)
  (s, { w with windows := w.windows.filter fun x => !(x.closed && x.lanes == 0 && x.dead == 0) })

/-- The next number of a close. -/
def Warp.nextShut (w : Warp) : Nat := w.windows.foldl (fun m x => max m x.shutNo) 0 + 1

/-- The registers of a lane destination. -/
def Dest.regs : Dest → List Nat
  | .lanes vd n => tab n fun k => vd + k
  | .scalar _ _ | .capq _ _ _ _ => []

/-- R44: the values that a close has written stay: a window that closed earlier no longer writes those registers in those
lanes. DESIGN CHOICE, notes/assumptions/142.md: also where the two closed at different words. -/
def Warp.overwrite (w : Warp) (x : Window) (m : LaneMask) : Warp :=
  { w with windows := w.windows.map fun y =>
      if y.closed && decide (y.shutNo < x.shutNo) then
        { y with skip := x.dest.regs.foldl (fun k r =>
            if y.dest.regs.contains r then kput k r (kget k r 0 ||| m) else k) y.skip }
      else y }

/-- Writes the results of some lanes to their destination (R44). -/
def Warp.writeWindow (w : Warp) (x : Window) (m : LaneMask) : Warp :=
  (match x.dest with
  | .lanes vd n =>
    if x.skip.isEmpty then w.setVs vd n m fun l k => (kget x.vals l []).getD k 0
    else (List.range n).foldl (fun w k =>
      w.setV (vd + k) (m &&& ~~~kget x.skip (vd + k) 0) fun l => (kget x.vals l []).getD k 0) w
  | .scalar sd n => if m = 0 then w else w.setSs sd (tab n fun k => (kget x.vals 0 []).getD k 0)
  | .capq sd qk value known => (w.setS sd value).setQ qk known).overwrite x m

/-- What a close answers. -/
inductive Closed where
  | shut (s : State) (w : Warp)
  | waits (s : State) (w : Warp)

/-- R47: the close of a window. `whole` asks for every lane (R323). -/
def closeWindow (s : State) (wid : Nat) (w : Warp) (seq : Nat) (whole : Bool) : Closed :=
  let (s, w) := pump s wid w seq (BitVec.allOnes 32)
  match w.window? seq with
  | none => .shut s w
  | some x =>
    let here := x.lanes &&& x.ready &&& ~~~x.late
    let rest := x.lanes &&& ~~~here
    let scalar := match x.dest with | .lanes _ _ => false | .scalar _ _ | .capq _ _ _ _ => true
    let x := { x with shutNo := w.nextShut }
    if rest = 0 && x.dead == 0 then .shut s ((w.writeWindow x here).dropWindow seq)
    else if rest != 0 && (here = 0 || scalar || whole) then .waits s w
    else .shut s ((w.writeWindow x here).setWindow { x with closed := true, lanes := rest })

/-- Closes a list of windows in order; stops at the first that makes the warp wait. -/
def closeList (s : State) (wid : Nat) (w : Warp) (whole : Bool) : List Nat → Closed
  | [] => .shut s w
  | k :: ks => match closeWindow s wid w k whole with
    | .shut s w => closeList s wid w whole ks
    | .waits s w => .waits s w

/-- The open windows that the warp's mode counts (R43, R388). -/
def Warp.openSeqs (w : Warp) : List Nat :=
  (w.windows.filter fun x => !x.closed && x.handler == w.inh).map (·.acc.seq)

/-- A warp word that first closes every open window, as TBEGIN does (R323, R393). -/
def closeAll (s : State) (wid : Nat) (w : Warp) : Closed := closeList s wid w true w.openSeqs

/-- The next program-order number of a warp, above that of every window. -/
def Warp.nextSeq (w : Warp) : Nat := w.windows.foldl (fun m x => max m (x.acc.seq + 1)) w.seq

/-- Opens a window on an access and performs what can be performed at issue (R43). -/
def openWindow (s : State) (w : Warp) (x : Acc) (dest : Dest) (la : Nat) (lanes : LaneMask) : State × Warp :=
  let x := { x with seq := w.nextSeq }
  let win : Window :=
    { acc := x, dest := dest, la := la, count := 0, handler := w.inh, closed := false, lanes := lanes, ready := 0
      late := 0, vals := [], dead := 0, shutNo := 0, skip := [] }
  let w := { w with seq := w.nextSeq + 1, windows := w.windows ++ [win] }
  let (s, w) := pump s s.cur w x.seq lanes
  match w.window? x.seq with
  | none => (s, w)
  | some y => (s, w.setWindow { y with late := s.curLate &&& y.ready })

/-! ## The store queue (R206) -/

/-- R7: of the lanes that write the same unit, the highest one's data stays. -/
def State.lastData (s : State) (w : Warp) (x : Acc) (p : Part) (later : List Part) : List W32 :=
  later.foldl (fun d r => if (s.partSpan w x r).1 == (s.partSpan w x p).1 then r.data else d) p.data

/-- Queues a store's accesses. -/
def enqueue (w : Warp) (x : Acc) : Warp :=
  if x.parts.isEmpty then w
  else { w with seq := w.seq + 1, storeQ := w.storeQ ++ [{ x with seq := w.seq }] }

/-- Tries the parts of the queue's head in order; answers those that are left. `live` are the lanes that can go out. -/
def drainParts (wid : Nat) (x : Acc) (live : LaneMask) : List Part → State → Warp → List (Nat × TrapReq) →
    State × Warp × List Part × List (Nat × TrapReq)
  | [], s, w, f => (s, w, [], f)
  | p :: ps, s, w, f =>
    if !laneBit live p.lane then
      let (s, w, left, f) := drainParts wid x live ps s w f
      (s, w, p :: left, f)
    else
      match tryStore s wid w x live { p with data := s.lastData w x p (ps.filter fun q => laneBit live q.lane) } with
      | .ok s w _ => drainParts wid x live ps s w f
      | .wait s => let (s, w, left, f) := drainParts wid x live ps s w f; (s, w, p :: left, f)
      | .fail s t => let (s, w, left, f) := drainParts wid x live ps s w (f ++ [(p.lane, t)]); (s, w, p :: left, f)

/-- Sets the parts of the queue's head; an empty head leaves the queue. -/
def Warp.setHead (w : Warp) (ps : List Part) : Warp :=
  match w.storeQ with
  | [] => w
  | x :: xs => { w with storeQ := if ps.isEmpty then xs else { x with parts := ps } :: xs }

/-- A request in the name of one of the lanes of a queued store. -/
def Waiter.ofStore (wid seq : Nat) : Waiter → Bool
  | .store w q _ => w == wid && q == seq
  | _ => false

/-- The 16-byte unit of a part's scratchpad as a key of what an operation has latched. -/
def latchKey (part unit : Nat) : Nat := part * 2 ^ 40 + unit

/-- A line of which an operation has latched every unit (R188). -/
def MatOp.lineLatched (o : MatOp) (part line : Nat) : Bool :=
  (List.range 8).all fun k => (kget? o.latched (latchKey part (8 * line + k))).isSome

/-- R188: P is cleared on lines; what an operation has read of a line not yet read whole is read again, so that no line is
read as a mixture of two copies' data. -/
def State.clearP (s : State) (tid part : Nat) (lines : List Nat) : State :=
  let s := s.modSpad tid part fun sp => lines.foldl Spad.dropP sp
  match s.team? tid with
  | none => s
  | some t =>
    if t.mats.all fun m => m.2.ops.all fun o => o.latched.isEmpty then s
    else
      s.setTeam tid { t with mats := kmap (fun _ m => { m with ops := m.ops.map fun o =>
        { o with latched := o.latched.filter fun u =>
            u.1 / 2 ^ 40 != part || !lines.contains (u.1 % 2 ^ 40 / 8) || o.lineLatched part (u.1 % 2 ^ 40 / 8) } }) t.mats }

/-- R251, R216: a copy's place in its warp's store queue is reached: P of its touched lines is cleared, and the copy may
read and write. -/
def copyBegins (s : State) (w : Warp) (core idx : Nat) (ps : List Part) : State :=
  let c := s.core core
  let s := s.setCore core { c with copies := kmod c.copies idx fun e => { e with go := true } }
  s.clearP w.team w.part ((ps.filter fun p => !p.data.isEmpty).map fun p => p.addr / 128)

/-- The head of a store queue must wait for earlier loads and atomics of its warp (R206, R208, R251). -/
def State.headWaits (s : State) (w : Warp) (x : Acc) : Bool :=
  match x.kind with
  | .copyGo _ _ => w.atomicsOlder x.seq
  | .load | .store | .atomic _ | .discard | .spclr => s.loadsBlock w x.seq || (isRel x.ord && w.loadsOlder x.seq)

/-- STORE_PERFORMED: the head of a warp's store queue is performed as far as it can be. -/
def performHead (s : State) (wid : Nat) (w : Warp) : State × Warp :=
  match w.storeQ with
  | [] => (s, w)
  | x :: _ =>
    let live := maskOf fun l => !w.logged .store l
    let left := x.parts.filter fun p => laneBit live p.lane
    let out := s.fab.any fun r => Waiter.ofStore wid x.seq r.2.who
    if s.headWaits w x || (left.isEmpty && !x.parts.isEmpty) then (s, w)
    else
      match (if isRel x.ord && !out then releaseCopies s (Config.dieOfCore w.core) x.scope else (s, .done)) with
      | (s, .wait) => (s, w)
      | (s, .fail t) => (s, w.logFail x .store (left.map fun p => (p.lane, t)))
      | (s, .done) =>
        match x.kind with
        | .copyGo core idx => (copyBegins s w core idx x.parts, w.setHead [])
        | .spclr =>
          match x.parts with
          | [] => (s, w.setHead [])
          | p :: _ =>
            let n := (p.data.getD 0 0).toNat
            let (s, left) := clearLines s w.team w.part w.core (p.addr / 128) n
            if left = 0 then (s, w.setHead [])
            else (s, w.setHead [{ p with addr := p.addr + 128 * (n - left), data := [BitVec.ofNat 32 left] }])
        | .load | .store | .atomic _ | .discard =>
          let (s, w, left, fails) := drainParts wid x live x.parts s w []
          let s := s.takeAnswers (Waiter.ofStore wid x.seq)
          logFails s (w.setHead left) { x with parts := left } .store live (fun l => .store wid x.seq l) fails

/-! ## Reads that the word itself waits for (R427) -/

/-- A plain read of a unit at core scope, in program order, of an access kind (R348); `off` tells the reads of one word
apart. The words are the unit's bytes. -/
def wordRead (s : State) (wid : Nat) (kind : AccessKind) (w : Warp) (size : Size) (a off : Nat) : Try :=
  let who := Waiter.word wid off
  if !s.sent who && s.loadsBlock w w.seq then .wait s
  else
    match tryGlobalLoad s who who kind w
      { kind := .load, space := .glob, scalar := true, size := size, sx := false, scope := .core, ord := .plain
        seq := w.seq, pc := 0, w0 := 0, w1 := 0, parts := [] } ⟨0, a, []⟩ with
    | .ok s w vals => .ok (s.takeAnswers (· == who)) w vals
    | .wait s => .wait s
    | .fail s t => .fail (s.takeAnswers (· == who)) t

/-- Every store of the warp has been performed and every load has its value (R208). -/
def Warp.allPerformed (w : Warp) : Bool := w.storeQ.isEmpty && !w.loadsOlder w.seq

end Sys2Proof.Machine
end

