-- ==== Sys2Proof/Machine/System.lean ====
section
/-! DEFINITION. Special registers (R54, R57, R93) and the system words (R94). -/

namespace Sys2Proof.Machine

def roleCode : Role → Nat | .copy => 0 | .maths => 1 | .epilogue => 2

/-- R22: the linear gang coordinate of the team at a place of its grid. -/
def Desc.gangAt (d : Desc) (x y z : Nat) : Nat :=
  x / d.gangX + d.gridX / d.gangX * (y / d.gangY + d.gridY / d.gangY * (z / d.gangZ))

/-- R54, R419: the fabric device number, 0 when the device belongs to no pod. -/
def State.deviceNumber (s : State) : Nat := if s.devnum.getLsbD 31 then s.devnum.toNat % 1024 else 0

/-- R54: the index moves a register pair. -/
def srWide (i : Nat) : Bool := i == 0x20 || i == 0x31 || i == 0x32

/-- R54: SRD is refused outside handler mode. -/
def srdPriv (i : Nat) (w : Warp) : Bool := w.inh || decide (i < 0x30)
/-- R54: the modes in which SWR is allowed. -/
def swrPriv (i : Nat) (w : Warp) : Bool :=
  if 0x30 ≤ i then w.inh && i != 0x35
  else decide (0x10 ≤ i) && decide (i ≤ 0x21)

/-- The value of a special register (R54), in the low bits of 64. -/
def srRead (s : State) (w : Warp) (t : Team) (i : Nat) : W64 :=
  let n (x : Nat) : W64 := BitVec.ofNat 64 x
  let e (x : W32) : W64 := x.zeroExtend 64
  match i with
  | 0x00 => n w.num
  | 0x01 => n (roleCode w.role)
  | 0x02 => n t.x
  | 0x03 => n t.y
  | 0x04 => n t.z
  | 0x05 => n t.gangNum
  | 0x06 => n t.desc.gridX
  | 0x07 => n t.desc.gridY
  | 0x08 => n t.desc.gridZ
  | 0x09 => n w.core
  | 0x0A => n (Config.dieOfCore w.core)
  | 0x0B => n s.deviceNumber
  | 0x0C => e s.time.lo
  | 0x0D => e s.time.hi
  | 0x10 | 0x11 | 0x12 => e (kget w.lc (i - 0x10) 0)
  | 0x20 => w.link
  | 0x21 => e w.fpflags
  | 0x22 => e w.age.lo
  | 0x23 => e w.age.hi
  | 0x24 => e w.trc
  | 0x25 => n (if w.taskst then 1 else 0)
  | 0x28 => e w.ready
  | 0x29 => e w.live
  | 0x30 => e w.tcause
  | 0x31 => w.tpc
  | 0x32 => w.taddr
  | 0x33 => e w.tlanes
  | 0x34 => e w.tinfo
  | 0x35 => n (if w.inh then 1 else 0)
  | i =>
    if 0x18 ≤ i && i ≤ 0x1F then e (kget w.jm (i - 0x18) 0)
    else if 0x38 ≤ i && i ≤ 0x3F then e (kget w.hs (i - 0x38) 0)
    else 0

/-- A write of a special register that SWR may write (R52 to R54). -/
def srWrite (w : Warp) (i : Nat) (x : W64) : Warp :=
  let a : W32 := x.lo
  match i with
  | 0x20 => { w with link := x }
  | 0x21 => { w with fpflags := a &&& Config.fpflagsMask }
  | 0x30 => { w with tcause := a &&& Config.tcauseMask }
  | 0x31 => { w with tpc := BitVec.ofNat 64 (canon57 x.toNat) }
  | 0x32 => { w with taddr := x }
  | 0x33 => { w with tlanes := a }
  | 0x34 => { w with tinfo := a }
  | i =>
    if 0x10 ≤ i && i ≤ 0x12 then { w with lc := kput w.lc (i - 0x10) a }
    else if 0x18 ≤ i && i ≤ 0x1F then { w with jm := kput w.jm (i - 0x18) a }
    else if 0x38 ≤ i && i ≤ 0x3F then { w with hs := kput w.hs (i - 0x38) a }
    else w

/-- SRD (R93). -/
def execSrd (h : WarpHdr) (sd : Reg) (idx : BitVec 8) (s : State) : Out :=
  let n := if srWide idx.toNat then 2 else 1
  warpOp (.srd h sd idx) h none [(sd.toNat, n)] (srdPriv idx.toNat) s fun w =>
    match s.team? w.team with
    | none => .stop .noTeam
    | some t =>
      let x := srRead s w t idx.toNat
      .done s (w.setSs sd.toNat (tab n fun k => x.extractLsb' (32 * k) 32))

/-- SWR (R93). -/
def execSwr (h : WarpHdr) (idx : BitVec 8) (ss : Reg) (s : State) : Out :=
  let n := if srWide idx.toNat then 2 else 1
  warpOp (.swr h idx ss) h none [(ss.toNat, n)] (swrPriv idx.toNat) s fun w =>
    .done s (srWrite { w with badRegs := w.badRegs.filter (· != (4, idx.toNat, 0)) } idx.toNat (if n = 2 then w.sr64 ss.toNat else (w.sr ss.toNat).zeroExtend 64))

/-- CLK (R94). -/
def execClk (h : WarpHdr) (sd : Reg) (s : State) : Out :=
  warpOp (.clk h sd) h none [(sd.toNat, 2)] anyMode s fun w => .done s (w.setS64 sd.toNat s.time)

/-- NOP (R94). -/
def execNop (h : WarpHdr) (s : State) : Out := warpOp (.nop h) h none [] anyMode s fun w => .done s w

/-- TRAP (R94). -/
def execTrap (h : WarpHdr) (code : BitVec 18) (s : State) : Out :=
  warpOp (.trap h code) h none [] anyMode s fun _ => .trap (warpTrap .brk 0 (code.zeroExtend 32))

/-- The TINFO of TASK: the OP field of the word (R73). -/
def opField (i : Instr) : W32 :=
  let w := firstWord i
  if bit w 31 then (fld w 18 9).zeroExtend 32 else (fld w 18 8).zeroExtend 32

/-- TASK for a warp word inside a task. -/
def taskTrap (i : Instr) : Res := .trap (warpTrap .task 0 (opField i))

/-- SLEEP (R94, R335): a span of 0 only ends the run. -/
def execSleep (h : WarpHdr) (sa : Reg) (s : State) : Out :=
  let i : Instr := .sleep h sa
  warpOp i h none [] anyMode s fun w =>
    if w.taskst then taskTrap i
    else if w.sr sa.toNat = 0 then .done s w
    else hold s w (.sleep s.time.toNat (w.sr sa.toNat)) i

/-- EVPOST (R94, R413). -/
def execEvpost (h : WarpHdr) (sa sb : Reg) (s : State) : Out :=
  let i : Instr := .evpost h sa sb
  warpOp i h none [] anyMode s fun w =>
    let n := s.ctxOf w
    if w.taskst then taskTrap i
    else if !(s.eventQ n).on then .done s w
    else if s.eventFull n then hold (s.readRidx n) w .evpost i
    else .done (s.appendEvent n 1 w.num w.core (w.sr sa.toNat) (w.sr sb.toNat)) w

end Sys2Proof.Machine
end

