-- ==== Sys2Proof/Machine/Memory.lean ====
section
/-! DEFINITION. The memory words (R220 to R237, R193): loads, stores, compressing stores, atomics, discards, prefetches,
SPCLR, SPQRY and FENCE. -/

namespace Sys2Proof.Machine

/-! ## Addresses and their checks (R222) -/

/-- The lanes of a mask whose address fails a test. -/
def lanesWhere (x : LaneMask) (ad : Nat → Int) (bad : Nat → Int → Bool) : LaneMask :=
  maskOf fun l => laneBit x l && bad l (ad l)

/-- An address as TADDR shows it (R222). -/
def shown (a : Int) : Nat := (a % 2 ^ 64).toNat

/-- R361: a lane's address lies in the private window, and its backing address fails the check of R222. -/
def State.backingBad (s : State) (w : Warp) (n l : Nat) (a : Int) : Bool :=
  match kget? s.contexts (s.ctxOf w) with
  | none => false
  | some c => decide (0 ≤ a) && inWindow c a.toNat && !inHalf (backing c w.privIndex l a.toNat) n

/-- The lanes of a scalar word, and of a word of the core's own storage, have no private window. -/
def noBacking (_ : Nat) (_ : Int) : Bool := false

/-- R222: the cause of an access of a size to a space, lanes by lanes, in the order of R74; `priv` is the check of a backing
address. -/
def memTrap (t : Team) (sp : Space) (size : Size) (n : Nat) (priv : Nat → Int → Bool) (x : LaneMask) (ad : Nat → Int) :
    Option TrapReq :=
  let al := lanesWhere x ad fun _ a => a % n != 0
  let bad : Nat → Int → Bool := match sp with
    | .glob => fun l a => decide (a < 0) || !inHalf a.toNat n || priv l a
    | .spad => fun _ a => t.spadBad a n
    | .orang => fun _ a => t.orangBad a n
  let cause : Cause := match sp with | .glob => .vaRange | .spad => .spadRange | .orang => .accRange
  let wrong := lanesWhere x ad bad
  if al != 0 then some ⟨.align, shown (ad (lowest al)), al, (size.bits.zeroExtend 32)⟩
  else if wrong != 0 then some ⟨cause, shown (ad (lowest wrong)), wrong, 0⟩
  else none

/-- The address of a lane word: a register pair, or one register for the scratchpad, plus a signed offset. -/
def Warp.laneAddr (w : Warp) (sp : Space) (va : Reg) (off : Int) (l : Nat) : Int :=
  match sp with
  | .glob | .orang => ((w.vr64 l va.toNat).toNat : Int) + off
  | .spad => ((w.vr l va.toNat).toNat : Int) + off

/-- The address of a scalar word. -/
def Warp.scalarAddr (w : Warp) (sp : Space) (sa : Reg) (off : Int) : Int :=
  match sp with
  | .glob | .orang => ((w.sr64 sa.toNat).toNat : Int) + off
  | .spad => ((w.sr sa.toNat).toNat : Int) + off

/-- Registers of the address operand. -/
def addrRegs (sp : Space) : Nat := match sp with | .glob | .orang => 2 | .spad => 1

/-- Runs a body with the warp's team. -/
def withTeam (s : State) (w : Warp) (f : Team → Res) : Res :=
  match s.team? w.team with | none => .stop .noTeam | some t => f t

/-- A scalar word's trap marks every lane (R53). -/
def scalarTrap (t : TrapReq) : TrapReq := { t with lanes := allLanes }

/-- A set-memory access inside a task: its granules are requested (R328). -/
def touchSpans (s : State) (w : Warp) (sp : Space) (spans : List (Nat × Nat)) : State :=
  match sp with
  | .glob => if w.taskst then s.touch w (s.granulesOf (s.ctxOf w) spans) else s
  | .spad | .orang => s

/-! ## Loads (R225) -/

/-- An access of an instruction, its number and stamp still to be given. -/
def mkAcc (k : AccKind) (sp : Space) (scalar : Bool) (size : Size) (sx : Bool) (scope : Scope) (ord : Ord) (pc : Nat)
    (i : Instr) (ps : List Part) : Acc :=
  { kind := k, space := sp, scalar := scalar, size := size, sx := sx, scope := scope, ord := ord, seq := 0
    pc := pc, w0 := firstWord i, w1 := extWord i, parts := ps }

/-- A lane load, R193 and R225. -/
def laneLoad (i : Instr) (h : LaneHdr) (sp : Space) (vd va : Reg) (la : BitVec 4) (sx : Bool) (off : Int) (size : Size)
    (scope : Scope) (ord : Ord) (s : State) : Out :=
  laneOp i h [(vd.toNat, size.regs), (va.toNat, addrRegs sp)] notInHandler s fun w x =>
    withTeam s w fun t =>
      let ad := w.laneAddr sp va off
      match memTrap t sp size size.bytes (s.backingBad w size.bytes) x ad with
      | some c => .trap c
      | none =>
        let ps := (lanesOf x).map fun l => (⟨l, (ad l).toNat, []⟩ : Part)
        let s := touchSpans s w sp (ps.map fun p => (p.addr, size.bytes))
        let a := mkAcc .load sp false size sx scope ord w.issueAddr i ps
        let (s, w) := openWindow s w a (.lanes vd.toNat size.regs) la.toNat x
        .done s w

/-- A scalar load, R225. -/
def scalarLoad (i : Instr) (h : WarpHdr) (sp : Space) (sd sa : Reg) (la : BitVec 4) (sx : Bool) (off : Int) (size : Size)
    (scope : Scope) (ord : Ord) (s : State) : Out :=
  warpOp i h none [(sd.toNat, size.regs), (sa.toNat, addrRegs sp)] anyMode s fun w =>
    withTeam s w fun t =>
      let a := w.scalarAddr sp sa off
      match memTrap t sp size size.bytes noBacking 1 (fun _ => a) with
      | some c => .trap (scalarTrap c)
      | none =>
        let s := touchSpans s w sp [(a.toNat, size.bytes)]
        let x := mkAcc .load sp true size sx scope ord w.issueAddr i [⟨0, a.toNat, []⟩]
        let (s, w) := openWindow s w x (.scalar sd.toNat size.regs) la.toNat 1
        .done s w

/-- LD (R225). -/
def execLd (h : LaneHdr) (vd va : Reg) (la : BitVec 4) (sx : Bool) (off : BitVec 24) (size : Size) (scope : Scope)
    (ord : Ord) (s : State) : Out :=
  laneLoad (.ld h vd va la sx off size scope ord) h .glob vd va la sx (sext off) size scope ord s

/-- LDS (R225). -/
def execLds (h : LaneHdr) (vd va : Reg) (la : BitVec 4) (sx : Bool) (off : BitVec 24) (size : Size) (ord : Ord)
    (s : State) : Out :=
  laneLoad (.lds h vd va la sx off size ord) h .spad vd va la sx (sext off) size .core ord s

/-- ACCRD (R193). -/
def execAccrd (h : LaneHdr) (vd va : Reg) (la : BitVec 4) (off : BitVec 24) (size : Size) (s : State) : Out :=
  laneLoad (.accrd h vd va la off size) h .orang vd va la false (sext off) size .core .plain s

/-- SLD (R225). -/
def execSld (h : WarpHdr) (sd sa : Reg) (la : BitVec 4) (sx : Bool) (off : BitVec 24) (size : Size) (scope : Scope)
    (ord : Ord) (s : State) : Out :=
  scalarLoad (.sld h sd sa la sx off size scope ord) h .glob sd sa la sx (sext off) size scope ord s

/-- SLDS (R225). -/
def execSlds (h : WarpHdr) (sd sa : Reg) (la : BitVec 4) (sx : Bool) (off : BitVec 24) (size : Size) (ord : Ord)
    (s : State) : Out :=
  scalarLoad (.slds h sd sa la sx off size ord) h .spad sd sa la sx (sext off) size .core ord s

/-! ## Stores inside a task (R235, R328) -/

/-- What the translations of a set store's parts answer. -/
inductive SetCheck where
  | ok (s : State)
  | wait (s : State)
  | fail (s : State) (fails : List (Nat × TrapReq))

/-- R328: translates every part of a set store; the lowest lanes first. -/
def checkSetParts (wid : Nat) (w : Warp) (x : Acc) : List Part → State → Bool → List (Nat × TrapReq) → SetCheck
  | [], s, waits, f => if waits then .wait s else if f.isEmpty then .ok s else .fail s f
  | p :: ps, s, waits, f =>
    match trAcc s (.word wid p.lane) (.word wid p.lane) w x p x.size.bytes .write with
    | .wait s => checkSetParts wid w x ps s true f
    | .err s c info => checkSetParts wid w x ps s waits (f ++ [(p.lane, ⟨c, p.addr, 0, info⟩)])
    | .ok s _ tier =>
      if 2 ≤ tier then
        let k := ((s.granuleAt (s.ctxOf w) p.addr).map granuleSet).getD 0
        checkSetParts wid w x ps s waits (f ++ [(p.lane, ⟨.set, p.addr, 0, BitVec.ofNat 32 k⟩)])
      else checkSetParts wid w x ps s waits f

/-- The cause that R74 reports among the failing lanes: SET before the logged causes, then the lowest lane's, with every
lane of that cause. -/
def pickFail (fails : List (Nat × TrapReq)) : TrapReq :=
  if fails.any fun f => f.2.cause == .set then gather fails .set
  else gather fails ((fails.head?.map (·.2.cause)).getD .page)

/-- The lanes that find the write buffer full, in ascending order (R328). -/
def overflowLanes (s : State) (w : Warp) (x : Acc) (t : TaskSlot) : LaneMask :=
  maskOf fun l =>
    (x.parts.any fun p => p.lane == l) &&
      let spans := (x.parts.filter fun p => p.lane ≤ l).map fun p => (s.effAddr w x p, x.size.bytes)
      let mine := (x.parts.filter fun p => p.lane == l).map fun p => (s.effAddr w x p, x.size.bytes)
      decide (512 < t.buf.length + t.newUnits spans) && t.newUnits mine != 0

/-- Writes a store's bytes into the write buffer; the highest lane wins (R7). -/
def bufferStore (s : State) (w : Warp) (x : Acc) : State :=
  s.modTask w fun t =>
    { t with buf := x.parts.foldl (fun m p =>
        let ea := s.effAddr w x p
        (List.range x.size.bytes).foldl (fun m i => putBuf x.seq m (ea + i) (p.addr + i) ((wordBytes p.data).getD i 0)) m) t.buf }

/-- A store inside a task: every byte must lie in a set. DESIGN CHOICE, notes/assumptions/117.md: TASK_CAP is tested last,
after the PAGE, PROTECT and SET that the translations find. -/
def setStore (i : Instr) (s : State) (w : Warp) (x : Acc) : Res :=
  let n := s.ctxOf w
  let out : LaneMask := if x.scalar then (if x.parts.any fun p => (s.granuleAt n p.addr).isNone then allLanes else 0)
    else maskOf fun l => x.parts.any fun p => p.lane == l && (s.granuleAt n p.addr).isNone
  if out != 0 then .trap ⟨.task, 0, out, opField i⟩
  else
    match s.taskSlot w with
    | none => .trap ⟨.task, 0, out, opField i⟩
    | some t =>
      let full := overflowLanes s w x t
      match checkSetParts s.cur w x x.parts s false [] with
      | .wait s => hold s w .atIssue i
      | .fail s fails =>
        let c := pickFail fails
        .trapIn s w (if x.scalar then scalarTrap c else c)
      | .ok s =>
        if full != 0 then
          let a := ((x.parts.find? fun p => p.lane == lowest full).map (·.addr)).getD 0
          .trap ⟨.taskCap, a, if x.scalar then allLanes else full, 0⟩
        else
          let s := bufferStore s w { x with seq := w.seq }
          .done (s.touch w (s.granulesOf n (x.parts.map fun p => (p.addr, x.size.bytes)))) { w with seq := w.seq + 1 }

/-! ## Stores (R226, R227, R193) -/

/-- Queues a store, or buffers it inside a task (R235). -/
def storeOut (i : Instr) (s : State) (w : Warp) (x : Acc) : Res :=
  if w.taskst && !x.parts.isEmpty then
    match x.space with
    | .glob => setStore i s w x
    | .spad | .orang => .trap ⟨.task, 0, if x.scalar then allLanes else maskOf fun l => x.parts.any fun p => p.lane == l, opField i⟩
  else .done s (enqueue w x)

/-- A lane store, R193 and R226. -/
def laneStore (i : Instr) (h : LaneHdr) (sp : Space) (vs va : Reg) (off : Int) (size : Size) (scope : Scope) (ord : Ord)
    (s : State) : Out :=
  laneOp i h [(vs.toNat, size.regs), (va.toNat, addrRegs sp)] notInHandler s fun w x =>
    withTeam s w fun t =>
      let ad := w.laneAddr sp va off
      match memTrap t sp size size.bytes (s.backingBad w size.bytes) x ad with
      | some c => .trap c
      | none =>
        let ps := (lanesOf x).map fun l => (⟨l, (ad l).toNat, w.vGroup l vs.toNat size.regs⟩ : Part)
        storeOut i s w (mkAcc .store sp false size false scope ord w.issueAddr i ps)

/-- A scalar store, R226. -/
def scalarStore (i : Instr) (h : WarpHdr) (sp : Space) (ss sa : Reg) (off : Int) (size : Size) (scope : Scope) (ord : Ord)
    (s : State) : Out :=
  warpOp i h none [(ss.toNat, size.regs), (sa.toNat, addrRegs sp)] anyMode s fun w =>
    withTeam s w fun t =>
      let a := w.scalarAddr sp sa off
      match memTrap t sp size size.bytes noBacking 1 (fun _ => a) with
      | some c => .trap (scalarTrap c)
      | none =>
        storeOut i s w (mkAcc .store sp true size false scope ord w.issueAddr i [⟨0, a.toNat, w.sGroup ss.toNat size.regs⟩])

/-- ST (R226). -/
def execSt (h : LaneHdr) (vs va : Reg) (off : BitVec 24) (size : Size) (scope : Scope) (ord : Ord) (s : State) : Out :=
  laneStore (.st h vs va off size scope ord) h .glob vs va (sext off) size scope ord s

/-- STS (R226). -/
def execSts (h : LaneHdr) (vs va : Reg) (off : BitVec 24) (size : Size) (ord : Ord) (s : State) : Out :=
  laneStore (.sts h vs va off size ord) h .spad vs va (sext off) size .core ord s

/-- ACCWR (R193). -/
def execAccwr (h : LaneHdr) (vs va : Reg) (off : BitVec 24) (size : Size) (s : State) : Out :=
  laneStore (.accwr h vs va off size) h .orang vs va (sext off) size .core .plain s

/-- SST (R226). -/
def execSst (h : WarpHdr) (ss sa : Reg) (off : BitVec 24) (size : Size) (scope : Scope) (ord : Ord) (s : State) : Out :=
  scalarStore (.sst h ss sa off size scope ord) h .glob ss sa (sext off) size scope ord s

/-- SSTS (R226). -/
def execSsts (h : WarpHdr) (ss sa : Reg) (off : BitVec 24) (size : Size) (ord : Ord) (s : State) : Out :=
  scalarStore (.ssts h ss sa off size ord) h .spad ss sa (sext off) size .core ord s

/-- CST (R227); the backing addresses of places in the private window are checked place by place (R361). -/
def execCst (h : LaneHdr) (vs va : Reg) (off : BitVec 24) (size : Size) (scope : Scope) (ord : Ord) (s : State) : Out :=
  let i : Instr := .cst h vs va off size scope ord
  laneOp i h [(vs.toNat, size.regs), (va.toNat, 2)] notInHandler s fun w x =>
    if x = 0 then .done s w
    else
      let b := w.laneAddr .glob va (sext off) (lowest x)
      let n := popMask x
      if b % size.bytes != 0 then .trap ⟨.align, shown b, x, size.bits.zeroExtend 32⟩
      else if b < 0 || !inHalf b.toNat (n * size.bytes) then .trap ⟨.vaRange, shown b, x, 0⟩
      else
        let ls := lanesOf x
        let ps := (List.range n).map fun k =>
          let l := ls.getD k 0
          (⟨l, b.toNat + k * size.bytes, w.vGroup l vs.toNat size.regs⟩ : Part)
        match ps.filter fun p => s.backingBad w size.bytes p.lane p.addr with
        | [] =>
          if w.taskst then .trap ⟨.task, 0, x, opField i⟩
          else .done s (enqueue w (mkAcc .store .glob false size false scope ord w.issueAddr i ps))
        | p :: rest => .trap ⟨.vaRange, p.addr, maskOf fun l => (p :: rest).any fun q => q.lane == l, 0⟩

/-! ## Atomics (R228, R229) -/

/-- R228: the registers of an atomic's operand. -/
def atomRegs (op : Aop) (size : Size) : Nat := match op with
  | .cas => 2 * size.regs
  | .add | .min | .max | .minn | .maxn | .and | .or | .xor | .exch | .fadd | .fmin | .fmax | .incwrap | .decwrap => size.regs

/-- A lane atomic. -/
def laneAtomic (i : Instr) (h : LaneHdr) (sp : Space) (vd va : Reg) (la : BitVec 4) (vb : Reg) (op : Aop) (off : Int)
    (size : Size) (scope : Scope) (ord : Ord) (s : State) : Out :=
  laneOp i h [(vd.toNat, size.regs), (va.toNat, addrRegs sp), (vb.toNat, atomRegs op size)] notInHandler s fun w x =>
    withTeam s w fun t =>
      let ad := w.laneAddr sp va off
      match memTrap t sp size size.bytes (s.backingBad w size.bytes) x ad with
      | some c => .trap c
      | none =>
        if w.taskst && x != 0 then .trap ⟨.task, 0, x, opField i⟩
        else
          let ps := (lanesOf x).map fun l => (⟨l, (ad l).toNat, w.vGroup l vb.toNat (atomRegs op size)⟩ : Part)
          let (s, w) := openWindow s w (mkAcc (.atomic op) sp false size false scope ord w.issueAddr i ps)
            (.lanes vd.toNat size.regs) la.toNat x
          .done s w

/-- ATOM (R229). -/
def execAtom (h : LaneHdr) (vd va : Reg) (la : BitVec 4) (vb : Reg) (aop : Aop) (off : BitVec 14) (size : Size)
    (scope : Scope) (ord : Ord) (s : State) : Out :=
  laneAtomic (.atom h vd va la vb aop off size scope ord) h .glob vd va la vb aop (sext off) size scope ord s

/-- ATOMS (R229). -/
def execAtoms (h : LaneHdr) (vd va : Reg) (la : BitVec 4) (vb : Reg) (aop : Aop) (off : BitVec 14) (size : Size)
    (ord : Ord) (s : State) : Out :=
  laneAtomic (.atoms h vd va la vb aop off size ord) h .spad vd va la vb aop (sext off) size .core ord s

/-- SATOM (R229). -/
def execSatom (h : WarpHdr) (sd sa : Reg) (la : BitVec 4) (sb : Reg) (aop : Aop) (off : BitVec 14) (size : Size)
    (scope : Scope) (ord : Ord) (s : State) : Out :=
  let i : Instr := .satom h sd sa la sb aop off size scope ord
  warpOp i h none [(sd.toNat, size.regs), (sa.toNat, 2), (sb.toNat, atomRegs aop size)] anyMode s fun w =>
    withTeam s w fun t =>
      let a := w.scalarAddr .glob sa (sext off)
      match memTrap t .glob size size.bytes noBacking 1 (fun _ => a) with
      | some c => .trap (scalarTrap c)
      | none =>
        if w.taskst then taskTrap i
        else
          let x := mkAcc (.atomic aop) .glob true size false scope ord w.issueAddr i
            [⟨0, a.toNat, w.sGroup sb.toNat (atomRegs aop size)⟩]
          let (s, w) := openWindow s w x (.scalar sd.toNat size.regs) la.toNat 1
          .done s w

/-! ## DISCARD, PREF, SPREF (R230, R231) -/

/-- DISCARD (R230): a line named by several lanes is discarded once. -/
def execDiscard (h : LaneHdr) (va : Reg) (off : BitVec 24) (s : State) : Out :=
  let i : Instr := .discard h va off
  laneOp i h [(va.toNat, 2)] notInHandler s fun w x =>
    withTeam s w fun t =>
      let ad := w.laneAddr .glob va (sext off)
      match memTrap t .glob .b8 1 (s.backingBad w 1) x ad with
      | some c => .trap c
      | none =>
        if w.taskst && x != 0 then .trap ⟨.task, 0, x, opField i⟩
        else
          let ps := (lanesOf x).map fun l => (⟨l, (ad l).toNat, []⟩ : Part)
          .done s (enqueue w (mkAcc .discard .glob false .b8 false .core .plain w.issueAddr i ps))

/-- R231: a prefetch of one address fills as a plain load does, or is dropped silently. -/
def prefetch (s : State) (w : Warp) (x : Acc) (p : Part) (a : Int) : State :=
  if a < 0 || !inHalf a.toNat 1 || (!x.scalar && s.backingBad w 1 p.lane a) then s
  else
    match trAcc s (.word s.cur 64) (.word s.cur 64) w x p 1 .read with
    | .wait _ => s
    | .err _ _ _ => s
    | .ok s' l _ =>
      match readGlobal s' w l 1 .core with
      | .val s'' _ => s''
      | .remote => s
      | .bad _ => s

/-- PREF (R231). -/
def execPref (h : LaneHdr) (va : Reg) (off : BitVec 24) (s : State) : Out :=
  let i : Instr := .pref h va off
  laneOp i h [(va.toNat, 2)] notInHandler s fun w x =>
    let acc := mkAcc .load .glob false .b8 false .core .plain w.issueAddr i []
    .done ((lanesOf x).foldl (fun s l =>
      let a := w.laneAddr .glob va (sext off) l
      prefetch s w acc ⟨l, a.toNat, []⟩ a) s) w

/-- SPREF (R231). -/
def execSpref (h : WarpHdr) (sa : Reg) (off : BitVec 24) (s : State) : Out :=
  let i : Instr := .spref h sa off
  warpOp i h none [(sa.toNat, 2)] anyMode s fun w =>
    let a := w.scalarAddr .glob sa (sext off)
    .done (prefetch s w (mkAcc .load .glob true .b8 false .core .plain w.issueAddr i []) ⟨0, a.toNat, []⟩ a) w

/-! ## SPCLR, SPQRY (R232, R233) -/

/-- SPCLR (R232). -/
def execSpclr (h : WarpHdr) (sa sb : Reg) (s : State) : Out :=
  let i : Instr := .spclr h sa sb
  warpOp i h none [] anyMode s fun w =>
    withTeam s w fun t =>
      let o := (w.sr sa.toNat).toNat
      let n := (w.sr sb.toNat).toNat
      if n = 0 then .done s w
      else if o % 128 != 0 then .trap (warpTrap .align o 7)
      else if t.spadBad o (128 * n) then .trap (warpTrap .spadRange o 0)
      else if w.taskst then taskTrap i
      else
        .done s (enqueue w (mkAcc .spclr .spad true .b128 false .core .plain w.issueAddr i
          [⟨0, o, [BitVec.ofNat 32 n]⟩]))

/-- SPQRY (R233). -/
def execSpqry (h : WarpHdr) (sd sa : Reg) (kind : Bool) (s : State) : Out :=
  let i : Instr := .spqry h sd sa kind
  warpOp i h none [] anyMode s fun w =>
    withTeam s w fun t =>
      let o := (w.sr sa.toNat).toNat
      if o % 4096 != 0 then .trap (warpTrap .align o 12)
      else if t.allot < o + 4096 then .trap (warpTrap .spadRange o 0)
      else if !w.storeQ.isEmpty then hold s w .atIssue i
      else
        let sp := t.spad w.part
        .done s (w.setS sd.toNat (maskOf fun k => if kind then t.lineZ w.part (o / 128 + k) else sp.present (o / 128 + k)))

/-! ## FENCE (R209, R236) -/

/-- R236: the conditions of a fence; done when they hold, with the copies that a release writes back written back and the
copies that an acquire names dropped. -/
def fenceStep (s : State) (w : Warp) (scope : Scope) (ord : Ord) : State × Flush :=
  if (isRel ord && !w.storeQ.isEmpty) || w.loadsOlder w.seq then (s, .wait)
  else
    match (if isRel ord then releaseCopies s (Config.dieOfCore w.core) scope else (s, .done)) with
    | (s, .done) => (if isAcq ord then s.acquire w.core scope else s, .done)
    | r => r

/-- FENCE (R236). -/
def execFence (h : WarpHdr) (scope : Scope) (ord : Ord) (s : State) : Out :=
  let i : Instr := .fence h scope ord
  warpOp i h none [] anyMode s fun w =>
    let (s, w) := pumpAll s s.cur w
    match fenceStep s w scope ord with
    | (s, .done) => .done s w
    | (s, .wait) => hold s w .fence i
    | (s, .fail t) => .trapIn s w (scalarTrap t)

end Sys2Proof.Machine
end

