-- ==== Sys2Proof/Machine/Barrier.lean ====
section
/-! DEFINITION. Transaction barriers (R238 to R243). -/

namespace Sys2Proof.Machine

def Team.mbar? (t : Team) (part b : Nat) : Option Mbar := kget? t.mbars (part * 32 + b)
def Team.setMbar (t : Team) (part b : Nat) (x : Mbar) : Team := { t with mbars := kput t.mbars (part * 32 + b) x }

/-- A copy that reports to the barrier is in flight. -/
def reporting (s : State) (tid core b : Nat) : Bool := (s.core core).copies.any fun c => c.2.team == tid && c.2.bar == some b

/-- R238: a barrier is idle. -/
def Mbar.idle (x : Mbar) (s : State) (tid core b : Nat) : Bool :=
  x.arrive == x.expect && x.pend == 0 && !reporting s tid core b && !x.err

/-- The barrier records of a core that are bound. -/
def boundRecords (s : State) (core : Nat) : Nat :=
  lsum (s.teams.map fun t => match t.2.cores.idxOf? core with
    | none => 0
    | some part => t.2.mbars.countP fun e => e.1 / 32 == part)

/-- R241, R242: a waiting MBWAIT whose phase has completed returns true. -/
def wakeMbwait (s : State) (tid core b : Nat) (phase : W32) : State :=
  (s.teamWarps tid).foldl (fun s k =>
    match s.warp? k with
    | none => s
    | some w =>
      if w.core != core then s
      else match w.wait with
      | none => s
      | some x => match x.kind with
        | .mbwait b' ph qd _ _ =>
          if b' = b && ph != phase then
            (s.acquire w.core .device).setWarp k ((w.setQ qd true).release x)
          else s
        | _ => s) s

/-- R239: a phase completes when ARRIVE and PEND are both 0. -/
def mbEvaluate (s : State) (tid part core b : Nat) : State :=
  match s.team? tid with
  | none => s
  | some t => match t.mbar? part b with
    | none => s
    | some x =>
      if x.arrive = 0 && x.pend = 0 then
        let x := { x with phase := x.phase + 1, arrive := x.expect }
        wakeMbwait (s.setTeam tid (t.setMbar part b x)) tid core b x.phase
      else s

/-- R238, R256: a delivery of n bytes to a barrier. -/
def creditBytes (s : State) (tid part core : Nat) (bar : Option Nat) (n : Nat) : State :=
  match bar with
  | none => s
  | some b => match s.team? tid with
    | none => s
    | some t => match t.mbar? part b with
      | none => s
      | some x =>
        let p := x.pend - n
        if p < -(2 ^ 23) then s.setTeam tid (t.setMbar part b { x with err := true })
        else mbEvaluate (s.setTeam tid (t.setMbar part b { x with pend := p })) tid part core b

/-- MBAR with the barrier's index. -/
def mbTrap (b : BitVec 5) : Res := .trap (warpTrap .mbar 0 (b.zeroExtend 32))

/-- The frame of the barrier words: guard, TASK (R235), the team. DESIGN CHOICE, notes/assumptions/125.md: inside a task a
barrier word reports TASK, whether or not it would raise MBAR too. -/
def mbOp (i : Instr) (h : WarpHdr) (s : State) (f : Warp → Team → Res) : Out :=
  warpOp i h none [] anyMode s fun w => if w.taskst then taskTrap i else withTeam s w (f w)

/-- Another team's MBINIT on the core is to be served first (R241). -/
def earlierMbinit (s : State) (w : Warp) (t : Team) : Bool :=
  s.warps.any fun e => e.2.core == w.core && e.2.team != w.team
    && (match e.2.wait with | some x => x.kind == .mbinit | none => false)
    && decide (((s.team? e.2.team).map (·.admitOrder)).getD 0 < t.admitOrder)

/-- MBINIT (R241). -/
def execMbinit (h : WarpHdr) (bi : BitVec 5) (sa : Reg) (s : State) : Out :=
  let i : Instr := .mbinit h bi sa
  mbOp i h s fun w t =>
    let b := bi.toNat
    let c := (w.sr sa.toNat).toNat
    let old := t.mbar? w.part b
    if 65535 < c then mbTrap bi
    else if (old.map fun x => !x.idle s w.team w.core b).getD false then mbTrap bi
    else if c = 0 then .done (s.setTeam w.team { t with mbars := kdel t.mbars (w.part * 32 + b) }) w
    else if old.isNone && (decide (Config.barrierRecords ≤ boundRecords s w.core) || earlierMbinit s w t) then
      hold s w .mbinit i
    else .done (wakeMbwait (s.setTeam w.team (t.setMbar w.part b ⟨0, c, c, 0, false⟩)) w.team w.core b 0) w

/-- MBEXP (R241). -/
def execMbexp (h : WarpHdr) (bi : BitVec 5) (sa : Reg) (s : State) : Out :=
  mbOp (.mbexp h bi sa) h s fun w t =>
    match t.mbar? w.part bi.toNat with
    | none => mbTrap bi
    | some x =>
      let p := x.pend + (w.sr sa.toNat).toNat
      if x.err || decide (2 ^ 23 - 1 < p) then mbTrap bi
      else .done (mbEvaluate (s.setTeam w.team (t.setMbar w.part bi.toNat { x with pend := p })) w.team w.part w.core bi.toNat) w

/-- MBARR (R241): a release at core scope. -/
def execMbarr (h : WarpHdr) (bi : BitVec 5) (sa : Reg) (tx : Bool) (s : State) : Out :=
  let i : Instr := .mbarr h bi sa tx
  mbOp i h s fun w t =>
    match t.mbar? w.part bi.toNat with
    | none => mbTrap bi
    | some x =>
      let p := if tx then x.pend + (w.sr sa.toNat).toNat else x.pend
      if x.err || x.arrive = 0 || (tx && decide (2 ^ 23 - 1 < p)) then mbTrap bi
      else
        let (s, w) := pumpAll s s.cur w
        if !w.allPerformed then hold s w .atIssue i
        else withTeam s w fun t =>
          .done (mbEvaluate (s.setTeam w.team (t.setMbar w.part bi.toNat { x with pend := p, arrive := x.arrive - 1 }))
            w.team w.part w.core bi.toNat) w

/-- The periods that the device time counter has counted since a moment (R55). -/
def State.elapsed (s : State) (start : Nat) : Nat := (s.time - BitVec.ofNat 64 start).toNat

/-- MBWAIT (R241, R242). -/
def execMbwait (h : WarpHdr) (bi : BitVec 5) (sa sb : Reg) (qd : BitVec 3) (s : State) : Out :=
  let i : Instr := .mbwait h bi sa sb qd
  mbOp i h s fun w t =>
    match t.mbar? w.part bi.toNat with
    | none => mbTrap bi
    | some x =>
      let limit := w.sr sb.toNat
      if x.err then mbTrap bi
      else if x.phase != w.sr sa.toNat then
        .done (s.acquire w.core .device) (w.setQ qd.toNat true)
      else if limit = 0 then .done s (w.setQ qd.toNat false)
      else hold s w (.mbwait bi.toNat (w.sr sa.toNat) qd.toNat s.time.toNat limit) i

/-- MBWAIT_TIMEOUT (R241): a wait with a limit that has passed compares PHASE once more; while it is the phase awaited, it
returns false and acquires nothing. -/
def execMbwaitTimeout (warp : Nat) (s : State) : Out :=
  match s.warp? warp with
  | none => .next s
  | some w => match w.wait with
    | none => .next s
    | some x => match x.kind with
      | .mbwait b ph qd start limit =>
        let passed := ((s.team? w.team).bind fun t => t.mbar? w.part b).any fun m => m.phase != ph
        if limit = 0xFFFFFFFF || s.elapsed start < limit.toNat then .next s
        else if passed then
          .next ((s.acquire w.core .device).setWarp warp ((w.setQ qd true).release x))
        else .next (s.setWarp warp ((w.setQ qd false).release x))
      | _ => .next s

end Sys2Proof.Machine
end

