-- ==== Sys2Proof/Machine/Geom.lean ====
section
/-! DEFINITION. The geometry of copies and transforms (R244, R247 to R256, R261): which bytes a transfer reads and writes
and what it computes, with no state. -/

namespace Sys2Proof.Machine

/-! ## Layout records (R244, R247) -/

/-- A little-endian field of a record. -/
def recNat (r : List Byte) (off n : Nat) : Nat := leNat ((r.drop off).take n)

def recEt (r : List Byte) : Nat := recNat r 0 1
def recRank (r : List Byte) : Nat := recNat r 1 1
def recSpitch (r : List Byte) : Nat := recNat r 2 2
def recDim (r : List Byte) (d : Nat) : Nat := recNat r (0x08 + 4 * d) 4
/-- STRIDE1 to STRIDE3. -/
def recStride (r : List Byte) (d : Nat) : Nat := if d = 0 then 0 else recNat r (0x18 + 8 * (d - 1)) 8
def recBox (r : List Byte) (d : Nat) : Nat := recNat r (0x30 + 2 * d) 2
def recDqt (r : List Byte) : Nat := recNat r 0x40 1
def recDqm (r : List Byte) : Nat := recNat r 0x41 1
def recQt (r : List Byte) : Nat := recNat r 0x42 1
def recKtop (r : List Byte) : Nat := recNat r 0x43 1
def recRcnt (r : List Byte) : Nat := recNat r 0x44 1
def recBasex (r : List Byte) : Int := (BitVec.ofNat 8 (recNat r 0x45 1)).toInt
def recRstride (r : List Byte) : Nat := recNat r 0x48 4
def recScale (r : List Byte) : Nat := recNat r 0x50 8
def recResid (r : List Byte) : Nat := recNat r 0x58 8

/-- R247: the lowest geometry code that refuses a record. -/
def recRefusal (r : List Byte) : Option W32 :=
  let rank := recRank r
  let ds := List.range 4
  if rank = 0 || 4 < rank then some 0x30
  else if recSpitch r = 0 || recSpitch r % 16 != 0 then some 0x31
  else if ds.any fun d => decide (d < rank) && recDim r d == 0 then some 0x32
  else if ds.any fun d => decide (1 ≤ d) && decide (d < rank) && recStride r d % 16 != 0 then some 0x33
  else if ds.any fun d => recBox r d == 0 || decide (256 < recBox r d) || (decide (rank ≤ d) && recBox r d != 1) then some 0x34
  else if 0xE ≤ recEt r then some 0x35
  else none

/-! ## Types (R140) -/

/-- Width in bits of an element type code. A code that names no type counts as f32. -/
def etWidth (c : Nat) : Nat :=
  match c with
  | 0x0 | 0x1 | 0x6 => 32
  | 0x2 | 0x3 | 0x7 | 0x8 => 16
  | 0x4 | 0x5 | 0x9 | 0xA => 8
  | 0xB | 0xC => 6
  | 0xD => 4
  | _ => 32

/-- The floating-point format of a type code. -/
def etFmt (c : Nat) : Fmt :=
  match c with
  | 0x7 => .f16 | 0x8 => .bf16 | 0x9 => .e5m2 | 0xA => .e4m3 | 0xB => .e3m2 | 0xC => .e2m3 | 0xD => .e2m1 | _ => .f32

/-- The packing group of a type (R123, R248). -/
def packGroup (c : Nat) : Nat := match c with | 0xB | 0xC => 4 | 0xD => 2 | _ => 1

/-! ## Transfers -/

def Xf.stage (x : Xf) (k : Nat) : Bool := x.chain.testBit k
def Xf.et (x : Xf) : Nat := recEt x.rcd
def Xf.box (x : Xf) (d : Nat) : Nat := recBox x.rcd d
def Xf.dim (x : Xf) (d : Nat) : Nat := recDim x.rcd d
def Xf.rank (x : Xf) : Nat := recRank x.rcd

/-- Type of the image's elements (R254, R255). -/
def Xf.imgType (x : Xf) : Nat := if x.load && x.stage 1 then recDqt x.rcd else x.et
/-- Type of the tensor's elements (R248, R255). -/
def Xf.tenType (x : Xf) : Nat := if !x.load && x.stage 1 then recQt x.rcd else x.et
def Xf.wi (x : Xf) : Nat := etWidth x.imgType
def Xf.wt (x : Xf) : Nat := etWidth x.tenType
def Xf.transposed (x : Xf) : Bool := x.load && x.stage 2

/-- R248, R254: bytes of an image row and number of rows. -/
def Xf.rb (x : Xf) : Nat := ceilDiv ((if x.transposed then x.box 1 else x.box 0) * x.wi) 8
def Xf.rows (x : Xf) : Nat := (if x.transposed then x.box 0 else x.box 1) * x.box 2 * x.box 3
/-- Bytes from the first to the last of one image. -/
def Xf.extent (x : Xf) : Nat := (x.rows - 1) * recSpitch x.rcd + x.rb
/-- The number of images (R255). -/
def Xf.images (x : Xf) : Nat := if !x.load && x.stage 0 then recRcnt x.rcd else 1
/-- R256: the transfer size T. -/
def Xf.size (x : Xf) : Nat := x.rows * x.rb * x.images

/-- Image bytes that are counted for chunks, and the number of chunks (R261). -/
def Xf.count (x : Xf) : Nat := x.rows * x.rb
def Xf.chunks (x : Xf) : Nat := ceilDiv x.count 4096

/-- The offset from the image's base of counted byte p. -/
def Xf.imgOff (x : Xf) (p : Nat) : Nat := p / x.rb * recSpitch x.rcd + p % x.rb

/-- Box indices of the element at place k of an image row. -/
def Xf.boxIdx (x : Xf) (row k : Nat) : List Nat :=
  if x.transposed then [row % x.box 0, k, row / x.box 0 % x.box 2, row / x.box 0 / x.box 2]
  else [k, row % x.box 1, row / x.box 1 % x.box 2, row / x.box 1 / x.box 2]

/-- Tensor coordinates of a box element; dimensions beyond RANK stay 0. -/
def Xf.coord (x : Xf) (i : List Nat) (d : Nat) : Int := if d < x.rank then x.c.getD d 0 + i.getD d 0 else 0

/-- R248, R249: the element is in bounds. -/
def Xf.inBounds (x : Xf) (i : List Nat) : Bool :=
  (List.range 4).all fun d => !decide (d < x.rank) || (decide (0 ≤ x.coord i d) && decide (x.coord i d < x.dim d))

/-- The base of the tensor row of a box element. -/
def Xf.rowAddr (x : Xf) (i : List Nat) : Nat :=
  x.tbase + (x.coord i 1).toNat * recStride x.rcd 1 + (x.coord i 2).toNat * recStride x.rcd 2
    + (x.coord i 3).toNat * recStride x.rcd 3

/-- R254: the number of a tensor row. -/
def Xf.rowIndex (x : Xf) (i : List Nat) : Nat :=
  let c1 := (x.coord i 1).toNat
  let c2 := (x.coord i 2).toNat
  let c3 := (x.coord i 3).toNat
  let d1 := if 1 < x.rank then x.dim 1 else 1
  let d2 := if 2 < x.rank then x.dim 2 else 1
  c1 + d1 * (c2 + d2 * c3)

/-- R254: bytes of a compressed pair, and of a block. -/
def Xf.pairSize (x : Xf) : Nat := if x.et = 6 then 8 else 4
def Xf.blockSize (x : Xf) : Nat := recKtop x.rcd * x.pairSize

/-- The stage writes or reads compressed blocks. -/
def Xf.compressed (x : Xf) : Bool := if x.load then x.stage 0 else x.stage 2

/-- The tensor bytes of the elements c0 to c0 + n − 1 of a row: first byte and length. Compressed rows go by blocks. -/
def Xf.rowSpan (x : Xf) (i : List Nat) (c0 n : Nat) : Nat × Nat :=
  if x.compressed then (x.rowAddr i + c0 / 64 * x.blockSize, ((c0 + n - 1) / 64 + 1 - c0 / 64) * x.blockSize)
  else
    let lo := c0 * x.wt / 8
    (x.rowAddr i + lo, ceilDiv ((c0 + n) * x.wt) 8 - lo)

/-- R254: the address of the scale byte of an element. -/
def Xf.scaleAddr (x : Xf) (i : List Nat) (c0 : Nat) : Nat :=
  if x.load && recDqm x.rcd != 0 then recScale x.rcd + x.rowIndex i * ceilDiv (x.dim 0) 32 + c0 / 32
  else recScale x.rcd + x.rowIndex i * ceilDiv (x.dim 0) 16 + c0 / 16

/-- R255: the address of an element's residual. -/
def Xf.residAddr (x : Xf) (i : List Nat) (c0 : Nat) : Nat :=
  recResid x.rcd + x.rowIndex i * (x.dim 0) * etWidth x.et / 8 + c0 * etWidth x.et / 8

/-- The chain uses SCALE, RESID. -/
def Xf.usesScale (x : Xf) : Bool := x.stage 1
def Xf.usesResid (x : Xf) : Bool := !x.load && x.stage 2

/-! ## The checks of R251 -/

/-- The tensor rows of the box: for each, its box index with i0 = 0 and the in-bounds range of dimension 0. -/
def Xf.tensorRows (x : Xf) : List (List Nat × Nat × Nat) :=
  let c0 := x.coord [0, 0, 0, 0] 0
  let lo := (max c0 0).toNat
  let hi := (min (c0 + x.box 0) (x.dim 0)).toNat
  if hi ≤ lo then []
  else
    ((List.range (x.box 1 * x.box 2 * x.box 3)).map fun r =>
      ([0, r % x.box 1, r / x.box 1 % x.box 2, r / x.box 1 / x.box 2], lo, hi - lo)).filter fun e =>
        x.inBounds [(lo : Int) - c0 |>.toNat, e.1.getD 1 0, e.1.getD 2 0, e.1.getD 3 0]

/-- All global bytes that the in-bounds elements occupy, with the scale and residual bytes of the chain. -/
def Xf.globalSpans (x : Xf) : List (Nat × Nat) :=
  x.tensorRows.flatMap fun (i, lo, n) =>
    [x.rowSpan i lo n]
      ++ (if x.usesScale then [(x.scaleAddr i lo, x.scaleAddr i (lo + n - 1) + 1 - x.scaleAddr i lo)] else [])
      ++ (if x.usesResid then [(x.residAddr i lo, n * etWidth x.et / 8)] else [])

/-- The lowest byte of [a, a + n) that is not canonical or lies past the top. -/
def badByte (a n : Nat) : Option Nat :=
  if n = 0 then none
  else if a < 2 ^ 64 - 2 ^ 56 && 2 ^ 56 < a + n then some (max a (2 ^ 56))
  else if 2 ^ 64 < a + n then some (max a (2 ^ 64))
  else none

/-- The least of a list. -/
def leastOf (l : List Nat) : Option Nat := l.foldl (fun b a => match b with | none => some a | some c => some (min a c)) none

/-- R251 step 3. -/
def Xf.vaBad (x : Xf) : Option Nat := leastOf (x.globalSpans.filterMap fun e => badByte e.1 e.2)

/-- The lowest byte of [a, a + n) outside the allotment or in pergola storage (R222). -/
def Team.lowBad (t : Team) (a n : Nat) : Option Nat :=
  if n = 0 then none
  else
    let past := if t.allot < a + n then some (max a t.allot) else none
    let perg := if t.desc.inPergola a n then some (max a (t.desc.spro - t.desc.pergTotal)) else none
    leastOf (past.toList ++ perg.toList)

/-- The image bytes of a copy: one span for each row of each image. -/
def Xf.imageSpans (x : Xf) : List (Nat × Nat) :=
  (List.range x.images).map fun r => (x.img + r * recRstride x.rcd, x.extent)

/-- R251 step 4. -/
def Xf.spadBad (x : Xf) (t : Team) : Option Nat := leastOf (x.imageSpans.filterMap fun e => t.lowBad e.1 e.2)

/-- R253: the block along dimension 0. -/
def Xf.block (x : Xf) : Nat :=
  if x.load then (if x.stage 0 then 64 else if x.stage 1 then (if recDqm x.rcd = 0 then 8 else 32) else 1)
  else if x.stage 2 then 64 else if x.stage 1 then 16 else 1

/-- R253: a chain's types are accepted. -/
def Xf.typesOk (x : Xf) : Bool :=
  let float (c : Nat) : Bool := c == 6 || c == 7 || c == 8
  let narrow (c : Nat) : Bool := decide (9 ≤ c) && decide (c ≤ 0xD)
  let et := x.et
  if x.load then
    (!x.stage 0 || float et)
      && (!x.stage 1 || (narrow et && float (recDqt x.rcd) && decide (recDqm x.rcd ≤ 1)))
      && (!x.stage 2 || x.wi == 8 || x.wi == 16 || x.wi == 32)
  else
    (!x.stage 0 || float et || et == 0)
      && (!x.stage 1 || (float et && narrow (recQt x.rcd)))
      && (!x.stage 2 || float et)

/-- R252: the first code from 0x21 that refuses the record and chain. -/
def Xf.fmtBad (x : Xf) : Option W32 :=
  let m := x.block
  let g := packGroup x.tenType
  let off (n : Int) : Bool := n % m != 0 || n % g != 0
  if (x.load && x.stage 0 && x.stage 1) || (!x.load && x.stage 1 && x.stage 2) then some 0x21
  else if !x.typesOk then some 0x22
  else if off (x.c.getD 0 0) || off (x.box 0) || off (x.dim 0) then some 0x23
  else if recSpitch x.rcd < x.rb then some 0x24
  else if (x.compressed && (recKtop x.rcd = 0 || 16 < recKtop x.rcd))
      || (!x.load && x.stage 0 && (recRcnt x.rcd < 2 || 8 < recRcnt x.rcd || recRstride x.rcd % 128 != 0
        || recRstride x.rcd < x.extent)) then some 0x25
  else if (x.usesScale && recScale x.rcd % 64 != 0) || (x.usesResid && recResid x.rcd % 64 != 0) then some 0x26
  else none

/-! ## Touched lines (R251, R256) -/

/-- The scratchpad lines that hold a byte that a load copy writes. -/
def Xf.lines (x : Xf) : List Nat :=
  (List.range x.rows).foldl (fun l r => (linesOf (x.img + r * recSpitch x.rcd) x.rb).foldl addNum l) []

/-- The bytes that a load copy writes in a line. -/
def Xf.lineBytes (x : Xf) (line : Nat) : Nat :=
  lsum ((List.range x.rows).map fun r =>
    let a := x.img + r * recSpitch x.rcd
    min (a + x.rb) (128 * line + 128) - max a (128 * line))

/-- Every byte that the copy writes in a line lies in the first n counted bytes. -/
def Xf.lineWritten (x : Xf) (line n : Nat) : Bool :=
  (List.range x.rows).all fun r =>
    let a := x.img + r * recSpitch x.rcd
    let last := min (a + x.rb) (128 * line + 128)
    last ≤ max a (128 * line) || decide (r * x.rb + (last - a) ≤ n)

/-! ## Elements -/

/-- w bits at a bit address. -/
def bitsAt (rd : Nat → Byte) (bitAddr w : Nat) : Nat :=
  leNat (tab ((bitAddr % 8 + w + 7) / 8) fun k => rd (bitAddr / 8 + k)) / 2 ^ (bitAddr % 8) % 2 ^ w

/-- The code of a tensor element of a plain row. -/
def Xf.tenCode (x : Xf) (rd : Nat → Byte) (i : List Nat) : Nat :=
  bitsAt rd (8 * x.rowAddr i + (x.coord i 0).toNat * x.wt) x.wt

/-- R254: an element of an expanded block. -/
def Xf.expandCode (x : Xf) (rd : Nat → Byte) (i : List Nat) : Nat :=
  let c0 := (x.coord i 0).toNat
  let base := (x.rowSpan i c0 1).1
  let vo := if x.et = 6 then 4 else 2
  (List.range (recKtop x.rcd)).foldl (fun v p =>
    let a := base + p * x.pairSize
    if bitsAt rd (8 * a) 16 = c0 % 64 then bitsAt rd (8 * (a + vo)) x.wi else v) 0

/-- R254: a dequantised element. -/
def Xf.dequantCode (x : Xf) (rd : Nat → Byte) (i : List Nat) : Nat :=
  let c0 := (x.coord i 0).toNat
  let v := valOf (etFmt x.et) (x.tenCode rd i)
  let s := (rd (x.scaleAddr i c0)).toNat
  let f := etFmt (recDqt x.rcd)
  if recDqm x.rcd = 0 then
    let d := if c0 / 8 % 2 = 0 then s % 16 else s / 16
    (convert f .rn false (v.scale (recBasex x.rcd + d))).1
  else if s = 0xFF then f.canonNaN
  else (convert f .rn false (v.scale ((s : Int) - 127))).1

/-- The code that a load puts at a box element. -/
def Xf.loadCode (x : Xf) (rd : Nat → Byte) (i : List Nat) : Nat :=
  if !x.inBounds i then 0
  else if x.stage 0 then x.expandCode rd i
  else if x.stage 1 then x.dequantCode rd i
  else x.tenCode rd i

/-- The places of the elements of an image row that overlap byte j of it. -/
def Xf.placesAt (x : Xf) (j : Nat) : List Nat := tab ((8 * j + 7) / x.wi + 1 - 8 * j / x.wi) fun k => 8 * j / x.wi + k

/-- Counted image byte p of a load. -/
def Xf.loadByte (x : Xf) (rd : Nat → Byte) (p : Nat) : Byte :=
  let row := p / x.rb
  let j := p % x.rb
  let n := if x.transposed then x.box 1 else x.box 0
  let sum := lsum ((x.placesAt j).map fun k =>
    if k < n then x.loadCode rd (x.boxIdx row k) * 2 ^ (k * x.wi - 8 * j) / 2 ^ (8 * j - k * x.wi) % 256 else 0)
  BitVec.ofNat 8 sum

/-! ## Chunks -/

/-- Counted bytes of chunk k. -/
def Xf.chunkBytes (x : Xf) (k : Nat) : List Nat := tab (min 4096 (x.count - 4096 * k)) fun i => 4096 * k + i

/-- The box elements that begin in chunk k, in order (R261). -/
def Xf.chunkElems (x : Xf) (k : Nat) : List (List Nat) :=
  ((x.chunkBytes k).filterMap fun p =>
    let j := p % x.rb
    let e := 8 * j / x.wi
    if (e * x.wi + 7) / 8 = j then some (x.boxIdx (p / x.rb) e) else none)

/-- The global source bytes of a chunk: for a load, tensor and scale bytes; for a store, residuals. -/
def Xf.chunkReads (x : Xf) (k : Nat) : List (Nat × Nat) :=
  if x.load then
    ((x.chunkBytes k).flatMap fun p => (x.placesAt (p % x.rb)).flatMap fun e =>
      let i := x.boxIdx (p / x.rb) e
      if x.inBounds i then
        let c0 := (x.coord i 0).toNat
        x.rowSpan i c0 1 :: (if x.stage 1 then [(x.scaleAddr i c0, 1)] else [])
      else []).eraseDups
  else if x.usesResid then
    ((x.chunkElems k).filter x.inBounds).map fun i => (x.residAddr i (x.coord i 0).toNat, etWidth x.et / 8)
  else []

/-- Counted image byte p holds a bit of an element that is in bounds (R249). -/
def Xf.usesByte (x : Xf) (p : Nat) : Bool :=
  (x.placesAt (p % x.rb)).any fun k => decide (k < x.box 0) && x.inBounds (x.boxIdx (p / x.rb) k)

/-- The image bytes that a chunk of a store reads, as offsets from the image's base: those of elements in bounds (R249). -/
def Xf.chunkImage (x : Xf) (k : Nat) : List Nat :=
  (List.range x.images).flatMap fun r =>
    ((x.chunkBytes k).filter x.usesByte).map fun p => r * recRstride x.rcd + x.imgOff p

/-- The counted place of the image byte at an offset, where the copy writes one there. -/
def Xf.placeOf (x : Xf) (off : Nat) : Option Nat :=
  let row := off / recSpitch x.rcd
  let j := off % recSpitch x.rcd
  if row < x.rows && j < x.rb then some (row * x.rb + j) else none

/-- The image writes of a chunk of a load: offsets and bytes. -/
def Xf.loadOut (x : Xf) (k : Nat) (rd : Nat → Byte) : List (Nat × Byte) :=
  (x.chunkBytes k).map fun p => (x.imgOff p, x.loadByte rd p)

/-- The code of a box element in source image r; `im` reads an image byte by its offset. -/
def Xf.imgCode (x : Xf) (im : Nat → Byte) (r : Nat) (i : List Nat) : Nat :=
  let row := i.getD 1 0 + x.box 1 * (i.getD 2 0 + x.box 2 * i.getD 3 0)
  bitsAt im (8 * (r * recRstride x.rcd + row * recSpitch x.rcd) + i.getD 0 0 * x.wi) x.wi

/-- R255: the reduced f32 code of an element. -/
def Xf.reduced (x : Xf) (im : Nat → Byte) (i : List Nat) : Nat :=
  (List.range (x.images - 1)).foldl (fun acc r =>
    let v := x.imgCode im (r + 1) i
    if x.et = 0 then (acc + v) % 2 ^ 32
    else (roundNE .f32 (vAdd (valOf .f32 acc) (valOf (etFmt x.et) v)).1).1)
    (let v := x.imgCode im 0 i
     if x.et = 0 then v else (roundNE .f32 (valOf (etFmt x.et) v)).1)

/-- The value that enters quantise or compress. -/
def Xf.storeVal (x : Xf) (im : Nat → Byte) (i : List Nat) : Val :=
  if x.stage 0 then valOf .f32 (x.reduced im i) else valOf (etFmt x.et) (x.imgCode im 0 i)

/-- Elements c0 to c0 + n − 1 from one on, along dimension 0. -/
def alongRow (i : List Nat) (n : Nat) : List (List Nat) := tab n fun k => lset i 0 (i.getD 0 0 + k)

/-- Bytes of a run of codes of a width that starts on a byte. -/
def packCodes (w : Nat) (codes : List Nat) : List Byte :=
  leBytes (ceilDiv (codes.length * w) 8) (codes.foldr (fun c r => c % 2 ^ w + 2 ^ w * r) 0)

/-- Address and bytes as single writes. -/
def writesAt (a : Nat) (bs : List Byte) : List (Nat × Byte) := tab bs.length fun k => (a + k, bs.getD k 0)

/-- R255: the codes and delta of a group of 8. -/
def Xf.quantGroup (x : Xf) (im : Nat → Byte) (i : List Nat) : List Nat × Nat :=
  let f := etFmt (recQt x.rcd)
  let vs := (alongRow i 8).map (x.storeVal im)
  let d := groupDelta f (recBasex x.rcd) vs
  (vs.map fun v => (quantise f (recBasex x.rcd) d v).1, d)

/-- R255: ranks b below a in the order of compress: NaN first, then larger magnitude, then lower index. -/
def rankBefore (f : Fmt) (a b : Nat × Nat) : Bool :=
  let va := valOf f a.2
  let vb := valOf f b.2
  let mag (c : Nat) : Nat := c % f.signW
  if va.isNaN && vb.isNaN then decide (a.1 < b.1)
  else if va.isNaN then true
  else if vb.isNaN then false
  else if mag a.2 = mag b.2 then decide (a.1 < b.1)
  else decide (mag b.2 < mag a.2)

/-- The indices of the first n of the ranking, ascending. -/
def topIndices (f : Fmt) (ys : List Nat) (n : Nat) : List Nat :=
  let es := (List.range ys.length).map fun k => (k, ys.getD k 0)
  (List.range ys.length).filter fun k =>
    decide ((es.countP fun e => e.1 != k && rankBefore f e (k, ys.getD k 0)) < n)

/-- R255, R261: the writes of a chunk of a store: to the tensor and then to the scales; and to the residuals. The index of
an f32 pair is written as a word, as the worked example shows. -/
def Xf.storeOut (x : Xf) (k : Nat) (rd im : Nat → Byte) : List (Nat × Byte) × List (Nat × Byte) :=
  let f := etFmt x.et
  let es := (x.chunkElems k).filter x.inBounds
  let starts (n : Nat) := es.filter fun i => (x.coord i 0).toNat % n == 0
  if x.stage 2 then
    let blocks := starts 64
    let ysOf (i : List Nat) : List Nat := (alongRow i 64).map fun e =>
      let r := bitsAt rd (8 * x.residAddr e (x.coord e 0).toNat) x.wi
      (convert f .rn false (vAdd (x.storeVal im e) (valOf f r)).1).1
    (blocks.flatMap fun i =>
        let c0 := (x.coord i 0).toNat
        let ys := ysOf i
        let keep := topIndices f ys (recKtop x.rcd)
        let base := (x.rowSpan i c0 1).1
        (List.range keep.length).flatMap fun p =>
          let a := base + p * x.pairSize
          let e := keep.getD p 0
          let y := ys.getD e 0
          let y := if (valOf f y).isNaN then f.canonNaN else y
          if x.et = 6 then writesAt a (leBytes 4 e ++ leBytes 4 y)
          else writesAt a (leBytes 2 e ++ leBytes 2 y),
      blocks.flatMap fun i =>
        let c0 := (x.coord i 0).toNat
        let ys := ysOf i
        let keep := topIndices f ys (recKtop x.rcd)
        writesAt (x.residAddr i c0) (packCodes x.wi ((List.range 64).map fun e => if keep.contains e then 0 else ys.getD e 0)))
  else if x.stage 1 then
    let group (i : List Nat) := (x.quantGroup im i, x.quantGroup im (lset i 0 (i.getD 0 0 + 8)))
    (((starts 16).flatMap fun i =>
        let g := group i
        writesAt (x.rowSpan i (x.coord i 0).toNat 1).1 (packCodes x.wt (g.1.1 ++ g.2.1)))
      ++ (starts 16).flatMap fun i =>
        let g := group i
        writesAt (x.scaleAddr i (x.coord i 0).toNat) [BitVec.ofNat 8 (g.1.2 + 16 * g.2.2)], [])
  else if x.stage 0 then
    (es.flatMap fun i =>
        let a := x.reduced im i
        let code := if x.et = 0 then a else (convert f .rn false (valOf .f32 a)).1
        writesAt (x.rowSpan i (x.coord i 0).toNat 1).1 (leBytes (x.wi / 8) code), [])
  else
    -- a plain row: its bytes correspond one to one
    ((x.chunkBytes k).filterMap fun p =>
        let j := p % x.rb
        let i := x.boxIdx (p / x.rb) (8 * j / x.wi)
        if x.inBounds i then
          let first := lset i 0 0
          let at0 : Int := (x.rowAddr i : Int) + x.coord first 0 * x.wi / 8
          some ((at0 + j).toNat, im (x.imgOff p))
        else none, [])

end Sys2Proof.Machine
end

