-- ==== Sys2Proof/Machine/Copy.lean ====
section
/-! DEFINITION. Layout slots and the copy words (R245 to R264), the outstanding-copy table, chunks, deliveries and
completion. -/

namespace Sys2Proof.Machine

/-! ## Engine accesses (R216, R261 to R263) -/

/-- A party that moves data in chunks: in whose name its requests go out, for which context, core, die and warp, and the
number of the warp that its bad units are reported with. -/
structure Mover where
  who : Nat → Waiter
  ctx : Nat
  core : Option Nat
  die : Nat
  warp : Nat
  num : Nat
  /-- The waiters that are its own. -/
  mine : Waiter → Bool

/-- The 16-byte units of a list of spans, each once. -/
def unitsOf (spans : List (Nat × Nat)) : List Nat :=
  (spans.flatMap fun e => if e.2 = 0 then [] else tab ((e.1 + e.2 - 1) / 16 + 1 - e.1 / 16) fun k => e.1 / 16 + k).eraseDups

/-- What the translation of an access's units answers: the location of each 16-byte unit. -/
inductive Units where
  | ok (s : State) (m : KMap Loc)
  | wait (s : State)
  | fail (s : State) (t : TrapReq)

/-- Translates units for an engine; the first failure stops it. -/
def resolve (who : Nat → Waiter) (n : Nat) (core : Option Nat) (die : Nat) (kind : AccessKind) :
    List Nat → State → Bool → KMap Loc → Units
  | [], s, waits, m => if waits then .wait s else .ok s m
  | u :: us, s, waits, m =>
    match translate s (who u) n core die (16 * u) kind with
    | .wait s => resolve who n core die kind us s true m
    | .err s c info => .fail s (warpTrap c (16 * u) info)
    | .ok s l _ => resolve who n core die kind us s waits (kput m u l)

/-- The request already sent for a waiter's work. -/
def fabSent (s : State) (r : Waiter × Nat × Nat × Nat × FabOp) : Option (Nat × FabReq) :=
  s.fabFind r.1 r.2.1 r.2.2.1 r.2.2.2.2

/-- Sends the requests that have not been sent, and takes all answers together when every one has come. -/
def askAll (s : State) (die : Nat) (rs : List (Waiter × Nat × Nat × Nat × FabOp)) : FabRes :=
  let sent := rs.foldl (fun s r =>
    if (fabSent s r).isSome then s else fabSend s r.1 die r.2.1 r.2.2.1 r.2.2.2.1 r.2.2.2.2) s
  let found := rs.filterMap (fabSent sent)
  if found.length = rs.length && found.all fun e => e.2.answer.isSome then
    let after := { sent with fab := found.foldl (fun m e => kdel m e.1) sent.fab }
    match found.findSome? fun e => match e.2.answer with
      | some (.inl t) => some t
      | _ => none with
    | some t => .err after { t with lanes := allLanes }
    | none => .done after []
  else .wait sent

/-- The requests that read the units of other devices. -/
def peerReads (who : Nat → Waiter) (m : KMap Loc) : List (Waiter × Nat × Nat × Nat × FabOp) :=
  m.filterMap fun e => match e.2 with
    | .peer dev pa => some (who e.1, dev, pa, 16 * e.1, .read)
    | .own _ _ | .host _ => none

/-- The byte at a virtual address, at its home, among resolved units. -/
def unitByte (s : State) (m : KMap Loc) (va : Nat) : Byte :=
  match kget? m (va / 16) with
  | some l => s.homeByte (l.plus (va % 16))
  | none => 0

/-- An uncorrectable unit among those read (R268): its kind, virtual and physical address. -/
def unitsBad (s : State) (m : KMap Loc) : Option (Nat × Nat × Nat) :=
  m.findSome? fun e => (s.homeBad e.2 16).map fun k => (k, 16 * e.1, e.2.phys)

/-- The requests that write to other devices: one for each line. -/
def peerWrites (who : Nat → Waiter) (m : KMap Loc) (ws : List (Nat × Byte)) : List (Waiter × Nat × Nat × Nat × FabOp) :=
  let at' := ws.filterMap fun e => match kget? m (e.1 / 16) with
    | some (.peer dev pa) => some (dev, pa + e.1 % 16, e.1, e.2)
    | _ => none
  let lines := (at'.map fun e => (e.1, e.2.1 / 128)).eraseDups
  lines.map fun l =>
    let mine := at'.filter fun e => e.1 == l.1 && e.2.1 / 128 == l.2
    let va := (mine.head?.map (·.2.2.1)).getD 0
    (who (va / 16), l.1, l.2 * 128, va, .write (mine.map fun e => (e.2.1 % 128, e.2.2.2)))

/-- Performs writes to this device's and the host's memory at their homes. -/
def homeWrites (s : State) (m : KMap Loc) (ws : List (Nat × Byte)) : State :=
  (runsOf ws).foldl (fun s r =>
    (unitsOf [(r.1, r.2.length)]).foldl (fun s u =>
      let lo := max r.1 (16 * u)
      let hi := min (r.1 + r.2.length) (16 * u + 16)
      match kget? m u with
      | some (.own pa key) => s.writeHome (.own (pa + (lo - 16 * u)) key) ((r.2.drop (lo - r.1)).take (hi - lo))
      | some (.host h) => s.writeHome (.host (h + (lo - 16 * u))) ((r.2.drop (lo - r.1)).take (hi - lo))
      | _ => s) s) s

/-- How far a chunk has come. -/
inductive Progress where
  | done (s : State) (c : Chunk)
  | wait (s : State) (c : Chunk)
  | fail (s : State) (c : Chunk) (t : TrapReq)

/-- The cause of an engine's access. TINFO of PAGE holds the access kind (R263). -/
def engineTrap (c : Cause) (a : Nat) (info : W32) (kind : AccessKind) : TrapReq :=
  warpTrap c a (if c = .page then kind.code else info)

/-- A unit that an engine reads: at its home, or by a request to another device. What has been read stays (R353, R377). -/
def readUnit (mv : Mover) (s : State) (c : Chunk) (u : Nat) : Progress :=
  let who := mv.who u
  match s.fab.find? fun r => r.2.who == who with
  | some (k, r) =>
    match r.answer with
    | none => .wait s c
    | some (.inl t) => .fail { s with fab := kdel s.fab k } c { t with lanes := allLanes }
    | some (.inr bs) => .done { s with fab := kdel s.fab k } { c with read := kput c.read u ((bs.drop (r.pa % 128)).take 16) }
  | none =>
    match translate s who mv.ctx mv.core mv.die (16 * u) .engineRead with
    | .wait s => .wait s c
    | .err s cause info => .fail s c (engineTrap cause (16 * u) info .engineRead)
    | .ok s l _ =>
      match l with
      | .peer dev pa => .wait (fabSend s who mv.die dev pa (16 * u) .read) c
      | .own _ _ | .host _ =>
        match s.homeBad l 16 with
        | some kind =>
          .fail (s.reportFor who mv.ctx mv.num (mv.core.getD 0xFFFF) kind l.phys) c (warpTrap .dataErr (16 * u) (BitVec.ofNat 32 kind))
        | none => .done s { c with read := kput c.read u (s.homeBytes l 16) }

/-- Reads the source units of a chunk that have not been read; the first failure stops it. -/
def readSources (mv : Mover) : List Nat → State → Chunk → Bool → Progress
  | [], s, c, waits => if waits then .wait s c else .done s c
  | u :: us, s, c, waits =>
    if (kget? c.read u).isSome then readSources mv us s c waits
    else match readUnit mv s c u with
      | .done s c => readSources mv us s c waits
      | .wait s c => readSources mv us s c true
      | .fail s c t => .fail s c t

/-- A source byte of a chunk at a virtual address. -/
def Chunk.byte (c : Chunk) (va : Nat) : Byte := (kget c.read (va / 16) []).getD (va % 16) 0

/-- Single writes in order, joined as long as they stay in one line. -/
def lineRuns : List (Nat × Byte) → List (List (Nat × Byte))
  | [] => []
  | e :: es => match lineRuns es with
    | (f :: g) :: gs => if f.1 / 128 = e.1 / 128 then (e :: f :: g) :: gs else [e] :: (f :: g) :: gs
    | gs => [e] :: gs

/-- Single writes of one line, the first of them at a location of this device's or the host's memory. -/
def putLine (s : State) (l : Loc) : List (Nat × Byte) → State
  | ws =>
    let a := (ws.head?.map (·.1)).getD 0
    let at' (v : Nat) : Loc := match l with
      | .own pa key => .own (pa + v - a) key
      | .host h => .host (h + v - a)
      | .peer d pa => .peer d (pa + v - a)
    (runsOf ws).foldl (fun s r => s.writeHome (at' r.1) r.2) s

/-- R218: a line that an asynchronous operation of a warp writes. -/
def State.gain (s : State) (wid line : Nat) : State :=
  { s with warps := kmod s.warps wid fun w => { w with gained := addNum w.gained line } }

/-- The number of the waiter of a chunk's write request. -/
def writeNo (n : Nat) : Nat := 2 ^ 60 + n

/-- Makes the writes of one kind of a chunk, in order, line by line (R261): at a home of this device or of the host at once,
elsewhere by a request. `allowed` names the cause of a write that may not be made. -/
def sendWrites (mv : Mover) (allowed : Nat × Nat → Option TrapReq) (isResid : Bool) : List (List (Nat × Byte)) → State → Chunk →
    Progress
  | [], s, c => .done s c
  | g :: gs, s, c =>
    let a := (g.head?.map (·.1)).getD 0
    let who := mv.who (writeNo c.sent)
    match (runsOf g).findSome? fun r => allowed (r.1, r.2.length) with
    | some t => .fail s c t
    | none =>
      match translate s who mv.ctx mv.core mv.die a .engineWrite with
      | .wait s => .wait s { c with again := !isResid && c.sent != 0 && s.faults mv.ctx mv.core mv.die a .engineWrite }
      | .err s cause info => .fail s c (engineTrap cause a info .engineWrite)
      | .ok s l _ =>
        let rest := gs.flatMap id
        let c' := { c with
          sent := c.sent + 1, bytes := c.bytes + g.length
          main := if isResid then c.main else rest, resid := if isResid then rest else c.resid }
        match l with
        | .peer dev pa =>
          if s.planeDrain.getD (fold pa) false then .wait s c
          else
            let s := fabSend s who mv.die dev pa a (.write (g.map fun e => (pa % 128 + e.1 - a, e.2)))
            sendWrites mv allowed isResid gs (s.gain mv.warp l.line) c'
        | .own _ _ | .host _ => sendWrites mv allowed isResid gs ((putLine s l g).gain mv.warp l.line) c'

/-- The write requests of a chunk that are on their way, or that have been answered. -/
def Mover.out (mv : Mover) (s : State) (c : Chunk) : List (Nat × FabReq) :=
  s.fab.filter fun r => (List.range c.sent).any fun k => r.2.who == mv.who (writeNo k)

/-- R261, R262: the writes of a chunk whose values are known: the tensor's and the scales', then the residuals'; it is done
once every one has been performed. A fault on the former after the chunk's first write restarts the chunk when it has been
served, once what the chunk has sent has been performed; one on a residual only delays it. What waits for a translation or a
lease alone stays unsent (R353, R377). -/
def writeChunk (mv : Mover) (allowed : Nat × Nat → Option TrapReq) (s : State) (c : Chunk) : Progress :=
  let gs := lineRuns c.main
  if c.again then
    let a := ((gs.head?.bind (·.head?)).map (·.1)).getD 0
    match translate s (mv.who (writeNo c.sent)) mv.ctx mv.core mv.die a .engineWrite with
    | .wait s => .wait s c
    | .err s cause info => .fail s c (engineTrap cause a info .engineWrite)
    | .ok s _ _ => if s.underWay mv.mine then .wait s c else .wait (s.stopWaiters mv.mine) Chunk.fresh
  else
    match sendWrites mv allowed false gs s c with
    | .wait s c => .wait s c
    | .fail s c t => .fail s c t
    | .done s c =>
      match sendWrites mv allowed true (lineRuns c.resid) s c with
      | .wait s c => .wait s c
      | .fail s c t => .fail s c t
      | .done s c =>
        let out := mv.out s c
        match out.findSome? fun r => match r.2.answer with
          | some (.inl t) => some t
          | _ => none with
        | some t => .fail s c { t with lanes := allLanes }
        | none => if out.all fun r => r.2.answer.isSome then
            .done { s with fab := out.foldl (fun m r => kdel m r.1) s.fab } c
          else .wait s c

/-- The writes of a party that makes no chunks, kept in `c` until they have been performed. -/
def wholeWrite (mv : Mover) (ws : List (Nat × Byte)) (s : State) (c : Chunk) : Progress :=
  writeChunk mv (fun _ => none) s (if c.computed then c else { Chunk.fresh with computed := true, resid := ws })

/-! ## Layout slots (R245 to R247) -/

/-- Reads n 16-byte units for a word that waits for them (R427). -/
inductive RecRead where
  | done (s : State) (bytes : List Byte)
  | wait (s : State)
  | fail (s : State) (t : TrapReq)

def readUnits (wid a off : Nat) (w : Warp) : Nat → Nat → State → Bool → List Byte → RecRead
  | 0, _, s, waits, bs => if waits then .wait s else .done s bs
  | n + 1, k, s, waits, bs =>
    match wordRead s wid .engineRead w .b128 (a + 16 * k) (off + k) with
    | .ok s _ vals => readUnits wid a off w n (k + 1) s waits (bs ++ wordBytes vals)
    | .wait s => readUnits wid a off w n (k + 1) s true bs
    | .fail s t => .fail s { t with lanes := allLanes }

/-- R403: the number of a team's layout slot among the units of its core's kind 0x07. -/
def layoutUnit (tid slot : Nat) : Nat := 16 + 16 * tid + slot

/-- TLREC (R246). -/
def execTlrec (h : WarpHdr) (sa : Reg) (slot : BitVec 4) (s : State) : Out :=
  let i : Instr := .tlrec h sa slot
  warpOp i h (some .copy) [(sa.toNat, 2)] anyMode s fun w =>
    withTeam s w fun _ =>
      let a := (w.sr64 sa.toNat).toNat
      if a % 64 != 0 then .trap (warpTrap .align a 6)
      else if !inHalf a 128 then .trap (warpTrap .vaRange a 0)
      else
        match readUnits s.cur a 0 w 8 0 s false [] with
        | .wait s => hold s w .atIssue i
        | .fail s t => .trapIn s w t
        | .done s bs =>
          match recRefusal bs with
          | some k => .trap (warpTrap .fmt 0 k)
          | none => withTeam s w fun t =>
            .done { s.setTeam w.team { t with layouts := kput t.layouts slot.toNat bs } with
              bad := if s.bad.isEmpty then [] else s.bad.filter (· != (7, w.core, layoutUnit w.team slot.toNat)) } w

/-! ## The copy words (R250, R251) -/

/-- Copies of a warp that are incomplete. -/
def warpCopies (s : State) (w : Warp) (wid : Nat) : Nat := (s.core w.core).copies.countP fun c => c.2.warp == wid

/-- R251: a copy takes an entry of the table; its clearing of P, and its reads, take their place in the store queue of its
warp, after every earlier store and atomic. -/
def enterCopy (i : Instr) (s : State) (w : Warp) (e : Copy) : Res :=
  let c := s.core w.core
  let k := kfresh c.copies
  let s := s.tick.setCore w.core { c with copies := kput c.copies k e }
  let ps : List Part := if e.xf.load then e.left.map fun line => ⟨0, 128 * line, [0]⟩ else [⟨0, 0, []⟩]
  if w.storeQ.isEmpty && !w.atomicsOlder w.seq then .done (copyBegins s w w.core k ps) { w with seq := w.seq + 1 }
  else
    .done s (enqueue w (mkAcc (.copyGo w.core k) .spad true .b128 false .core .plain w.issueAddr i ps))

/-- R251, from the slot on. R74: what a slot that cannot be read does not show, its geometry's causes, gives way to its
DATA_ERR; the others come first. -/
def copyBody (i : Instr) (s : State) (w : Warp) (t : Team) (load : Bool) (sd sa sb : Reg) (lslot : BitVec 4)
    (bar : BitVec 5) (nobar : Bool) (chain : Nat) : Res :=
  match kget? t.layouts lslot.toNat with
  | none => .trap (warpTrap .fmt 0 0x20)
  | some rcd =>
    let hurt := s.isBad (7, w.core, layoutUnit w.team lslot.toNat)
    let rank := recRank rcd
    let img := (w.sr sd.toNat).toNat
    let tbase := (w.sr64 sa.toNat).toNat
    let x : Xf :=
      { load := load, chain := chain, rcd := rcd, img := img, tbase := tbase
        c := (w.sGroup sb.toNat rank).map (·.toInt) }
    if !hurt && decide (64 < sb.toNat + rank) then .trap (warpTrap .regRange 0 (firstWord i))
    else if img % 16 != 0 then .trap (warpTrap .align img 4)
    else if tbase % 16 != 0 then .trap (warpTrap .align tbase 4)
    else if hurt then .trapIn (s.reportBad (s.ctxOf w) w.num w.core 7 0) w (warpTrap .dataErr 0 7)
    else match x.vaBad with
    | some a => .trap (warpTrap .vaRange a 0)
    | none => match x.spadBad t with
      | some a => .trap (warpTrap .spadRange a 0)
      | none => match x.fmtBad with
        | some k => .trap (warpTrap .fmt 0 k)
        | none =>
          let m := t.mbar? w.part bar.toNat
          if !nobar && (m.map fun y => y.err).getD true then mbTrap bar
          else
            let (s, w) := pumpAll s s.cur w
            let c := s.core w.core
            if Config.copiesInFlight ≤ c.copies.length then hold s w .atIssue i
            else enterCopy i s w
              { team := w.team, warp := s.cur, part := w.part, bar := if nobar then none else some bar.toNat, xf := x
                pc := w.issueAddr, w0 := firstWord i, w1 := extWord i, order := s.stamp + 1, seq := w.seq, chunk := 0
                left := if load then x.lines else [], stopped := false, go := false, work := Chunk.fresh }

def copyWord (i : Instr) (h : WarpHdr) (load : Bool) (sd sa sb : Reg) (lslot : BitVec 4) (bar : BitVec 5) (nobar : Bool)
    (chain : Nat) (s : State) : Out :=
  warpOp i h (some .copy) [(sa.toNat, 2)] anyMode s fun w =>
    withTeam s w fun t => copyBody i s w t load sd sa sb lslot bar nobar chain

/-- TCOPY (R251). -/
def execTcopy (h : WarpHdr) (sd sa sb : Reg) (lslot : BitVec 4) (tbar : BitVec 5) (nobar : Bool) (s : State) : Out :=
  copyWord (.tcopy h sd sa sb lslot tbar nobar) h true sd sa sb lslot tbar nobar 0 s

/-- TSTORE (R251). -/
def execTstore (h : WarpHdr) (sd sa sb : Reg) (lslot : BitVec 4) (tbar : BitVec 5) (nobar : Bool) (s : State) : Out :=
  copyWord (.tstore h sd sa sb lslot tbar nobar) h false sd sa sb lslot tbar nobar 0 s

/-- TLOADX (R251, R254). -/
def execTloadx (h : WarpHdr) (sd sa sb : Reg) (lslot : BitVec 4) (tbar : BitVec 5) (nobar : Bool) (chain : BitVec 3)
    (s : State) : Out :=
  copyWord (.tloadx h sd sa sb lslot tbar nobar chain) h true sd sa sb lslot tbar nobar chain.toNat s

/-- TSTOREX (R251, R255). -/
def execTstorex (h : WarpHdr) (sd sa sb : Reg) (lslot : BitVec 4) (tbar : BitVec 5) (nobar : Bool) (chain : BitVec 3)
    (s : State) : Out :=
  copyWord (.tstorex h sd sa sb lslot tbar nobar chain) h false sd sa sb lslot tbar nobar chain.toNat s

/-- TWAIT (R260). -/
def execTwait (h : WarpHdr) (n : BitVec 8) (s : State) : Out :=
  let i : Instr := .twait h n
  warpOp i h (some .copy) [] anyMode s fun w =>
    if warpCopies s w s.cur ≤ n.toNat then .done s w else hold s w .twait i

/-! ## Chunks, deliveries, completion (R256 to R263) -/

/-- Changes an entry of a core's table. -/
def State.modCopy (s : State) (core k : Nat) (f : Copy → Copy) : State :=
  let c := s.core core
  s.setCore core { c with copies := kmod c.copies k f }

/-- R263: a copy stops at the start of its chunk; the cause waits in its warp's operand log. -/
def stopCopy (s : State) (core k : Nat) (e : Copy) (t : TrapReq) : State :=
  let s := (s.modCopy core k fun e => { e with stopped := true, work := Chunk.fresh }).stopWaiters (Waiter.ofCopy core k)
  match s.warp? e.warp with
  | none => s
  | some w =>
    let a : Acc :=
      { kind := if e.xf.load then .load else .store, space := .glob, scalar := true, size := .b8, sx := false
        scope := .core, ord := .plain, seq := e.seq, pc := e.pc, w0 := e.w0, w1 := e.w1, parts := [] }
    s.setWarp e.warp { w with opLog := w.opLog ++ [⟨a, .copy core k, { t with lanes := allLanes }, false, 0⟩] }

/-- R257: a copy that entered later has already written the scratchpad byte at an address. -/
def laterWrote (s : State) (core : Nat) (e : Copy) (a : Nat) : Bool :=
  (s.core core).copies.any fun c =>
    c.2.team == e.team && c.2.xf.load && decide (e.order < c.2.order) && decide (c.2.xf.img ≤ a)
      && (c.2.xf.placeOf (a - c.2.xf.img)).any fun p => decide (p < 4096 * c.2.chunk)

/-- The mover of a copy. -/
def copyMover (s : State) (core k : Nat) (e : Copy) (t : Team) : Mover :=
  { who := .copy core k, ctx := t.ctx, core := some core, die := Config.dieOfCore core, warp := e.warp
    num := ((s.warp? e.warp).map (·.num)).getD 0xFF, mine := Waiter.ofCopy core k }

/-- R257, R261: the image bytes of a chunk of a load are written, but for those that a later copy has written. -/
def loadChunk (s : State) (core k : Nat) (e : Copy) (c : Chunk) : State :=
  let ws := (e.xf.loadOut e.chunk c.byte).map fun b => (e.xf.img + b.1, b.2)
  let s := (runsOf (ws.filter fun b => !laterWrote s core e b.1)).foldl (fun s r => s.writeSpad e.team e.part core r.1 r.2) s
  s.modCopy core k fun e => { e with chunk := e.chunk + 1, work := Chunk.fresh }

/-- R261: one step of a copy's chunk: its sources are read, and then what it computes is written. A chunk that begins again
follows the writes that it had sent before. -/
def copyStep (s : State) (core k : Nat) (e : Copy) (t : Team) : State :=
  let mv := copyMover s core k e t
  let x := e.xf
  let sp := t.spad e.part
  let keep (s : State) (c : Chunk) : State := s.modCopy core k fun e => { e with work := c }
  let image := if x.load then [] else x.chunkImage e.chunk
  let write (s : State) (c : Chunk) : State :=
    match writeChunk mv (fun _ => none) s c with
    | .wait s c => keep s c
    | .fail s _ t => stopCopy s core k e t
    | .done s _ => s.modCopy core k fun e => { e with chunk := e.chunk + 1, work := Chunk.fresh }
  let begins := e.work == Chunk.fresh
  if e.work.computed then write s e.work
  else if begins && s.underWay mv.mine then s
  else if !((image.map fun o => (x.img + o) / 128).eraseDups.all sp.present) then s
  else
    match readSources mv (unitsOf (x.chunkReads e.chunk)) (if begins then s.dropAnswers mv.mine else s) e.work false with
    | .wait s c => keep s c
    | .fail s _ t => stopCopy s core k e t
    | .done s c =>
      if x.load then loadChunk s core k e c
      else if image.any fun o => s.spadDamaged sp core e.team (x.img + o) 1 then
        stopCopy (s.reportBad mv.ctx mv.num core 5 0) core k e (warpTrap .dataErr 0 5)
      else
        let (ws, rs) := x.storeOut e.chunk c.byte fun o => mget sp.cells (x.img + o)
        write s { c with computed := true, main := ws, resid := rs }

/-- COPY_LINE_DELIVERY (R256, R257): the line becomes present when no other copy in flight has still to deliver it. DEDUCED,
notes/assumptions/147.md: one that entered later counts once it has cleared the line. -/
def execCopyLineDelivery (core copy line : Nat) (s : State) : Out :=
  match kget? (s.core core).copies copy with
  | none => .next s
  | some e =>
    if !(e.left.contains line && e.xf.lineWritten line (4096 * e.chunk)) then .next s
    else
      let s := s.modCopy core copy fun e => { e with left := e.left.filter (· != line) }
      let others := (s.core core).copies.any fun c =>
        c.2.team == e.team && (c.2.go || decide (c.2.order < e.order)) && c.2.left.contains line
      let s := if others then s else s.modSpad e.team e.part fun sp => sp.raiseP line
      .next (creditBytes s e.team e.part core e.bar (e.xf.lineBytes line))

/-- R259: every line that a load copy touches is present. -/
def linesPresent (s : State) (e : Copy) : Bool :=
  !e.xf.load || match s.team? e.team with
    | none => true
    | some t => e.xf.lines.all (t.spad e.part).present

/-- COPY_COMPLETE (R256, R259). -/
def execCopyComplete (core copy : Nat) (s : State) : Out :=
  match kget? (s.core core).copies copy with
  | none => .next s
  | some e =>
    if e.chunk < e.xf.chunks || !e.left.isEmpty || !linesPresent s e then .next s
    else
      let c := s.core core
      let s := s.setCore core { c with copies := kdel c.copies copy }
      .next (if e.xf.load then s else creditBytes s e.team e.part core e.bar e.xf.size)

/-- R391: a copy is cancelled: its undelivered lines become present, and it completes with no further credit. -/
def cancelCopy (s : State) (core k : Nat) : State :=
  match kget? (s.core core).copies k with
  | none => s
  | some e =>
    let c := s.core core
    let s := (s.setCore core { c with copies := kdel c.copies k }).dropWaiters (Waiter.ofCopy core k)
    let free := e.left.filter fun line =>
      !((s.core core).copies.any fun o => o.2.team == e.team && o.2.go && o.2.left.contains line)
    s.modSpad e.team e.part fun sp => free.foldl Spad.raiseP sp

/-! ## FENCEA (R218, R236) -/

/-- Copies and jobs of a warp that are not complete. -/
def asyncLeft (s : State) (w : Warp) (wid : Nat) : Bool :=
  warpCopies s w wid != 0 || s.streams.any fun x => x.2.jobs.any fun j => j.warp == wid && !j.complete

/-- R218: the writes that a warp's asynchronous operations have made take their place in its program order: no copy of such a
line from before stays in its core's L1, nor, clean, in its die's RDC. -/
def takeGained (s : State) (w : Warp) : State × Warp :=
  let die := Config.dieOfCore w.core
  (w.gained.foldl (fun s t => (s.dropL1 w.core t).dropClean die (· == t)) s, { w with gained := [] })

/-- FENCEA (R218, R236). -/
def execFencea (h : WarpHdr) (scope : Scope) (ord : Ord) (s : State) : Out :=
  let i : Instr := .fencea h scope ord
  warpOp i h none [] anyMode s fun w =>
    let (s, w) := pumpAll s s.cur w
    if asyncLeft s w s.cur then hold s w .fence i
    else
      match fenceStep s w scope ord with
      | (s, .wait) => hold s w .fence i
      | (s, .fail t) => .trapIn s w (scalarTrap t)
      | (s, .done) =>
        let (s, w) := if isAcq ord then takeGained s w else (s, w)
        .done s w

end Sys2Proof.Machine
end

