-- ==== Sys2Proof/Machine/Picture.lean ====
section
/-! DEFINITION. Scale jobs (R273) and the output of decode jobs (R272): where samples stand and what a destination sample
is, with no state. -/

namespace Sys2Proof.Machine

/-! ## Exact quotients -/

/-- The number num / den. -/
structure Quot where
  num : Int
  den : Nat
  deriving DecidableEq, Repr

def Quot.add (a b : Quot) : Quot := ⟨a.num * b.den + b.num * a.den, a.den * b.den⟩
def Quot.mul (a b : Quot) : Quot := ⟨a.num * b.num, a.den * b.den⟩
def Quot.ofInt (i : Int) : Quot := ⟨i, 1⟩

/-- Rounded to an integer, ties going up (R273). -/
def Quot.round (a : Quot) : Int := (2 * a.num + a.den) / (2 * a.den)

/-- Rounded to an integer and clamped to the codes of n bits (R273). -/
def Quot.code (a : Quot) (n : Nat) : Nat := min a.round.toNat (2 ^ n - 1)

/-- A value that rounds to a float format as the quotient does: enough bits of it and a last bit that says whether more
follow. -/
def Quot.val (a : Quot) : Val :=
  let m := a.num.natAbs * 2 ^ 200
  .fin (decide (a.num < 0)) (2 * (m / a.den) + (if m % a.den = 0 then 0 else 1)) (-201)

/-! ## Pictures -/

/-- A picture in memory: 4:2:0, its chroma plane after its luma plane, Cb before Cr (the layouts that NV12 and P010
name: PRESUMED, notes/assumptions/31.md). -/
structure Pic where
  base : Nat
  pitch : Nat
  w : Nat
  h : Nat
  /-- P010: two bytes a sample, the code in the top ten bits. -/
  ten : Bool
  deriving DecidableEq, Repr

def Pic.bytes (p : Pic) : Nat := if p.ten then 2 else 1
def Pic.bits (p : Pic) : Nat := if p.ten then 10 else 8
/-- Size of the chroma planes. -/
def Pic.cw (p : Pic) : Nat := ceilDiv p.w 2
def Pic.ch (p : Pic) : Nat := ceilDiv p.h 2

/-- The size of plane k: 0 luma, 1 Cb, 2 Cr. -/
def Pic.planeW (p : Pic) (k : Nat) : Nat := if k = 0 then p.w else p.cw
def Pic.planeH (p : Pic) (k : Nat) : Nat := if k = 0 then p.h else p.ch

/-- The address of a sample. -/
def Pic.addr (p : Pic) (k x y : Nat) : Nat :=
  if k = 0 then p.base + y * p.pitch + x * p.bytes
  else p.base + p.h * p.pitch + y * p.pitch + (2 * x + (k - 1)) * p.bytes

/-- The code of a sample. -/
def Pic.code (p : Pic) (rd : Nat → Byte) (k x y : Nat) : Nat :=
  let a := p.addr k x y
  if p.ten then leNat [rd a, rd (a + 1)] / 64 else (rd a).toNat

/-- The rows of a picture in order: plane rows of luma, then of chroma with both samples of a pair. -/
def Pic.rowBytes (p : Pic) (row : Nat) : Nat := if row < p.h then p.w * p.bytes else 2 * p.cw * p.bytes

/-- The number of bytes of a picture, pitches left out. -/
def Pic.count (p : Pic) : Nat := p.h * (p.w * p.bytes) + p.ch * (2 * p.cw * p.bytes)

/-- Counted byte n of a picture: its plane, its place, its byte within the sample, its address. -/
def Pic.at (p : Pic) (n : Nat) : Nat × Nat × Nat × Nat × Nat :=
  let lum := p.h * (p.w * p.bytes)
  if n < lum then
    let y := n / (p.w * p.bytes)
    let j := n % (p.w * p.bytes)
    (0, j / p.bytes, y, j % p.bytes, p.base + y * p.pitch + j)
  else
    let rb := 2 * p.cw * p.bytes
    let y := (n - lum) / rb
    let j := (n - lum) % rb
    (1 + j / p.bytes % 2, j / p.bytes / 2, y, j % p.bytes, p.base + p.h * p.pitch + y * p.pitch + j)

/-! ## Sampling -/

/-- The source position of a destination coordinate, clamped, over 2 × dw. -/
def posNum (x sw dw : Nat) : Nat :=
  let n : Int := (2 * x + 1) * sw - dw
  min n.toNat ((sw - 1) * (2 * dw))

/-- The source coordinates and weights of a destination coordinate: pairs of coordinate and weight over a common
divisor. -/
def taps (bilinear : Bool) (x sw dw : Nat) : List (Nat × Nat) × Nat :=
  let den := 2 * dw
  let n := posNum x sw dw
  if bilinear then
    let i := n / den
    let f := n % den
    if f = 0 then ([(i, den)], den) else ([(i, den - f), (min (i + 1) (sw - 1), f)], den)
  else ([(min ((2 * n + den) / (2 * den)) (sw - 1), 1)], 1)

/-- The source samples of plane k that a destination sample of a plane of size dw by dh needs, with their weights. -/
def Pic.taps (p : Pic) (bilinear : Bool) (k x y dw dh : Nat) : List (Nat × Nat × Nat) × Nat :=
  let (xs, dx) := Machine.taps bilinear x (p.planeW k) dw
  let (ys, dy) := Machine.taps bilinear y (p.planeH k) dh
  (ys.flatMap fun v => xs.map fun u => (u.1, v.1, u.2 * v.2), dx * dy)

/-- The interpolated code of plane k. -/
def Pic.sample (p : Pic) (bilinear : Bool) (rd : Nat → Byte) (k x y dw dh : Nat) : Quot :=
  let (ts, d) := p.taps bilinear k x y dw dh
  ⟨((lsum (ts.map fun t => t.2.2 * p.code rd k t.1 t.2.1) : Nat) : Int), d⟩

/-- The bytes that a sample reads. -/
def Pic.sampleReads (p : Pic) (bilinear : Bool) (k x y dw dh : Nat) : List (Nat × Nat) :=
  (p.taps bilinear k x y dw dh).1.map fun t => (p.addr k t.1 t.2.1, p.bytes)

/-- ITU-R BT.709, limited range: R, G or B of Y′, Cb and Cr codes of n bits, 0 to 1. The coefficients are the standard's:
PRESUMED, notes/assumptions/31.md. -/
def bt709 (n : Nat) (y cb cr : Quot) (comp : Nat) : Quot :=
  let k : Int := 2 ^ (n - 8)
  let yy := (y.add (.ofInt (-16 * k))).mul ⟨1, (219 * k).toNat⟩
  let c (q : Quot) := (q.add (.ofInt (-128 * k))).mul ⟨1, (224 * k).toNat⟩
  match comp with
  | 0 => yy.add ((c cr).mul ⟨15748, 10000⟩)
  | 1 => (yy.add ((c cb).mul ⟨-(2 * 722 * 9278), 10000 * 7152⟩)).add ((c cr).mul ⟨-(2 * 2126 * 7874), 10000 * 7152⟩)
  | _ => yy.add ((c cb).mul ⟨18556, 10000⟩)

/-! ## Scale jobs (R273) -/

/-- The parameters of a scale job. -/
structure ScaleJob where
  src : Pic
  dfmt : Nat
  bilinear : Bool
  dst : Nat
  dpit : Nat
  dw : Nat
  dh : Nat
  deriving DecidableEq, Repr

/-- The destination as a picture, for NV12 and P010. -/
def ScaleJob.dstPic (j : ScaleJob) : Pic := ⟨j.dst, j.dpit, j.dw, j.dh, j.dfmt == 1⟩

/-- Bytes of a planar RGB sample. -/
def ScaleJob.rgbBytes (j : ScaleJob) : Nat := if j.dfmt = 2 then 1 else 2

/-- Destination bytes, pitches left out. -/
def ScaleJob.count (j : ScaleJob) : Nat := if j.dfmt < 2 then j.dstPic.count else 3 * j.dh * j.dw * j.rgbBytes

/-- Counted byte n of planar RGB: component, x, y, byte within the sample, address. DESIGN
CHOICE, notes/assumptions/126.md: the planes follow one another, R, G and B. -/
def ScaleJob.rgbAt (j : ScaleJob) (n : Nat) : Nat × Nat × Nat × Nat × Nat :=
  let rb := j.dw * j.rgbBytes
  let row := n / rb
  (row / j.dh, n % rb / j.rgbBytes, row % j.dh, n % rb % j.rgbBytes, j.dst + row * j.dpit + n % rb)

/-- The address of counted destination byte n. -/
def ScaleJob.addr (j : ScaleJob) (n : Nat) : Nat :=
  if j.dfmt < 2 then (j.dstPic.at n).2.2.2.2 else (j.rgbAt n).2.2.2.2

/-- The size of the chroma planes that an RGB sample is interpolated to: the plane's own share of the destination. -/
def ScaleJob.sizeFor (j : ScaleJob) (k : Nat) : Nat × Nat :=
  if k = 0 || 2 ≤ j.dfmt then (j.dw, j.dh) else (ceilDiv j.dw 2, ceilDiv j.dh 2)

/-- The source bytes of counted destination byte n. -/
def ScaleJob.reads (j : ScaleJob) (n : Nat) : List (Nat × Nat) :=
  if j.dfmt < 2 then
    let (k, x, y, _, _) := j.dstPic.at n
    let d := j.sizeFor k
    j.src.sampleReads j.bilinear k x y d.1 d.2
  else
    let (_, x, y, _, _) := j.rgbAt n
    [0, 1, 2].flatMap fun k => let d := j.sizeFor k; j.src.sampleReads j.bilinear k x y d.1 d.2

/-- Counted destination byte n. -/
def ScaleJob.byte (j : ScaleJob) (rd : Nat → Byte) (n : Nat) : Byte :=
  if j.dfmt < 2 then
    let (k, x, y, b, _) := j.dstPic.at n
    let d := j.sizeFor k
    let q := j.src.sample j.bilinear rd k x y d.1 d.2
    let c := if j.dfmt = 0 then (if j.src.ten then q.mul ⟨1, 4⟩ else q).code 8
      else (if j.src.ten then q else q.mul ⟨4, 1⟩).code 10 * 64
    BitVec.ofNat 8 (c / 256 ^ b)
  else
    let (comp, x, y, b, _) := j.rgbAt n
    let s (k : Nat) : Quot := let d := j.sizeFor k; j.src.sample j.bilinear rd k x y d.1 d.2
    let v := bt709 j.src.bits (s 0) (s 1) (s 2) comp
    let c := match j.dfmt with
      | 2 => (v.mul ⟨255, 1⟩).code 8
      | 3 => (convert .f16 .rn false v.val).1
      | _ => (convert .bf16 .rn false v.val).1
    BitVec.ofNat 8 (c / 256 ^ b)

end Sys2Proof.Machine
end

