-- ==== Sys2Proof/Machine/Jobs.lean ====
section
/-! DEFINITION. Engine jobs (R265 to R273): cards, streams and their edges, chunks, completion; XJOB and XWAIT; and the
chunk step that copies and transform jobs share (R261). -/

namespace Sys2Proof.Machine

/-! ## Job cards (R265) -/

def Job.field (j : Job) (off n : Nat) : Nat := recNat j.card off n
def Job.kind (j : Job) : Nat := j.field 0 1
def Job.compl (j : Job) : Nat := j.field 8 8

/-- The declared read regions, and the write regions: base and length. -/
def Job.readRegions (j : Job) : List (Nat × Nat) := tab (j.field 1 1) fun k => (j.field (0x10 + 16 * k) 8, j.field (0x18 + 16 * k) 8)
def Job.writeRegions (j : Job) : List (Nat × Nat) := tab (j.field 2 1) fun k => (j.field (0x50 + 16 * k) 8, j.field (0x58 + 16 * k) 8)

/-- R267: job j has an edge from an earlier job i of its stream. -/
def Job.edgeFrom (j i : Job) : Bool :=
  let meets (a b : List (Nat × Nat)) : Bool := a.any fun x => b.any fun y => overlap x.1 x.2 y.1 y.2 && x.2 != 0 && y.2 != 0
  meets i.writeRegions j.readRegions || meets i.writeRegions j.writeRegions || meets i.readRegions j.writeRegions

/-- The transfer of a transform job (R271). -/
def Job.xf (j : Job) : Xf :=
  { load := j.field 0x80 1 == 0, chain := j.field 0x81 1, rcd := j.rcd, img := j.field 0x98 8, tbase := j.field 0x90 8
    c := tab (recRank j.rcd) fun k => (BitVec.ofNat 32 (j.field (0xA0 + 4 * k) 4)).toInt }

/-- The parameters of a scale job (R273). -/
def Job.scaleJob (j : Job) : ScaleJob :=
  { src := ⟨j.field 0x80 8, j.field 0x88 4, j.field 0x8C 2, j.field 0x8E 2, j.field 0x90 1 == 1⟩
    dfmt := j.field 0x91 1, bilinear := j.field 0x92 1 == 1, dst := j.field 0x98 8, dpit := j.field 0xA0 4
    dw := j.field 0xA4 2, dh := j.field 0xA6 2 }

/-- The output picture of a decode job (R272). -/
def Job.output (j : Job) : Pic :=
  ⟨j.field 0x98 8 + j.field 0xA4 1 * j.field 0xA0 4, j.field 0xA8 4, j.field 0x84 2, j.field 0x86 2, j.field 0x81 1 == 1⟩

/-- The tests of the fields of a card, by offset: true where the field is bad. Reserved bytes are ignored (R5). DESIGN
CHOICE, notes/assumptions/127.md: of a scale job, "a multiple of 16" is read of the two pitches and not of SRC and DST. -/
def Job.tests (j : Job) : List (Nat × Bool) :=
  let f := j.field
  let size (x hi : Nat) : Bool := x % 2 != 0 || decide (x < 16) || decide (hi < x)
  [(0x00, j.kind == 0 || decide (3 < j.kind)), (0x01, decide (4 < f 1 1)), (0x02, decide (2 < f 2 1)),
   (0x08, j.compl % 16 != 0)]
    ++ match j.kind with
    | 1 =>
      [(0x80, decide (1 < f 0x80 1)), (0x81, decide (7 < f 0x81 1)), (0x88, f 0x88 8 % 64 != 0),
       (0x90, f 0x90 8 % 16 != 0), (0x98, f 0x98 8 % 16 != 0)]
    | 2 =>
      [(0x80, f 0x80 1 == 0 || decide (2 < f 0x80 1)), (0x81, decide (1 < f 0x81 1)), (0x84, size (f 0x84 2) 8192),
       (0x86, size (f 0x86 2) 4320), (0xA0, f 0xA0 4 % 4096 != 0), (0xA4, decide (7 < f 0xA4 1)), (0xA8, f 0xA8 4 % 256 != 0)]
    | _ =>
      let even (x hi : Nat) : Bool := x % 2 != 0 || x == 0 || decide (hi < x)
      let plain (x hi : Nat) : Bool := x == 0 || decide (hi < x)
      [(0x88, f 0x88 4 % 16 != 0), (0x8C, even (f 0x8C 2) 8192), (0x8E, even (f 0x8E 2) 4320), (0x90, decide (1 < f 0x90 1)),
       (0x91, decide (4 < f 0x91 1)), (0x92, decide (1 < f 0x92 1)), (0xA0, f 0xA0 4 % 16 != 0), (0xA4, plain (f 0xA4 2) 8192),
       (0xA6, plain (f 0xA6 2) 4320)]

/-- R269: the byte offset of the first bad field. -/
def Job.badField (j : Job) : Option Nat := (j.tests.find? (·.2)).map (·.1)

/-- R271: the record of a transform is refused (R247, R252, R253). -/
def Job.recordBad (j : Job) : Bool := (recRefusal j.rcd).isSome || j.xf.fmtBad.isSome

/-! ## Streams (R267 to R270) -/

def State.stream (s : State) (n k : Nat) : Stream := kget s.streams (n * 16 + k) ⟨0, []⟩
def State.setStream (s : State) (n k : Nat) (x : Stream) : State := { s with streams := kput s.streams (n * 16 + k) x }

/-- A job of a stream by its ticket. -/
def Stream.job? (x : Stream) (ticket : W32) : Option Job := x.jobs.find? fun j => j.ticket == ticket

def State.modJob (s : State) (n k : Nat) (ticket : W32) (f : Job → Job) : State :=
  let x := s.stream n k
  s.setStream n k { x with jobs := x.jobs.map fun j => if j.ticket = ticket then f j else j }

/-- The jobs before a ticket's. -/
def Stream.before (x : Stream) (ticket : W32) : List Job := x.jobs.takeWhile fun j => j.ticket != ticket

/-- XJOB's card and record reads. -/
inductive CardRead where
  | ok (s : State) (j : Job)
  | wait (s : State)
  | fail (s : State) (t : TrapReq)

/-- R269: reads the card at an address, and the record of a transform. A bad field fails with FMT. DEDUCED,
notes/assumptions/149.md: a record that lies outside the address space raises VA_RANGE. -/
def readCard (s : State) (wid : Nat) (w : Warp) (a : Nat) : CardRead :=
  match readUnits wid a 0 w 16 0 s false [] with
  | .wait s => .wait s
  | .fail s t => .fail s t
  | .done s bs =>
    let j : Job :=
      { ticket := 0, card := bs, rcd := [], started := false, chunk := 0, engine := none, work := Chunk.fresh, draw := 0
        bits := [], block := [], written := 0, result := none, complete := false, warp := wid }
    let fmt (s : State) (k : Nat) : CardRead := .fail s (warpTrap .fmt 0 (BitVec.ofNat 32 k))
    let early := match j.badField with
      | some k => j.kind != 1 || decide (k ≤ 0x88)
      | none => false
    if early then fmt s (j.badField.getD 0)
    else if j.kind != 1 then .ok s j
    else if !inHalf (j.field 0x88 8) 128 then .fail s (warpTrap .vaRange (j.field 0x88 8) 0)
    else
      match readUnits wid (j.field 0x88 8) 16 w 8 0 s false [] with
      | .wait s => .wait s
      | .fail s t => .fail s t
      | .done s rcd =>
        let j := { j with rcd := rcd }
        if j.recordBad then fmt s 0x88
        else match j.badField with
          | some k => fmt s k
          | none => .ok s j

/-- Jobs of a stream that are not complete. -/
def Stream.incomplete (x : Stream) : Nat := x.jobs.countP fun j => !j.complete

/-- R420: the engine that a job of a kind needs is ready. -/
def State.engineReady (s : State) (kind : Nat) : Bool := s.regs.ready.getLsbD (if kind = 1 then 8 else 7)

/-- XJOB (R269, R420). -/
def execXjob (h : WarpHdr) (sd sa : Reg) (stream : BitVec 4) (s : State) : Out :=
  let i : Instr := .xjob h sd sa stream
  warpOp i h none [(sa.toNat, 2)] anyMode s fun w =>
    let a := (w.sr64 sa.toNat).toNat
    if a % 256 != 0 then .trap (warpTrap .align a 8)
    else if !inHalf a 256 then .trap (warpTrap .vaRange a 0)
    else if w.taskst then taskTrap i
    else
      let (s, w) := pumpAll s s.cur w
      if !w.storeQ.isEmpty then hold s w .atIssue i
      else
        match readCard s s.cur w a with
        | .wait s => hold s w .atIssue i
        | .fail s t => .trapIn s w t
        | .ok s j =>
          let n := s.ctxOf w
          let x := s.stream n stream.toNat
          if 64 ≤ x.incomplete || !s.engineReady j.kind then hold s w .atIssue i
          else
            .done (s.setStream n stream.toNat { next := x.next + 1, jobs := x.jobs ++ [{ j with ticket := x.next }] })
              (w.setS sd.toNat x.next)

/-- XWAIT (R270). -/
def execXwait (h : WarpHdr) (sd sa sb : Reg) (s : State) : Out :=
  let i : Instr := .xwait h sd sa sb
  warpOp i h none [] anyMode s fun w =>
    let x := s.stream (s.ctxOf w) ((w.sr sa.toNat).toNat % 16)
    let t := w.sr sb.toNat
    let age := (x.next - t).toNat
    if age = 0 || 2 ^ 31 < age then .done s (w.setS sd.toNat 0xFF)
    else if 256 < age then .done s (w.setS sd.toNat 0xFE)
    else
      match x.job? t with
      | none => .done s (w.setS sd.toNat 0xFE)
      | some j =>
        if j.complete then
          .done (s.acquire w.core .device) (w.setS sd.toNat (BitVec.ofNat 32 (j.result.getD (0, 0)).1))
        else hold s w .xwait i

/-! ## Running a job -/

/-- An engine of a kind that runs no job: the lowest. DESIGN CHOICE, notes/assumptions/52.md: the hardware chooses. -/
def State.freeEngine (s : State) (kind : Nat) : Option Nat :=
  (List.range (Config.engines kind)).find? fun e =>
    !(s.streams.any fun x => x.2.jobs.any fun j => j.kind == kind && j.engine == some e && !j.complete)

/-- JOB_START (R267, R268): a job begins, on an engine of its kind that is free (R16), when every earlier job to which it has
an edge has completed; where one of them failed, it completes without running. -/
def execJobStart (ctx stream ticket : Nat) (s : State) : Out :=
  let t := BitVec.ofNat 32 ticket
  let x := s.stream ctx stream
  match x.job? t with
  | none => .next s
  | some j =>
    let from' := (x.before t).filter fun i => j.edgeFrom i
    let active := ((kget? s.contexts ctx).map fun c => c.active && !c.retiring).getD false
    if j.started || !active || !(from'.all (·.complete)) then .next s
    else if from'.any fun i => (i.result.getD (0, 0)).1 != 0 then
      .next (s.modJob ctx stream t fun j => { j with started := true, result := some (0x08, 0) })
    else
      match s.freeEngine j.kind with
      | none => .next s
      | some e =>
        .next ({ s with freeCtr := s.freeCtr + 1 + j.output.count }.modJob ctx stream t fun j =>
          { j with started := true, engine := some e, draw := s.freeCtr })

/-- R266: every byte of the spans lies in one of the regions. -/
def inRegions (regions spans : List (Nat × Nat)) : Bool :=
  spans.all fun e => (List.range e.2).all fun k => regions.any fun r => decide (r.1 ≤ e.1 + k) && decide (e.1 + k < r.1 + r.2)


/-- The number of chunks of a job. A decode reads its bitstream and its state block before the first chunk of its picture, and
writes its state block after the last. -/
def Job.chunks (j : Job) : Nat :=
  match j.kind with
  | 1 => j.xf.chunks
  | 2 => ceilDiv j.output.count 4096 + 2
  | _ => ceilDiv j.scaleJob.count 4096

/-- Counted bytes of chunk k among n. -/
def chunkOf (n k : Nat) : List Nat := tab (min 4096 (n - 4096 * k)) fun i => 4096 * k + i

/-- R272: what the decoder of a job has read. -/
def Job.coded (j : Job) : Config.Coded := ⟨(j.card.drop 0x80).take 0x40, j.bits, j.block⟩

/-- R272: the pieces of the reference pool that a decoder reads for chunk k of its picture. -/
def Job.refs (j : Job) (k : Nat) : List (Nat × Nat) :=
  let size := j.field 0xA0 4
  if size = 0 then []
  else (Config.decodeRefs j.coded k).map fun r => (j.field 0x98 8 + r.1 % 8 * size + r.2 % size / 4096 * 4096, 4096)

/-- The chunk of a decode's picture that chunk k writes. -/
def Job.pictureChunk (j : Job) (k : Nat) : Option Nat := if k != 0 && decide ((k - 1) * 4096 < j.output.count) then some (k - 1) else none

/-- The reads of chunk k of a job and the regions they must lie in (R266, R271 to R273). -/
def Job.plan (j : Job) (k : Nat) : List (List (Nat × Nat) × List (Nat × Nat)) :=
  let r (n : Nat) : List (Nat × Nat) := (j.readRegions.drop n).take 1
  match j.kind with
  | 1 =>
    let x := j.xf
    [(x.chunkReads k ++ (if x.load then [] else (x.chunkImage k).map fun o => (x.img + o, 1)), j.readRegions)]
  | 2 =>
    if k = 0 then [([(j.field 0x88 8, j.field 0x90 4)], r 0), ([(j.field 0xB0 8, 4096)], r 2)]
    else (j.pictureChunk k).toList.map fun k => (j.refs k, r 1)
  | _ => [(((chunkOf j.scaleJob.count k).flatMap j.scaleJob.reads).eraseDups, r 0)]

/-- The regions that the writes of chunk k must lie in. -/
def Job.outRegions (j : Job) (k : Nat) : List (Nat × Nat) :=
  match j.kind with
  | 1 => j.writeRegions
  | 2 => if (j.pictureChunk k).isSome then j.writeRegions.take 1 else (j.writeRegions.drop 1).take 1
  | _ => j.writeRegions.take 1

/-- R272: the bitstream is in error. -/
def Job.wrong (j : Job) : Bool := j.kind == 2 && Config.decodeError j.coded

/-- R261: the writes of chunk k: to the image, or to the tensor and the scales; and to the residuals. What a decoder
writes its standard fixes (R272); after an error each byte of the picture keeps its old value or takes one that the
decoder writes. -/
def Job.writes (j : Job) (k : Nat) (rd : Nat → Byte) : List (Nat × Byte) × List (Nat × Byte) :=
  match j.kind with
  | 1 =>
    let x := j.xf
    if x.load then ((x.loadOut k rd).map fun e => (x.img + e.1, e.2), [])
    else x.storeOut k rd fun o => rd (x.img + o)
  | 2 =>
    match j.pictureChunk k with
    | some p =>
      let refs := (j.refs p).flatMap fun r => tab r.2 fun i => rd (r.1 + i)
      let kept (n : Nat) : Bool := j.wrong && Config.freeValue (j.draw + 1 + n) % 2 == 0
      (((chunkOf j.output.count p).filter fun n => !kept n).map fun n =>
        ((j.output.at n).2.2.2.2, Config.decodedByte j.coded refs n), [])
    | none =>
      if k = 0 then ([], [])
      else (tab 4096 fun n => (j.field 0xB0 8 + n, Config.decodedByte j.coded [] (j.output.count + n)), [])
  | _ => ((chunkOf j.scaleJob.count k).map fun n => (j.scaleJob.addr n, j.scaleJob.byte rd n), [])

/-- Ends a job with a status and its detail (R268). -/
def endJob (s : State) (n k : Nat) (t : W32) (status detail : Nat) : State :=
  s.modJob n k t fun j => { j with result := some (status, detail), work := Chunk.fresh }

/-- An access of a job outside its footprint (R266), as a cause of its chunk: no trap comes of it. -/
def footprintTrap : TrapReq := warpTrap .accRange 0 0

/-- The status of a job that met a cause (R268). DESIGN CHOICE, notes/assumptions/150.md: LEASE counts as a fabric failure. -/
def jobStatus (c : Cause) : Nat := match c with | .accRange => 0x02 | .dataErr => 0x04 | .fabric | .lease => 0x06 | _ => 0x03

/-- The waiter belongs to a job. -/
def Waiter.ofJob (n k t : Nat) : Waiter → Bool
  | .job ctx stream ticket _ => ctx == n && stream == k && ticket == t
  | _ => false

/-- Ends a job on a cause; `written` bytes have been written before it. -/
def failJob (s : State) (n k : Nat) (t : W32) (written : Nat) (c : TrapReq) : State :=
  (endJob s n k t (jobStatus c.cause) (if jobStatus c.cause = 3 then c.addr else written)).stopWaiters (Waiter.ofJob n k t.toNat)

/-- The mover of a job, on its engine's die. -/
def Job.mover (j : Job) (n k : Nat) : Mover :=
  { who := .job n k j.ticket.toNat, ctx := n, core := none, die := Config.dieOfEngine j.kind (j.engine.getD 0), warp := j.warp
    num := 0xFF, mine := Waiter.ofJob n k j.ticket.toNat }

/-- R266: an access of a job to bytes of its regions, in one canonical half; else its cause. -/
def regionTrap (regions : List (Nat × Nat)) (e : Nat × Nat) : Option TrapReq :=
  if !inRegions regions [e] then some footprintTrap
  else (badByte e.1 e.2).map fun a => warpTrap .vaRange a 0

/-- R261, R266: one step of a job's chunk: its sources are read, and then what it computes is written. -/
def jobStep (s : State) (n k : Nat) (t : W32) (j : Job) : State :=
  let mv := j.mover n k
  let keep (s : State) (c : Chunk) : State := s.modJob n k t fun j => { j with work := c }
  let write (s : State) (c : Chunk) : State :=
    match writeChunk mv (regionTrap (j.outRegions j.chunk)) s c with
    | .wait s c => keep s c
    | .fail s c e => failJob s n k t (j.written + c.bytes) e
    | .done s c =>
      s.modJob n k t fun j =>
        { j with
          chunk := j.chunk + 1, written := j.written + c.bytes, work := Chunk.fresh
          result := if j.chunks ≤ j.chunk + 1 then some (if j.wrong then 0x05 else 0, j.written + c.bytes) else none }
  if j.chunks ≤ j.chunk then endJob s n k t 0 j.written
  else if j.work.computed then write s j.work
  else
    let plan := j.plan j.chunk
    match plan.findSome? fun e => e.1.findSome? (regionTrap e.2) with
    | some c => failJob s n k t j.written c
    | none =>
      match readSources mv (unitsOf (plan.flatMap (·.1))) s j.work false with
      | .wait s c => keep s c
      | .fail s _ e => failJob s n k t j.written e
      | .done s c =>
        let (ws, rs) := j.writes j.chunk c.byte
        let latch (s : State) : State := s.modJob n k t fun j => { j with
          bits := tab (j.field 0x90 4) fun i => c.byte (j.field 0x88 8 + i), block := tab 4096 fun i => c.byte (j.field 0xB0 8 + i) }
        write (if j.kind = 2 && j.chunk = 0 then latch s else s) { c with computed := true, main := ws, resid := rs }

/-- R264: a copy's chunk has written something, and goes on to its end even while its team is pre-empted; a chunk that is to
restart, or that has only read, is begun again after the restore. -/
def Copy.midChunk (e : Copy) : Bool := e.work.computed && e.work.sent != 0 && !e.work.again

/-- COPY_CHUNK (R261): a copy or a running job takes its next chunk. -/
def execCopyChunk (xfer : Xfer) (s : State) : Out :=
  match xfer with
  | .copy core k =>
    match kget? (s.core core).copies k with
    | none => .next s
    | some e =>
      match s.team? e.team with
      | none => .next s
      | some t => 
        if e.stopped || !e.go || e.xf.chunks ≤ e.chunk || (t.preempting && !e.midChunk) then .next s
        else .next (copyStep s core k e t)
  | .job ctx stream ticket =>
    let t := BitVec.ofNat 32 ticket
    match (s.stream ctx stream).job? t with
    | none => .next s
    | some j => if !j.started || j.result.isSome then .next s else .next (jobStep s ctx stream t j)

/-- JOB_COMPLETE (R268): once every write of the job has been performed, the completion record is written, as a store at
system scope, and the job is complete. -/
def execJobComplete (ctx stream ticket : Nat) (s : State) : Out :=
  let t := BitVec.ofNat 32 ticket
  match (s.stream ctx stream).job? t with
  | none => .next s
  | some j =>
    match j.result, j.complete with
    | none, _ | _, true => .next s
    | some (status, detail), false =>
      let done (s : State) : State := s.modJob ctx stream t fun j => { j with complete := true }
      let mine := Waiter.ofJob ctx stream j.ticket.toNat
      let fresh := j.work == Chunk.fresh
      if fresh && s.underWay mine then .next s
      else if j.compl = 0 || (badByte j.compl 16).isSome then .next (done s)
      else
        let s := if fresh then s.stopWaiters mine else s
        let ws := writesAt j.compl (leBytes 4 ticket ++ leBytes 4 status ++ leBytes 8 detail)
        match wholeWrite (j.mover ctx stream) ws s j.work with
        | .wait s c => .next (s.modJob ctx stream t fun j => { j with work := c })
        | .fail s _ _ => .next (done s)
        | .done s _ => .next (done s)

end Sys2Proof.Machine
end

