-- ==== Sys2Proof/Machine/Device.lean ====
section
/-! DEFINITION. What the device's own agents share: ready functions (R420), TLB drops, and reads, writes and atomics in a
context's address space (R295, R296). -/

namespace Sys2Proof.Machine

/-- R420: a function's READY bit. -/
def State.up (s : State) (bit : Nat) : Bool := s.regs.ready.getLsbD bit

def State.modRegs (s : State) (f : Regs → Regs) : State := { s with regs := f s.regs }

def State.modCtx (s : State) (n : Nat) (f : Context → Context) : State := { s with contexts := kmod s.contexts n f }

/-- R339: the context is active. -/
def State.ctxActive (s : State) (n : Nat) : Bool := ((kget? s.contexts n).map (·.active)).getD false

/-- R339: the context is active and no retire of it has started. -/
def State.ctxOpen (s : State) (n : Nat) : Bool := ((kget? s.contexts n).map fun c => c.active && !c.retiring).getD false

/-- The address of the first byte, of n, that stands in a unit which cannot be corrected. -/
def State.firstDamaged (s : State) (a n : Nat) : Nat :=
  ((List.range n).findSome? fun i => (s.homeBad (.own (a + i) 0) 1).map fun _ => a + i).getD a

/-- The device reads n bytes of a table of its own (R356: under key slot 0); none where a unit of them cannot be corrected,
which it reports to the host alone (R404). -/
def State.devTake (s : State) (a n : Nat) : State × Option (List Byte) :=
  match s.homeBad (.own a 0) n with
  | none => (s, some (s.devRead a n))
  | some k => (s.hostError 0xFF 0xFF 0xFFFF (BitVec.ofNat 32 (0x100 + k)) (BitVec.ofNat 32 (s.firstDamaged a n)), none)

/-- The command processor reads n bytes of a launch queue of a context, at key slot 0; none where a unit of them cannot be
corrected, which it reports to the context and the host (R404). -/
def State.queueTake (s : State) (ctx a n : Nat) : State × Option (List Byte) :=
  match s.homeBad (.own a 0) n with
  | none => (s, some (s.devRead a n))
  | some k => (s.reportBad ctx 0xFF 0xFFFF k (s.firstDamaged a n), none)

/-- Drops TLB entries on every core and die. -/
def State.dropTlb (s : State) (p : TlbEntry → Bool) : State :=
  { s with
    cores := kmap (fun _ c => { c with tlb := c.tlb.filter fun e => !p e }) s.cores
    tlb0 := s.tlb0.filter fun e => !p e
    tlb1 := s.tlb1.filter fun e => !p e }

/-! ## Accesses of the command processor, in a context's address space -/

inductive EngRead where
  | ok (s : State) (bytes : List Byte)
  | wait (s : State)
  | fail (s : State)

/-- Reads bytes with an acquire at system scope. -/
def engRead (s : State) (who : Nat → Waiter) (n a len : Nat) : EngRead :=
  if (badByte a len).isSome then .fail s
  else
    match resolve who n none 0 .engineRead (unitsOf [(a, len)]) s false [] with
    | .wait s => .wait s
    | .fail s _ => .fail s
    | .ok s m =>
      match unitsBad s m with
      | some (kind, _, pa) =>
        .fail (s.reportBad n 0xFF 0xFFFF kind pa)
      | none =>
        match askAll s 0 (peerReads who m) with
        | .wait s => .wait s
        | .err s _ => .fail s
        | .done s _ => .ok s (tab len fun i => unitByte s m (a + i))

/-- What an atomic answers: `done` also when it has been dropped (R296). -/
inductive EngWrite where
  | done (s : State)
  | wait (s : State)

/-- Adds 1 to a 64-bit signal by an atomic at system scope. A signal that cannot be corrected is reported to the host alone
(R296, R404). A request that a port has accepted keeps its translation (R353). -/
def engAdd (s : State) (who : Nat → Waiter) (n a : Nat) : EngWrite :=
  match s.fab.find? fun r => r.2.who == who 0 with
  | some (k, r) => if r.answer.isSome then .done { s with fab := kdel s.fab k } else .wait s
  | none =>
  if (badByte a 8).isSome then .done s
  else
    match translate s (who 0) n none 0 a .atomic with
    | .wait s => .wait s
    | .err s _ _ => .done s
    | .ok s l _ =>
      match l with
      | .peer dev pa =>
        .wait (fabSend s (who 0) 0 dev pa a (.atomic (pa % 128) .b64 .add [(1, 0)]))
      | .own _ _ | .host _ =>
        let onHost := match l with | .host _ => true | .own _ _ | .peer _ _ => false
        if onHost && !s.hostAtomics then .done s
        else match s.homeBad l 8 with
          | some k => .done (s.hostError 0xFF 0xFF 0xFFFF (BitVec.ofNat 32 (0x100 + k)) (BitVec.ofNat 32 l.phys))
          | none => .done (s.putHomes l (leBytes 8 (leNat (s.homeBytes l 8) + 1)))

end Sys2Proof.Machine
end

