-- ==== Sys2Proof/Machine/Contexts.lean ====
section
/-! DEFINITION. Contexts (R337 to R339, R383), page requests and ATS (R349, R351, R362), shoot-down (R352 to R354) and
key slots (R356). -/

namespace Sys2Proof.Machine

/-! ## CTXCMD (R337 to R339, R383) -/

/-- A number at an offset of a record. -/
def fieldAt (b : List Byte) (off n : Nat) : Nat := leNat ((b.drop off).take n)

/-- R337, R339: a context record breaks no rule. -/
def contextOk (b : List Byte) : Bool :=
  let f := fieldAt b
  let pmax := 2 ^ f 0x30 1
  let reserved := f 0x08 4 / 2 ^ 20 != 0 || f 0x0C 1 / 4 != 0 || f 0x0D 3 != 0 || f 0x31 1 != 0 || f 0x34 4 != 0 || f 0x40 64 != 0
  !reserved && f 0x0C 1 % 2 == 1
    && f 0 8 % 65536 == 0 && decide (f 0 8 < Config.hbmBytes)
    && decide (16 ≤ f 0x30 1) && decide (f 0x30 1 ≤ 30)
    && f 0x20 8 % pmax == 0 && isCanonical (f 0x20 8) && f 0x28 8 % 65536 == 0 && isCanonical (f 0x28 8)
    && f 0x38 8 % 65536 == 0 && decide (f 0x38 8 ≤ pmax)

/-- R383: a recovery record of a context with this KEYMASK breaks no rule. Its reserved bytes are ignored (R5). -/
def recoveryOk (keyMask : BitVec 128) (r : List Byte) : Bool :=
  let g := fieldAt r
  g 0 8 % 4 == 0 && isCanonical (g 0 8) && g 8 8 % 4096 == 0 && decide (g 8 8 < Config.hbmBytes) && g 0x10 8 % 4096 == 0
    && decide (g 0x18 2 ≤ 4096) && decide (g 0x1A 1 < 128) && keyMask.getLsbD (g 0x1A 1)
    && (decide (g 0x1C 4 ≤ 1000) || g 0x1C 4 == 0xFFFFFFFF)

/-- R383: the recovery fields of a context. -/
def Context.withRecovery (c : Context) (r : List Byte) : Context :=
  let g := fieldAt r
  { c with
    thand := g 0 8, fpool := g 8 8, fslot := g 0x10 8, nslot := g 0x18 2, fkey := g 0x1A 1
    pfTime := if g 0x1C 4 = 0 then 20 else g 0x1C 4 }

/-- The context that a record describes, active; atomic sets and a pre-emption in force stay (R315, R395). -/
def contextOf (old : Option Context) (b r : List Byte) : Context :=
  let f := fieldAt b
  let c : Context :=
    { active := true, retiring := false, dptRoot := f 0 8, pasid := f 8 4, priOff := f 0x0C 1 / 2 % 2 == 1
      keyMask := BitVec.ofNat 128 (f 0x10 16), pBase := f 0x20 8, pBack := f 0x28 8, pMaxLog2 := f 0x30 1, nPriv := f 0x32 2
      hwm := f 0x38 8, thand := 0, fpool := 0, fslot := 0, nslot := 0, fkey := 0, pfTime := 20
      preempted := (old.map (·.preempted)).getD false, sets := (old.map (·.sets)).getD [] }
  c.withRecovery r

/-- R383: the bytes of context n's recovery record; none when a unit of them is damaged (R404). -/
def State.readRecovery (s : State) (n : Nat) : State × Option (List Byte) := s.devTake (s.regs.rectab + 64 * n) 64

/-- The bytes of context n's record and of its recovery record; none when a unit of them is damaged (R404). -/
def State.readRecords (s : State) (n : Nat) : State × Option (List Byte × List Byte) :=
  match s.devTake (s.regs.ctxtab + 128 * n) 128 with
  | (s, none) => (s, none)
  | (s, some b) =>
    match s.readRecovery n with
    | (s, none) => (s, none)
    | (s, some r) => (s, some (b, r))

/-- R269: an activation creates the context when it was not active and no saved frame, no launch and no unfinished job of it
is left; the tickets of its streams then start from 0. DESIGN CHOICE, notes/assumptions/134.md. -/
def createStreams (s : State) (n : Nat) : State :=
  if s.ctxActive n || s.frames.any (fun f => f.2.ctx == n) || s.launches.any (fun l => l.2.ctx == n)
      || s.streams.any (fun x => x.1 / 16 == n && x.2.jobs.any fun j => !j.complete) then s
  else { s with streams := s.streams.filter fun x => x.1 / 16 != n }

/-- CTXCMD_ACTIVATE (R339). -/
def execCtxcmdActivate (ctx : Nat) (s : State) : Out :=
  if !s.up 4 || s.regs.ctxBusy.isSome || 64 ≤ ctx then .next s
  else
    let fail (s : State) (k : Nat) : State :=
      (s.modCtx ctx fun c => { c with active := false }).modRegs fun g => { g with ctxResult := k }
    match s.readRecords ctx with
    | (s, none) => .next (fail s 1)
    | (s, some (b, r)) =>
      if !(contextOk b && recoveryOk (contextOf none b r).keyMask r) then .next (fail s 1)
      else if s.contexts.any fun e => e.1 != ctx && e.2.active && e.2.pasid == fieldAt b 8 4 then .next (fail s 2)
      else
        let c := contextOf (kget? s.contexts ctx) b r
        let s := createStreams s ctx
        .next ({ s with contexts := kput s.contexts ctx c }.modRegs fun g => { g with ctxResult := 0 })

/-- R339: the context has no resident team, no engine job that has started, no queued invalidation and no launch that is
still to complete for its sake. -/
def retireReady (s : State) (n : Nat) : Bool :=
  let total (d : Desc) : Nat := d.gridX * d.gridY * d.gridZ / (d.gangX * d.gangY * d.gangZ)
  s.teams.all (fun t => t.2.ctx != n)
    && s.streams.all (fun x => x.1 / 16 != n || x.2.jobs.all fun j => !j.started || j.complete)
    && (s.invQ ++ s.atsInv).all (fun c => c.ctx != n && c.ctx != 0xFF)
    && s.launches.all fun l => l.2.ctx != n || (l.2.status.isNone && l.2.admitted.length == total l.2.desc
        && l.2.retired != l.2.desc.gridX * l.2.desc.gridY * l.2.desc.gridZ)

/-- CTXCMD_RETIRE (R339): starts a retire, or ends the one in progress once its conditions hold. -/
def execCtxcmdRetire (ctx : Nat) (s : State) : Out :=
  let begins := s.regs.ctxBusy.isNone && s.up 4 && decide (ctx < 64)
  if !begins && s.regs.ctxBusy != some ctx then .next s
  else
    let s := (s.modCtx ctx fun c => { c with retiring := true }).modRegs fun g => { g with ctxBusy := some ctx }
    if !retireReady s ctx then .next s
    else
      let s := s.dropTlb fun e => e.ctx == ctx
      let s := { s with ats := s.ats.filter fun r => r.2.ctx != ctx }
      .next ((s.modCtx ctx fun c => { c with active := false, retiring := false }).modRegs fun g =>
        { g with ctxBusy := none, ctxResult := 0 })

/-! ## PRI (R349, R362) -/

/-- A failure is kept for each waiter of a request (R349). -/
def State.deny (s : State) (r : PriReq) (info : W32) : State :=
  { s with
    priDenied := s.priDenied ++ (r.waiters.filter fun w => match w with | .hwm _ _ => false | _ => true).map fun w => (w, r.page, info)
    launches := kmap (fun k l => if r.waiters.contains (.hwm l.ctx k) then { l with privWait := false } else l) s.launches }

/-- R362: HWM is read again after a Success for an offset of the private window. -/
def State.rereadHwm (s : State) (r : PriReq) : State :=
  if r.past = 0 then s
  else match s.devTake (s.regs.ctxtab + 128 * r.ctx + 0x38) 8 with
    | (s, none) => s
    | (s, some h) => s.modCtx r.ctx fun c => { c with hwm := leNat h }

/-- R349: after a Success the walk is repeated: does the fault that a request serves remain? In the private window it does
while HWM does not reach the access (R362). -/
def PriReq.remains (s : State) (r : PriReq) : Bool :=
  match kget? s.contexts r.ctx with
  | none => false
  | some c =>
    if r.past ≠ 0 then decide (c.hwm < r.past)
    else match walk s r.ctx c r.page with
      | .invalid => true
      | .leaf _ | .refused _ | .bad _ => false

/-- R404: the walk that a Success repeats meets a damaged table entry, which is reported for the context. -/
def PriReq.reportWalk (s : State) (r : PriReq) : State :=
  match kget? s.contexts r.ctx with
  | none => s
  | some c =>
    if r.past ≠ 0 then s
    else match walk s r.ctx c r.page with
      | .bad pa => s.reportBad r.ctx 0xFF 0xFFFF 1 pa
      | .leaf _ | .invalid | .refused _ => s

/-- R349: a fault is counted by its context, its die and its page. -/
def PriReq.site (r : PriReq) : Nat := r.ctx + 64 * r.die

/-- PRI_RESPONSE (R349, R362). -/
def execPriResponse (req : Nat) (answer : PriAnswer) (s : State) : Out :=
  match kget? s.pri req with
  | none => .next s
  | some r =>
    match answer with
    | .success =>
      let s := { s with pri := kdel s.pri req }
      let s := { s with
        launches := kmap (fun k l => if r.waiters.contains (.hwm l.ctx k) then { l with privWait := false } else l) s.launches }
      let s := s.rereadHwm r
      let s := s.dropTlb fun e => e.tier == 3 && e.covers r.ctx r.page
      if r.perm then .next { s with priGranted := s.priGranted ++ r.waiters.map fun w => (w, r.page) }
      else
        let tries := s.triesOf r.site r.page
        let s := PriReq.reportWalk (s.clearTries r.site r.page) r
        .next (if !r.remains s then s
          else if tries < 2 then { s with priTries := (r.site, r.page, tries + 1) :: s.priTries }
          else s.deny r 0x105)
    | .invalid => .next ({ s with pri := kdel s.pri req }.deny r 0x01)
    | .failure =>
      let flags := s.regs.ctxtab + 128 * r.ctx + 0x0C
      let s := match s.devTake flags 1 with
        | (s, some old) => s.devWrite flags [BitVec.ofNat 8 (leNat old ||| 2)]
        | (s, none) => s
      let s := s.modCtx r.ctx fun c => { c with priOff := true }
      let mine := s.pri.filter fun e => e.2.ctx == r.ctx
      .next (mine.foldl (fun s e => { s with pri := kdel s.pri e.1 }.deny e.2 0x0F) s)

/-! ## ATS (R351) -/

/-- ATS_COMPLETION (R351): the translation enters the die's TLB. -/
def execAtsCompletion (req hpa sizeLog2 : Nat) (rd wr : Bool) (s : State) : Out :=
  match kget? s.ats req with
  | none => .next s
  | some r =>
    let given := max 12 sizeLog2
    let b := max 12 (min r.leaf.size given)
    let va := r.va % 2 ^ 57 / 2 ^ b * 2 ^ b
    let e : TlbEntry :=
      { r.leaf with
        va := va, size := b, frame := hpa / 2 ^ given * 2 ^ given + va % 2 ^ given
        rd := r.leaf.rd && rd, wr := r.leaf.wr && wr, ex := false }
    .next ({ s with ats := kdel s.ats req }.addDieTlb r.die e)

/-! ## Shoot-down (R352 to R354) -/

/-- ATS_INVALIDATE_REQUEST (R352): for the context whose PASID it names; with no such context it is complete at once. -/
def execAtsInvalidateRequest (pasid va len : Nat) (s : State) : Out :=
  match s.contexts.find? fun c => c.2.active && c.2.pasid == pasid with
  | none => .next { s with atsDone := s.atsDone + 1 }
  | some (n, _) => .next { s with atsInv := s.atsInv ++ [⟨n, va, len, 0⟩] }

/-- INVGO (R352): queues the command that the four registers hold. -/
def execInvgo (s : State) : Out :=
  if !s.up 4 then .next s
  else if 16 ≤ s.invQ.length then .next (s.modRegs fun g => { g with invErr := true })
  else .next { s with invQ := s.invQ ++ [⟨s.regs.invCtx, s.regs.invVa, s.regs.invLen, s.regs.invSig⟩] }

/-- The command covers a byte of a page of a context. -/
def InvCmd.hits (c : InvCmd) (n va size : Nat) : Bool :=
  (c.ctx == 0xFF || c.ctx == n) && (c.len == 0 || overlap (c.va % 2 ^ 57) c.len (va % 2 ^ 57) size)

/-- The context of an engine's or a warp's request. -/
def State.waiterCtx (s : State) (w : Waiter) : Option Nat :=
  match w with
  | .copy core k _ => ((kget? (s.core core).copies k).bind fun c => s.team? c.team).map (·.ctx)
  | .job ctx _ _ _ => some ctx
  | .launch ctx _ _ => some ctx
  | _ => none

/-- R353: a write of an engine that took its translation earlier is still on its way to another device. -/
def engineWriteOut (s : State) (c : InvCmd) : Bool :=
  s.fab.any fun r =>
    r.2.answer.isNone && (match r.2.op with | .write _ | .atomic .. => true | .read | .discard | .message _ => false)
      && match s.waiterCtx r.2.who with
        | some n => c.hits n r.2.va 128
        | none => false

/-- R353: dirty bytes of other devices' lines whose write-back no port has accepted yet. -/
def unsentDirty (s : State) (die : Nat) : Bool :=
  (s.rdc die).any fun e => e.2.dirty != 0 && match locOfLine e.1 with
    | .peer _ _ => !(s.fab.any fun r => r.2.who == .rdc die e.1)
    | .own _ _ | .host _ => false

/-- R353: earlier accesses are brought to their homes; the answer is false while one is still on its way. -/
def settleAccesses (s : State) (c : InvCmd) : State × Bool :=
  let s := (releaseCopies s 0 .system).1
  let s := (releaseCopies s 1 .system).1
  (s, !(engineWriteOut s c || unsentDirty s 0 || unsentDirty s 1))

/-- The translations that a command withdraws; walks in progress start again. -/
def dropRange (s : State) (c : InvCmd) (onlyHost : Bool) : State :=
  let s := s.dropTlb fun e => (e.tier == 3 || !onlyHost) && c.hits e.ctx e.va (2 ^ e.size)
  { s with ats := s.ats.filter fun r => !c.hits r.2.ctx r.2.leaf.va (2 ^ r.2.leaf.size) }

/-- INVALIDATION_COMPLETE (R352, R353): the oldest invalidation completes; the host's own requests come first. -/
def execInvalidationComplete (s : State) : Out :=
  match s.atsInv, s.invQ with
  | [], [] => .next s
  | c :: cs, _ =>
    let (s, ok) := settleAccesses s c
    if !ok then .next s else .next (dropRange { s with atsInv := cs, atsDone := s.atsDone + 1 } c true)
  | [], c :: cs =>
    let (s, ok) := settleAccesses s c
    if !ok then .next s else .next ((dropRange { s with invQ := cs } c false).devSignal c.sig)

/-! ## Key slots (R356, R357) -/

/-- A line of a cache is tagged with a key slot of this device. -/
def lineOfKey (k t : Nat) : Bool := decide (t < 2 ^ 64) && t % 128 == k

/-- R13, R406: writes a dirty L2 line back. A burst that takes bytes of a damaged unit is marked in HBM, and the host is told;
one written whole becomes sound (R407). -/
def evictL2 (s : State) (t : Nat) : State :=
  match kget? s.l2 t with
  | none => s
  | some l =>
    let pa := t / 128 * 128
    let hurt := if s.bad.isEmpty then [] else (List.range 8).filter fun j => s.isBad (2, 0, t * 8 + j)
    let whole := (List.range 2).filter fun h => l.dirty.extractLsb' (64 * h) 64 == BitVec.allOnes 64
    let s := s.l2Evict t
    let s := whole.foldl (fun s h => s.mendBad 1 0 64 (pa + 64 * h) 64) s
    if hurt.isEmpty then s
    else
      let bursts := (hurt.map fun j => (1, 0, pa / 64 + j / 4)).eraseDups
      let s := { s with bad := bursts ++ s.bad.filter fun u => !((u.1 == 2 && u.2.2 / 8 == t) || bursts.contains u) }
      hurt.foldl (fun s j => s.hostError 0xFF 0xFF 0xFFFF (BitVec.ofNat 32 0x102) (BitVec.ofNat 32 (pa + 16 * j))) s

/-- Writes back and drops every cached line of a key slot. -/
def flushKey (s : State) (k : Nat) : State :=
  let s := [0, 1].foldl (fun s die =>
    (kwhere (s.rdc die) fun t _ => lineOfKey k t).foldl (fun s t => (s.writeBackRdc die t).dropRdc die t) s) s
  let s := { s with cores := kmap (fun _ c => { c with l1 := c.l1.filter fun e => !lineOfKey k e.1 }) s.cores }
  (kwhere s.l2 fun t _ => lineOfKey k t).foldl evictL2 s

/-- HBM keeps what was written under a key that is about to be replaced, as ciphertext. -/
def sealLines (s : State) (k : Nat) : State :=
  (kwhere s.keyTag fun _ t => t == k).foldl (fun s line =>
    let cipher := xtsLine false (s.keyBytes k) line ((s.hbmRaw line).map (·.toNat))
    { s with
      hbm := (List.range 128).foldl (fun m i => mput m (line * 128 + i) (BitVec.ofNat 8 (cipher.getD i 0))) s.hbm
      keyTag := kput s.keyTag line cipherTag }) s

/-- The common part of the KEYCMD commands. -/
def keyCommand (s : State) (x : List Byte → KeySlot) : State :=
  let k := s.regs.keyIdx
  if !s.up 4 || k = 0 then s
  else
    let s := sealLines (flushKey s k) k
    { s with keys := kput s.keys k (x s.regs.keyData) }.modRegs fun g => { g with keyData := List.replicate 64 0 }

/-- R338: [1:0] of KEYCMD keeps the command last written. -/
def State.writeKeyOp (s : State) (op : Nat) : State := if s.up 4 then s.modRegs fun g => { g with keyOp := op } else s

/-- KEYCMD_LOAD (R356). -/
def execKeycmdLoad (s : State) : Out := .next (keyCommand (s.writeKeyOp 1) fun m => ⟨true, m⟩)

/-- KEYCMD_ERASE (R356). -/
def execKeycmdErase (s : State) : Out := .next (keyCommand (s.writeKeyOp 2) fun _ => ⟨false, []⟩)

end Sys2Proof.Machine
end

