-- ==== Sys2Proof/Machine/Control.lean ====
section
/-! DEFINITION. Control flow, rejoin masks, hardware loops and cross-lane moves (R75 to R92). -/

namespace Sys2Proof.Machine

/-! ## Targets (R76) -/

/-- R76: the cause of a target taken from a register or from memory. -/
def targetCause (t : Nat) : Option (Cause × W32) :=
  if t % 4 != 0 then some (.align, 2) else if !isCanonical t then some (.vaRange, 0) else none

/-- R74, R76: the trap of the targets of the lanes of a mask: ALIGN in any lane before VA_RANGE in any lane. -/
def targetTrap (x : LaneMask) (t : Nat → Nat) : Option TrapReq :=
  let has (c : Cause) : LaneMask := maskOf fun l => laneBit x l && (targetCause (t l)).map (·.1) == some c
  let a := has .align
  let v := has .vaRange
  if a != 0 then some ⟨.align, t (lowest a), a, 2⟩
  else if v != 0 then some ⟨.vaRange, t (lowest v), v, 0⟩
  else none

/-- R60: VA_RANGE for a target at a byte offset that is not canonical. -/
def relTrap (pc : Nat) (d : Int) (lanes : LaneMask) : TrapReq := ⟨.vaRange, relTarget pc d, lanes, 0⟩

/-- R60, R76: takes the target at a word offset, or raises VA_RANGE. -/
def relOr (pc : Nat) (d : Int) (r : Nat → Res) : Res :=
  if relCanonical pc d then r (relTarget pc d) else .trap (relTrap pc d allLanes)

/-! ## Lane branches (R77) -/

/-- LBRA (R77). -/
def execLbra (h : LaneHdr) (off : BitVec 18) (s : State) : Out :=
  laneOp (.lbra h off) h [] notInHandler s fun w x =>
    let pc := w.issueAddr
    let d := 4 * sext off
    if x != 0 && !relCanonical pc d then .trap (relTrap pc d x)
    else .moved s (w.moveLanes w.active fun l => if laneBit x l then relTarget pc d else pc + 4)

/-- LBRX (R77). -/
def execLbrx (h : LaneHdr) (va : Reg) (s : State) : Out :=
  laneOp (.lbrx h va) h [(va.toNat, 2)] notInHandler s fun w x =>
    let t l := (w.vr64 l va.toNat).toNat
    match targetTrap x t with
    | some c => .trap c
    | none => .moved s (w.moveLanes w.active fun l => if laneBit x l then t l else w.issueAddr + 4)

/-! ## Warp branches (R78) -/

/-- BRA (R78). -/
def execBra (h : WarpHdr) (off : BitVec 18) (s : State) : Out :=
  warpOp (.bra h off) h none [] anyMode s fun w => relOr w.issueAddr (4 * sext off) fun t => .moved s (w.jumpTo w.active t)

/-- CALL (R78). -/
def execCall (h : WarpHdr) (off : BitVec 18) (s : State) : Out :=
  warpOp (.call h off) h none [] anyMode s fun w =>
    relOr w.issueAddr (4 * sext off) fun t =>
      .moved s ({ w.soundSr 0x20 with link := BitVec.ofNat 64 (w.issueAddr + 4) }.jumpTo w.active t)

/-- RET (R78). -/
def execRet (h : WarpHdr) (s : State) : Out :=
  warpOp (.ret h) h none [] anyMode s fun w =>
    match targetCause w.link.toNat with
    | some (c, info) => .trap (warpTrap c w.link.toNat info)
    | none => .moved s (w.jumpTo w.active w.link.toNat)

/-! ## Rejoin masks (R80 to R82) -/

def Warp.jmMask (w : Warp) (k : Nat) : LaneMask := kget w.jm k 0
def Warp.waitMask (w : Warp) (k : Nat) : LaneMask := kget w.waitK k 0

/-- R82: the waiters of mask K go on past their JOIN. -/
def Warp.releaseJoin (w : Warp) (k : Nat) : Warp :=
  let ws := w.waitMask k
  { w with waitK := kput w.waitK k 0, jm := kput w.jm k (w.jmMask k &&& ~~~ws)
           vpc := (w.moveLanes ws fun l => w.vpcOf l + 4).vpc }

/-- R82: Evaluate(K). -/
def Warp.evaluate (w : Warp) (k : Nat) : Warp :=
  let ws := w.waitMask k
  if ws = 0 then w
  else
    let pending := w.jmMask k &&& w.live &&& ~~~ws
    if pending &&& (w.ready ||| w.lateLanes) = 0 then w.releaseJoin k else w

/-- R82: Evaluate for every mask with waiters. DESIGN CHOICE, notes/assumptions/120.md: K ascends, and each evaluation sees
the lanes that those before it made ready. -/
def Warp.evaluateAll (w : Warp) : Warp := (List.range 8).foldl Warp.evaluate w

/-- R82, third case: the mask with the lowest waiting vpc, the lower K on a tie. -/
def Warp.forcedMask (w : Warp) : Option Nat :=
  ((List.range 8).filter fun k => w.waitMask k != 0).foldl
    (fun b k => match b with
      | none => some k
      | some j => if w.minPc (w.waitMask k) < w.minPc (w.waitMask j) then some k else b) none

/-- JARR (R80). -/
def execJarr (h : LaneHdr) (acc : Bool) (k : BitVec 3) (s : State) : Out :=
  laneOp (.jarr h acc k) h [] notInHandler s fun w x =>
    .done s { w.soundSr (0x18 + k.toNat) with jm := kput w.jm k.toNat (if acc then w.jmMask k.toNat ||| x else x) }

/-- JOIN (R81). -/
def execJoin (h : LaneHdr) (k : BitVec 3) (s : State) : Out :=
  laneOp (.join h k) h [] notInHandler s fun w x =>
    let stay := x &&& w.jmMask k.toNat
    let w' := w.moveLanes (w.active &&& ~~~stay) fun _ => w.issueAddr + 4
    .moved s ({ w' with waitK := kput w'.waitK k.toNat (w'.waitMask k.toNat ||| stay) }.evaluate k.toNat)

/-! ## Hardware loops (R85 to R87) -/

/-- R85: the effect of LOOP and LOOPI for a count. -/
def loopBody (s : State) (w : Warp) (c : W32) (lend : BitVec 14) : Res :=
  let pc := w.issueAddr
  relOr pc (4 * lend.toNat) fun exitAt =>
  let records := if w.inh then w.hloops else w.loops
  let depth := records.length
  if c = 0 then .moved s (w.jumpTo w.active exitAt)
  else if depth = 3 then .trap (loopTrap w allLanes)
  else if (records.head?.map fun r => decide (r.exitAddr < exitAt)).getD false then .trap (loopTrap w allLanes)
  else
    let r : LoopRec := ⟨canon57 (pc + 8), exitAt, c⟩
    if w.inh then .moved s { w with hloops := r :: w.hloops, hpc := canon57 (pc + 8) }
    else .moved s ({ w.soundSr (0x10 + depth) with loops := r :: w.loops, lc := kput w.lc depth c }.jumpTo w.active (canon57 (pc + 8)))

/-- The words that open a loop jump past the body when their guard is false (R85). -/
def loopOp (i : Instr) (h : WarpHdr) (lend : BitVec 14) (count : Warp → W32) (s : State) : Out :=
  match s.warp? s.cur with
  | none => .fault .noWarp
  | some w => finish s w i allLanes (loopBody s w (if w.qGuard h then count w else 0) lend)

/-- LOOP (R85). -/
def execLoop (h : WarpHdr) (sa : Reg) (lend : BitVec 14) (s : State) : Out :=
  loopOp (.loop h sa lend) h lend (fun w => w.sr sa.toNat) s

/-- LOOPI (R85). -/
def execLoopi (h : WarpHdr) (count : BitVec 16) (lend : BitVec 14) (s : State) : Out :=
  loopOp (.loopi h count lend) h lend (fun _ => count.zeroExtend 32) s

/-- LBREAK (R87). -/
def execLbreak (h : WarpHdr) (off : BitVec 18) (s : State) : Out :=
  warpOp (.lbreak h off) h none [] anyMode s fun w =>
    relOr w.issueAddr (4 * sext off) fun t =>
    if w.inh then
      match w.hloops with
      | [] => .trap (loopTrap w allLanes)
      | _ :: rs => .moved s { w with hloops := rs, hpc := t }
    else
      match w.loops with
      | [] => .trap (loopTrap w allLanes)
      | _ :: rs =>
        if w.role == .epilogue && w.active != w.live then .trap (loopTrap w allLanes)
        else .moved s ({ w.soundSr (0x10 + rs.length) with loops := rs, lc := kput w.lc rs.length 0 }.jumpTo w.active t)

/-! ## Cross-lane moves (R88 to R91) -/

/-- R88: the source lane of lane l, and whether it may be read. -/
def shflSource (mode : ShflMode) (nw : Bool) (seg b l : Nat) : Nat × Bool :=
  let n := 2 ^ seg
  let base := l / n * n
  let o := l - base
  match mode with
  | .pick => (base + b % n, true)
  | .bfly => (base + (o ^^^ b) % n, true)
  | .rotd => (base + (o + b) % n, !(nw && decide (n ≤ o + b)))
  | .rotu => (base + (((o : Int) - b) % n).toNat, !(nw && decide (o < b)))

/-- SHFL (R88). -/
def execShfl (h : LaneHdr) (vd va vb : Reg) (nw imm : Bool) (b5 : BitVec 5) (seg : BitVec 3) (mode : ShflMode)
    (s : State) : Out :=
  laneOp (.shfl h vd va vb nw imm b5 seg mode) h [(vd.toNat, 1), (va.toNat, 1), (vb.toNat, 1)] notInHandler s fun w x =>
    let b l := if imm then b5.toNat else (w.vr l vb.toNat).toNat % 32
    .done s (w.setV vd.toNat x fun l =>
      let (j, ok) := shflSource mode nw seg.toNat (b l) l
      if ok && laneBit x j then w.vr j va.toNat else w.vr l va.toNat)

/-- VOTE (R89). -/
def execVote (h : LaneHdr) (vd : Reg) (mode : VoteMode) (psn : Bool) (ps pd : BitVec 3) (s : State) : Out :=
  laneOp (.vote h vd mode psn ps pd) h (if mode.toReg then [(vd.toNat, 1)] else []) notInHandler s fun w x =>
    let b : LaneMask := x &&& (if psn then ~~~(w.pMask ps.toNat) else w.pMask ps.toNat)
    match mode with
    | .mask => .done s (w.setV vd.toNat x fun _ => b)
    | .count => .done s (w.setV vd.toNat x fun _ => BitVec.ofNat 32 (popMask b))
    | .all => .done s (w.setP pd.toNat x fun _ => b == x)
    | .any => .done s (w.setP pd.toNat x fun _ => b != 0)
    | .unif => .done s (w.setP pd.toNat x fun _ => b == 0 || b == x)

/-- MATCH (R89). -/
def execMatchAny (h : LaneHdr) (vd va : Reg) (s : State) : Out :=
  laneOp (.matchAny h vd va) h [(vd.toNat, 1), (va.toNat, 1)] notInHandler s fun w x =>
    .done s (w.setV vd.toNat x fun l => maskOf fun j => laneBit x j && w.vr j va.toNat == w.vr l va.toNat)

/-- R90: the lane that the extension selects. -/
def selectedLane (w : Warp) (sl : Reg) (lsrc : Bool) (lane : BitVec 5) : Nat :=
  if lsrc then (w.sr sl.toNat).toNat % 32 else lane.toNat

/-- RDLANE (R90, R92). -/
def execRdlane (h : LaneHdr) (sd va sl : Reg) (lsrc : Bool) (lane : BitVec 5) (s : State) : Out :=
  laneOp (.rdlane h sd va sl lsrc lane) h [(va.toNat, 1)] anyMode s fun w x =>
    let n := selectedLane w sl lsrc lane
    .done s (w.setS sd.toNat (if laneBit x n then w.vr n va.toNat else 0))

/-- WRLANE (R90, R92). -/
def execWrlane (h : LaneHdr) (vd ss sl : Reg) (lsrc : Bool) (lane : BitVec 5) (s : State) : Out :=
  laneOp (.wrlane h vd ss sl lsrc lane) h [(vd.toNat, 1)] anyMode s fun w x =>
    let n := selectedLane w sl lsrc lane
    .done s (if laneBit x n then w.setV vd.toNat (1#32 <<< n) fun _ => w.sr ss.toNat else w)

/-- VPCGET (R91, R92). -/
def execVpcget (h : LaneHdr) (vd : Reg) (s : State) : Out :=
  laneOp (.vpcget h vd) h [(vd.toNat, 2)] anyMode s fun w x =>
    .done s (w.setV64 vd.toNat x fun l => BitVec.ofNat 64 (canon57 (w.vpcOf l)))

/-- VPCSET (R83, R91): exited lanes keep their vpc; a moved lane leaves its JOIN wait. -/
def execVpcset (h : LaneHdr) (va : Reg) (s : State) : Out :=
  laneOp (.vpcset h va) h [(va.toNat, 2)] onlyInHandler s fun w x =>
    let t l := (w.vr64 l va.toNat).toNat
    match targetTrap x t with
    | some c => .trap c
    | none =>
      let m := x &&& w.live
      .done s { w.moveLanes m t with waitK := kmap (fun _ k => k &&& ~~~m) w.waitK }

end Sys2Proof.Machine
end

