-- ==== Sys2Proof/Machine/Matrix.lean ====
section
/-! DEFINITION. The matrix unit (R171 to R198): formats, checks, queues, steps and the sums of R132 to R134. -/

namespace Sys2Proof.Machine

/-! ## Format words (R178) -/

/-- The fields of a format word. -/
def fwA (fw : W32) : Nat := (fld fw 29 3).toNat
def fwB (fw : W32) : Nat := (fld fw 26 3).toNat
def fwM (fw : W32) : Nat := (fld fw 19 7).toNat + 1
def fwN (fw : W32) : Nat := (fld fw 12 7).toNat + 1
def fwK (fw : W32) : Nat := 8 * ((fld fw 4 8).toNat + 1)
def fwAsc (fw : W32) : Bool := bit fw 3
def fwBsc (fw : W32) : Bool := bit fw 2
def fwZc (fw : W32) : Bool := bit fw 1
def fwSp (fw : W32) : Bool := bit fw 0

/-- Width in bits of an operand format code; code 4 is s8. -/
def opWidth (c : Nat) : Nat := match c with | 0 | 1 => 16 | 2 | 3 | 4 => 8 | 5 | 6 => 6 | _ => 4

/-- The floating-point format of a code other than s8. -/
def opFmt (c : Nat) : Fmt :=
  match c with | 0 => .bf16 | 1 => .f16 | 2 => .e4m3 | 3 => .e5m2 | 5 => .e3m2 | 6 => .e2m3 | _ => .e2m1

/-- The kinds of matrix operation. -/
def kMma : Nat := 0
def kMmas : Nat := 1
def kMmap : Nat := 2
def kAccz : Nat := 3
def kAcccpy : Nat := 4

/-- MMA, MMAS or MMAP. -/
def MatOp.isMul (o : MatOp) : Bool := decide (o.kind ≤ 2)

/-- The words of an operand record (R177). -/
def recOf (l : List W32) (k : Nat) : Nat := (l.getD k 0).toNat
/-- ABASE or BBASE (R128). -/
def baseOf (l : List W32) : Int := ((l.getD 3 0).extractLsb' 0 8).toInt

/-- R179: elements that A stores for each group of 8. -/
def MatOp.keep (o : MatOp) : Nat := if o.kind = kMmas then (if fwSp o.fw then 2 else 4) else 8

/-- Bytes of a row of A and of B (R179). -/
def MatOp.la (o : MatOp) : Nat := ceilDiv (fwK o.fw / 8 * o.keep * opWidth (fwA o.fw)) 8
def MatOp.lb (o : MatOp) : Nat := ceilDiv (fwK o.fw * opWidth (fwB o.fw)) 8

/-- R175: the row length of an accumulator tile in elements. -/
def tileNp (n : Nat) : Nat := 32 * ceilDiv n 32

/-- R191: the control word of ACCCPY. -/
def cpPitch (c : W32) : Nat := (fld c 16 16).toNat
def cpDt (c : W32) : Nat := (fld c 14 2).toNat
def cpN (c : W32) : Nat := (fld c 7 7).toNat + 1
def cpM (c : W32) : Nat := (fld c 0 7).toNat + 1
/-- Bytes of an element and of a row of the destination; DT 3 counts as DT 0. -/
def cpBytes (c : W32) : Nat := if cpDt c = 1 || cpDt c = 2 then 2 else 4
def cpRow (c : W32) : Nat := cpBytes c * cpN c

/-- The scratchpad regions of an operation (R182): first byte and length. -/
def MatOp.regions (o : MatOp) : List (Nat × Nat) :=
  if o.isMul then
    let m := fwM o.fw
    let n := fwN o.fw
    let k := fwK o.fw
    [(recOf o.a 0, (m - 1) * recOf o.a 1 + o.la), (recOf o.b 0, (n - 1) * recOf o.b 1 + o.lb)]
      ++ (if fwAsc o.fw then [(recOf o.a 2, m * ceilDiv k 16)] else [])
      ++ (if fwBsc o.fw then [(recOf o.b 2, n * ceilDiv k 16)] else [])
      ++ (if o.kind = kMmas then [(recOf o.a 4, m * (k / 8))] else [])
  else if o.kind = kAcccpy then [(recOf o.b 0, (cpM o.c - 1) * cpPitch o.c + cpRow o.c)]
  else []

/-- The orangery extent of an operation: offset and length. -/
def MatOp.tile (o : MatOp) : Nat × Nat :=
  if o.isMul then (o.c.toNat, 4 * fwM o.fw * tileNp (fwN o.fw))
  else if o.kind = kAcccpy then (recOf o.a 0, 4 * cpM o.c * tileNp (cpN o.c))
  else (recOf o.a 0, 16384 * recOf o.b 0)

/-- R182: the lowest FMT case. -/
def MatOp.fmtCase (o : MatOp) : Option W32 :=
  let fw := o.fw
  let noScale (c : Nat) : Bool := c == 0 || c == 1 || c == 4
  let pitch (l : List W32) (rows len : Nat) : Bool :=
    recOf l 0 % 16 != 0 || recOf l 1 % 16 != 0 || (decide (1 < rows) && decide (recOf l 1 < len))
  if o.isMul then
    if (fwA fw == 4) != (fwB fw == 4) then some 0x01
    else if fwAsc fw && noScale (fwA fw) then some 0x02
    else if fwBsc fw && noScale (fwB fw) then some 0x03
    else if o.kind != kMmas && fwSp fw then some 0x04
    else if pitch o.a (fwM fw) o.la then some 0x05
    else if pitch o.b (fwN fw) o.lb then some 0x06
    else if fwAsc fw && recOf o.a 2 % 64 != 0 then some 0x07
    else if fwBsc fw && recOf o.b 2 % 64 != 0 then some 0x08
    else if o.kind = kMmas && recOf o.a 4 % 16 != 0 then some 0x09
    else if o.c.toNat % 16384 != 0 then some 0x0A
    else none
  else if o.kind = kAccz then (if recOf o.a 0 % 16384 != 0 then some 0x0B else none)
  else
    if recOf o.a 0 % 16384 != 0 then some 0x0C
    else if cpDt o.c = 3 then some 0x0D
    else if recOf o.b 0 % 16 != 0 || cpPitch o.c % 16 != 0 || (decide (1 < cpM o.c) && decide (cpPitch o.c < cpRow o.c)) then
      some 0x0E
    else none

/-- R182: the causes of an operation, in order. -/
def MatOp.cause (o : MatOp) (t : Team) : Option TrapReq :=
  match leastOf (o.regions.filterMap fun e => t.lowBad e.1 e.2) with
  | some a => some (warpTrap .spadRange a 0)
  | none =>
    let e := o.tile
    if t.desc.orang < e.1 + e.2 then some (warpTrap .accRange (max e.1 t.desc.orang) 0)
    else o.fmtCase.map fun k => warpTrap .fmt 0 k

/-! ## Queues (R171, R183) -/

/-- The context that a maths warp holds. -/
def Team.matOf (t : Team) (wid : Nat) : Option (Nat × MatCtx) := t.mats.find? fun e => e.2.warp == wid

/-- Issues a matrix operation: the checks, the wait for a place, the queue. -/
def issueMat (i : Instr) (h : WarpHdr) (groups : List (Nat × Nat)) (s : State) (skip : Warp → Bool) (op : Warp → MatOp) : Out :=
  warpOp i h (some .maths) groups anyMode s fun w =>
    withTeam s w fun t =>
      if skip w then .done s w
      else
        let o := op w
        match o.cause t with
        | some c => .trap c
        | none =>
          match t.matOf s.cur with
          | none => .stop .noTeam
          | some (k, m) =>
            if 16 ≤ m.ops.length then hold s w .atIssue i
            else
              .done (s.setTeam w.team { t with mats := kput t.mats k { m with ops := m.ops ++ [{ o with seq := w.seq }] } })
                { w with seq := w.seq + 1 }

/-- A matrix operation of a kind with the operands at hand. -/
def mkOp (w : Warp) (kind : Nat) (fw : W32) (a b : List W32) (c : W32) : MatOp :=
  { kind := kind, pc := w.issueAddr, fw := fw, a := a, b := b, c := c, seq := 0, steps := 0, steps2 := 0, latched := []
    now := [], ahead := [], held := [] }

/-- MMA (R183). -/
def execMma (h : WarpHdr) (sd sa sb : Reg) (fw : W32) (s : State) : Out :=
  issueMat (.mma h sd sa sb fw) h [(sd.toNat, 1), (sa.toNat, 4), (sb.toNat, 4)] s (fun _ => false) fun w =>
    mkOp w kMma fw (w.sGroup sa.toNat 4) (w.sGroup sb.toNat 4) (w.sr sd.toNat)

/-- MMAS (R183). -/
def execMmas (h : WarpHdr) (sd sa sb : Reg) (fw : W32) (s : State) : Out :=
  issueMat (.mmas h sd sa sb fw) h [(sd.toNat, 1), (sa.toNat, 5), (sb.toNat, 4)] s (fun _ => false) fun w =>
    mkOp w kMmas fw (w.sGroup sa.toNat 5) (w.sGroup sb.toNat 4) (w.sr sd.toNat)

/-- MMAP (R186). -/
def execMmap (h : WarpHdr) (sd sa sb : Reg) (fw : W32) (s : State) : Out :=
  issueMat (.mmap h sd sa sb fw) h [(sd.toNat, 1), (sa.toNat, 4), (sb.toNat, 4)] s (fun _ => false) fun w =>
    mkOp w kMmap fw (w.sGroup sa.toNat 4) (w.sGroup sb.toNat 4) (w.sr sd.toNat)

/-- ACCZ (R190). -/
def execAccz (h : WarpHdr) (sa sb : Reg) (s : State) : Out :=
  issueMat (.accz h sa sb) h [] s (fun w => w.sr sb.toNat == 0) fun w =>
    mkOp w kAccz 0 [w.sr sa.toNat] [w.sr sb.toNat] 0

/-- ACCCPY (R191). -/
def execAcccpy (h : WarpHdr) (sd sa sb : Reg) (s : State) : Out :=
  issueMat (.acccpy h sd sa sb) h [] s (fun _ => false) fun w =>
    mkOp w kAcccpy 0 [w.sr sa.toNat] [w.sr sd.toNat] (w.sr sb.toNat)

/-- MWAIT (R192). -/
def execMwait (h : WarpHdr) (n : Reg) (s : State) : Out :=
  let i : Instr := .mwait h n
  warpOp i h (some .maths) [] anyMode s fun w =>
    withTeam s w fun t =>
      let k := ((t.matOf s.cur).map (·.2.ops.length)).getD 0
      if k ≤ n.toNat then .done s w else hold s w .mwait i

/-! ## Sums (R132 to R134) -/

/-- A product of a group: its operands and the product; a pruned one is +0 (R132). -/
structure Prod where
  special : Bool
  val : Val
  deriving DecidableEq, Repr

def prunedProd : Prod := ⟨false, .fin false 0 0⟩

/-- R133: the product of two operands; `special` when an operand is NaN or the product is ∞ × 0. -/
def mkProd (a b : Val) : Prod := let p := (vMul a b).1; ⟨p.isNaN, p⟩

/-- R132, R133: the value G of a group, as an f32 code. -/
def groupSum (ps : List Prod) : Nat :=
  let hasInf (n : Bool) : Bool := ps.any fun p => p.val == .inf n
  if ps.any (·.special) || (hasInf true && hasInf false) then Fmt.canonNaN .f32
  else if hasInf true then (roundNE .f32 (.inf true)).1
  else if hasInf false then (roundNE .f32 (.inf false)).1
  else
    match ps with
    | [] => 0
    | p :: rest => (roundNE .f32 (rest.foldl (fun v q => (vAdd v q.val).1) p.val)).1

/-! ## Operand fetch (R179 to R181) -/

/-- What a step reads: scratchpad bytes by address. -/
abbrev Fetch := Nat → Byte

/-- The code of stored element e of a row of an operand. -/
def elemCode (rd : Fetch) (l : List W32) (w row e : Nat) : Nat := bitsAt rd (8 * (recOf l 0 + row * recOf l 1) + e * w) w

/-- R129, R180: the delta of a group of a row. -/
def delta (rd : Fetch) (l : List W32) (k row g : Nat) : Nat :=
  let b := (rd (recOf l 2 + row * ceilDiv k 16 + g / 2)).toNat
  if g % 2 = 0 then b % 16 else b / 16

/-- R181: the stored place of position j of a group, by its metadata byte; none when it is pruned. -/
def keptPlace (byte keep j : Nat) : Option Nat :=
  let rank := (List.range j).countP fun b => byte.testBit b
  if byte.testBit j && decide (rank < keep) then some rank else none

/-- The stored place of position j of group g of row m of A. -/
def MatOp.place (o : MatOp) (rd : Fetch) (m g j : Nat) : Option Nat :=
  if o.kind = kMmas then
    (keptPlace (rd (recOf o.a 4 + m * (fwK o.fw / 8) + g)).toNat o.keep j).map fun r => g * o.keep + r
  else some (8 * g + j)

/-- The value of an element with its B8 scale. -/
def scaled (fmt code : Nat) (sc : Bool) (base : Int) (d : Nat) : Val :=
  let v := valOf (opFmt fmt) code
  if sc then v.scale (base + d) else v

/-- The product of A[m][8g+j] and B[8g+j][n]. -/
def MatOp.prod (o : MatOp) (rd : Fetch) (m n g j : Nat) : Prod :=
  let fw := o.fw
  match o.place rd m g j with
  | none => prunedProd
  | some e =>
    let a := scaled (fwA fw) (elemCode rd o.a (opWidth (fwA fw)) m e) (fwAsc fw) (baseOf o.a) (delta rd o.a (fwK fw) m g)
    let b := scaled (fwB fw) (elemCode rd o.b (opWidth (fwB fw)) n (8 * g + j)) (fwBsc fw) (baseOf o.b)
      (delta rd o.b (fwK fw) n g)
    mkProd a b

/-- The exact integer sum of a group of s8 products (R134). -/
def MatOp.intGroup (o : MatOp) (rd : Fetch) (m n g : Nat) : Int :=
  (List.range 8).foldl (fun acc j =>
    match o.place rd m g j with
    | none => acc
    | some e =>
      acc + (BitVec.ofNat 8 (elemCode rd o.a 8 m e)).toInt * (BitVec.ofNat 8 (elemCode rd o.b 8 n (8 * g + j))).toInt) 0

/-- R132, R134: one group added to an accumulator element. -/
def MatOp.addGroup (o : MatOp) (rd : Fetch) (m n : Nat) (c g : Nat) : Nat :=
  if fwA o.fw = 4 then ((c + o.intGroup rd m n g) % 2 ^ 32).toNat
  else (fpAdd .f32 c (groupSum ((List.range 8).map fun j => o.prod rd m n g j))).1

/-- The groups of step j (R173). -/
def MatOp.groups (o : MatOp) (j : Nat) : List Nat := tab (min 16 (fwK o.fw / 8 - 16 * j)) fun k => 16 * j + k

/-- Steps of an operation; ACCZ takes one move and ACCCPY two, its begin and its end. -/
def MatOp.total (o : MatOp) : Nat := if o.isMul then ceilDiv (fwK o.fw) 128 else if o.kind = kAccz then 1 else 2

/-- The scratchpad bytes that step j reads. -/
def MatOp.stepSpans (o : MatOp) (j : Nat) : List (Nat × Nat) :=
  let fw := o.fw
  let g0 := 16 * j
  let g1 := min (fwK fw / 8) (16 * j + 16)
  let data (l : List W32) (rows w keep : Nat) : List (Nat × Nat) := (List.range rows).map fun r =>
    let lo := g0 * keep * w / 8
    (recOf l 0 + r * recOf l 1 + lo, ceilDiv (g1 * keep * w) 8 - lo)
  let scale (l : List W32) (rows : Nat) : List (Nat × Nat) := (List.range rows).map fun r =>
    (recOf l 2 + r * ceilDiv (fwK fw) 16 + g0 / 2, ceilDiv g1 2 - g0 / 2)
  data o.a (fwM fw) (opWidth (fwA fw)) o.keep ++ data o.b (fwN fw) (opWidth (fwB fw)) 8
    ++ (if fwAsc fw then scale o.a (fwM fw) else []) ++ (if fwBsc fw then scale o.b (fwN fw) else [])
    ++ (if o.kind = kMmas then (List.range (fwM fw)).map fun r => (recOf o.a 4 + r * (fwK fw / 8) + g0, g1 - g0) else [])

/-! ## Steps (R173, R187, R191) -/

/-- A team, its part, maths warp number and matrix context by core and bank. -/
def findMat (s : State) (core bank : Nat) : Option (Nat × Team × Nat × Nat × MatCtx) :=
  s.teams.findSome? fun t =>
    match t.2.cores.idxOf? core with
    | none => none
    | some part => (t.2.mats.find? fun m => m.2.bank == bank).map fun m => (t.1, t.2, part, m.1, m.2)

def State.modMat (s : State) (tid k : Nat) (f : MatCtx → MatCtx) : State :=
  match s.team? tid with
  | none => s
  | some t => s.setTeam tid { t with mats := kmod t.mats k f }

/-- Changes the operation at the head of a queue. -/
def MatCtx.modHead (m : MatCtx) (f : MatOp → MatOp) : MatCtx :=
  match m.ops with | [] => m | o :: os => { m with ops := f o :: os }

/-- R196: a running operation consumed storage that cannot be corrected. -/
def failMat (s : State) (tid k core kind addr : Nat) (m : MatCtx) : State :=
  let s := s.modMat tid k fun m => { m with ops := [] }
  match s.warp? m.warp with
  | none => s
  | some w =>
    (s.reportBad (s.ctxOf w) w.num core kind 0).setWarp m.warp
      { w with pending := w.pending ++ [(warpTrap .dataErr addr (BitVec.ofNat 32 kind), ((m.ops.head?).map (·.seq)).getD 0)] }

/-- The key of element e of a tile on a part. -/
def elemKey (part e : Nat) : Nat := part * 2 ^ 40 + e

/-- A step of the operation is under way on a part: it has read its operands (R173, R188). -/
def MatOp.begun (o : MatOp) (part : Nat) : Bool := o.now.any fun e => e.1 / 2 ^ 40 == part

/-- The 16-byte units that step j reads. -/
def MatOp.stepUnits (o : MatOp) (j : Nat) : List Nat :=
  ((o.stepSpans j).flatMap fun e => (List.range e.2).map fun b => (e.1 + b) / 16).eraseDups

/-- A step begins: it reads its operands, each unit as it was read ahead or as it stands (R188). -/
def MatOp.begin (o : MatOp) (sp : Spad) (part j : Nat) : MatOp :=
  if o.begun part then o
  else { o with now := (o.stepUnits j).foldl (fun m u =>
    kput m (latchKey part u) ((kget? o.latched (latchKey part u)).getD (sp.read (16 * u) 16))) o.now }

/-- A scratchpad byte as the step under way has read it, or as the next one would: what has been read ahead, or the byte as
it stands (R188). -/
def MatOp.source (o : MatOp) (sp : Spad) (part a : Nat) : Byte :=
  match (kget? o.now (latchKey part (a / 16))).orElse fun _ => kget? o.latched (latchKey part (a / 16)) with
  | some u => u.getD (a % 16) 0
  | none => mget sp.cells a

/-- R187: every operand line of a step is present, or has been read. -/
def MatOp.linesReady (o : MatOp) (sp : Spad) (part j : Nat) : Bool :=
  o.begun part || (o.stepSpans j).all fun e => (linesOf e.1 e.2).all fun line => sp.present line || o.lineLatched part line

/-- R183, R195: what step j does to each element of the tile, in order: ZC writes +0 first, then one group is added after
another. -/
def MatOp.writes (o : MatOp) (j : Nat) : List (Option Nat) :=
  (if fwZc o.fw && j == 0 then [none] else []) ++ (o.groups j).map some

/-- One such write to element (m, n). -/
def MatOp.write (o : MatOp) (rd : Fetch) (m n c : Nat) : Option Nat → Nat
  | none => 0
  | some g => o.addGroup rd m n c g

/-- Element (m, n) of the tile as its next write finds it: what the array holds, or the orangery's. -/
def MatOp.element (o : MatOp) (old : Nat → Nat) (part m n : Nat) : Nat :=
  let e := m * tileNp (fwN o.fw) + n
  match kget? o.held (elemKey part e) with
  | some x => x.toNat
  | none => old (4 * e)

/-- The row of a tile after a step: element values of row m. -/
def MatOp.rowAfter (o : MatOp) (rd : Fetch) (old : Nat → Nat) (part m j : Nat) : List W32 :=
  (List.range (fwN o.fw)).map fun n =>
    let done := kget o.ahead (elemKey part (m * tileNp (fwN o.fw) + n)) 0
    BitVec.ofNat 32 (((o.writes j).drop done).foldl (o.write rd m n) (o.element old part m n))

/-- The operation once a step has ended on a part. -/
def MatOp.endStep (o : MatOp) (part j : Nat) : MatOp :=
  let mine (k : Nat) : Bool := k / 2 ^ 40 == part
  { o with
    steps := if part = 0 then j + 1 else o.steps, steps2 := if part = 0 then o.steps2 else j + 1
    now := o.now.filter fun e => !mine e.1
    ahead := o.ahead.filter fun e => !mine e.1, held := o.held.filter fun e => !mine e.1 }

/-- The scratchpad address of a byte that a step would consume from a unit that cannot be corrected. -/
def MatOp.badSource (o : MatOp) (s : State) (sp : Spad) (tid part core j : Nat) : Option Nat :=
  if o.begun part then none
  else (o.stepSpans j).findSome? fun e => (List.range e.2).findSome? fun b =>
    let a := e.1 + b
    if (kget? o.latched (latchKey part (a / 16))).isNone && s.spadDamaged sp core tid a 1 then some a else none

/-- R196: an accumulator element that step j consumes cannot be corrected. -/
def MatOp.badTile (o : MatOp) (s : State) (tid k core j : Nat) : Bool :=
  !(fwZc o.fw && j == 0) && (List.range (fwM o.fw)).any fun r =>
    s.orangDamaged core tid (k * 2 ^ 18 + o.c.toNat + 4 * r * tileNp (fwN o.fw)) (4 * fwN o.fw)

/-- One step of a multiply on a part of the team. -/
def mulStep (s : State) (tid part k core : Nat) (t : Team) (m : MatCtx) (o : MatOp) (j : Nat) : State :=
  let sp := t.spad part
  if !o.linesReady sp part j then s
  else
    match o.badSource s sp tid part core j with
    | some a => failMat s tid k core 5 a m
    | none =>
      let base := k * 2 ^ 18 + o.c.toNat
      if o.badTile s tid k core j then failMat s tid k core 6 0 m
      else
        let cells := t.orang part k
        let old (off : Nat) : Nat := leNat (readCells cells (o.c.toNat + off) 4)
        let s := (List.range (fwM o.fw)).foldl (fun s r =>
          s.writeOrang tid part core (base + 4 * r * tileNp (fwN o.fw)) (wordBytes (o.rowAfter (o.source sp part) old part r j))) s
        s.modMat tid k fun m => m.modHead fun o => o.endStep part j

/-- ACCZ executes (R190). -/
def acczStep (s : State) (tid k core : Nat) (o : MatOp) : State :=
  let e := o.tile
  (s.writeOrang tid 0 core (k * 2 ^ 18 + e.1) (List.replicate e.2 0)).modMat tid k fun m =>
    m.modHead fun o => { o with steps := 1 }

/-- Row m of the destination of ACCCPY (R191). -/
def MatOp.copyRow (o : MatOp) (cells : List Host.Cell) (m : Nat) : List Byte :=
  (List.range (cpN o.c)).flatMap fun n =>
    let x := leNat (readCells cells (recOf o.a 0 + 4 * (m * tileNp (cpN o.c) + n)) 4)
    match cpDt o.c with
    | 1 => leBytes 2 (convert .bf16 .rn false (valOf .f32 x)).1
    | 2 => leBytes 2 (convert .f16 .rn false (valOf .f32 x)).1
    | _ => leBytes 4 x

/-- The scratchpad lines that ACCCPY writes. -/
def MatOp.copyLines (o : MatOp) : List Nat :=
  ((List.range (cpM o.c)).flatMap fun m => linesOf (recOf o.b 0 + m * cpPitch o.c) (cpRow o.c)).eraseDups

/-- ACCCPY begins, and P = 0 on its lines; then it writes, and P = 1 (R191). DESIGN CHOICE, notes/assumptions/124.md: a
DATA_ERR between the two (R196) leaves its lines absent. -/
def acccpyStep (s : State) (tid k core : Nat) (t : Team) (m : MatCtx) (o : MatOp) : State :=
  if o.steps = 0 then
    (s.clearP tid 0 o.copyLines).modMat tid k fun m => m.modHead fun o => { o with steps := 1 }
  else if (List.range (cpM o.c)).any fun r =>
      s.orangDamaged core tid (k * 2 ^ 18 + recOf o.a 0 + 4 * r * tileNp (cpN o.c)) (4 * cpN o.c) then failMat s tid k core 6 0 m
  else
    let cells := t.orang 0 k
    let s := (List.range (cpM o.c)).foldl (fun s r =>
      s.writeSpad tid 0 core (recOf o.b 0 + r * cpPitch o.c) (o.copyRow cells r)) s
    let mine := o.copyLines.filter fun line =>
      !((s.core core).copies.any fun c => c.2.team == tid && c.2.go && c.2.left.contains line)
    (s.modSpad tid 0 fun sp => mine.foldl Spad.raiseP sp).modMat tid k fun m => m.modHead fun o => { o with steps := 2 }

/-- R186: the operation runs on the follower's array too. -/
def MatOp.paired (o : MatOp) (t : Team) : Bool := o.kind == kMmap && t.desc.pairMode

/-- The next step of the context's oldest operation on a part may run, as far as order goes: the warp's earlier stores have
been performed (R188), and the team is not being pre-empted, unless the step has begun (R197). -/
def stepDue (s : State) (t : Team) (part : Nat) (m : MatCtx) (o : MatOp) : Bool :=
  let j := if part = 0 then o.steps else o.steps2
  let early := match s.warp? m.warp with
    | none => false
    | some w => w.queueOlder o.seq
  (!t.preempting || o.begun part) && !early && decide (j < o.total) && (part = 0 || o.paired t)

/-- R173: a context of a core has a step that is ready. R190: ACCZ takes the array for none. DESIGN CHOICE,
notes/assumptions/143.md: the two moves of ACCCPY are steps of the array. -/
def matReady (s : State) (core ctx : Nat) : Bool :=
  match findMat s core ctx with
  | none => false
  | some (_, t, part, _, m) =>
    match m.ops with
    | [] => false
    | o :: _ => o.kind != kAccz && stepDue s t part m o
        && (!o.isMul || o.linesReady (t.spad part) part (if part = 0 then o.steps else o.steps2))

/-- R173: a step of a context is under way on the array of a core. -/
def matBusy (s : State) (core ctx : Nat) : Bool :=
  (findMat s core ctx).any fun (_, _, part, _, m) => (m.ops.head?).any fun o => o.begun part

/-- R173: the array takes one step at a time, and alternates: a context's next step does not begin while the other's is under
way, nor after a step of its own while the other has one that is ready. -/
def mustAlternate (s : State) (core ctx : Nat) : Bool :=
  !matBusy s core ctx && [0, 1].any fun b => b != ctx && (matBusy s core b || ((s.core core).lastMat == some ctx && matReady s core b))

/-- The array's last step was a context's. -/
def State.stepped (s : State) (core ctx : Nat) : State :=
  let c := s.core core
  s.setCore core { c with lastMat := some ctx }

/-- MATRIX_STEP (R173): the oldest operation of a context takes its next step on the array of a core, unless it is parked. -/
def execMatrixStep (core ctx : Nat) (s : State) : Out :=
  match findMat s core ctx with
  | none => .next s
  | some (tid, t, part, k, m) =>
    match m.ops with
    | [] => .next s
    | o :: _ =>
      let j := if part = 0 then o.steps else o.steps2
      let parked := o.isMul && !o.linesReady (t.spad part) part j
      if !stepDue s t part m o || parked then .next s
      else if o.kind = kAccz then .next (acczStep s tid k core o)
      else if mustAlternate s core ctx then .next s
      else
        let s := s.stepped core ctx
        if o.isMul then .next (mulStep s tid part k core t m o j) else .next (acccpyStep s tid k core t m o)

/-- R188: the array of a core reads a unit of a present line for the oldest operation of a context, ahead of the step that
needs it; or it lets go of a line that it has read, for a later step to read afresh. -/
def matFetch (s : State) (core bank unit : Nat) : State :=
  match findMat s core bank with
  | none => s
  | some (tid, t, part, k, m) =>
    match m.ops with
    | [] => s
    | o :: _ =>
      let sp := t.spad part
      if (kget? o.latched (latchKey part unit)).isSome then
        s.modMat tid k fun m => m.modHead fun o => { o with latched := o.latched.filter fun e => e.1 / 8 != latchKey part unit / 8 }
      else if !stepDue s t part m o || !o.isMul || !sp.present (unit / 8) || s.spadDamaged sp core tid (16 * unit) 16 then s
      else s.modMat tid k fun m => m.modHead fun o => { o with latched := kput o.latched (latchKey part unit) (sp.read (16 * unit) 16) }

/-- R195: the operation makes its next write to one element of its tile: the +0 of ZC as soon as the operation has begun, an
addition once the step has read its operands whole; ACCZ clears one element. What `hold` keeps in the array is written when
the step ends. -/
def matAdd (s : State) (core bank elem : Nat) (hold : Bool) : State :=
  match findMat s core bank with
  | none => s
  | some (tid, t, part, k, m) =>
    match m.ops with
    | [] => s
    | o :: _ =>
      let j := if part = 0 then o.steps else o.steps2
      let sp := t.spad part
      let put (s : State) (a : Nat) (x : W32) : State := s.writeOrang tid part core (k * 2 ^ 18 + a) (wordBytes [x])
      if !stepDue s t part m o then s
      else if o.kind = kAccz then (if 4 * elem < o.tile.2 then put s (o.tile.1 + 4 * elem) 0 else s)
      else
        let np := tileNp (fwN o.fw)
        let r := elem / np
        let n := elem % np
        let key := elemKey part elem
        if !o.isMul || fwM o.fw ≤ r || fwN o.fw ≤ n then s
        else match (o.writes j)[kget o.ahead key 0]? with
          | none => s
          | some x =>
            let ready := o.linesReady sp part j && (o.badSource s sp tid part core j).isNone && !o.badTile s tid k core j
            if x.isSome && (!ready || mustAlternate s core bank) then s
            else
              let (s, o) := if x.isSome then (s.stepped core bank, o.begin sp part j) else (s, o)
              let old (off : Nat) : Nat := leNat (readCells (t.orang part k) (o.c.toNat + off) 4)
              let v := BitVec.ofNat 32 (o.write (o.source sp part) r n (o.element old part r n) x)
              let s := if hold then s else put s (o.c.toNat + 4 * elem) v
              s.modMat tid k fun m => m.modHead fun _ =>
                { o with
                  ahead := kput o.ahead key (kget o.ahead key 0 + 1)
                  held := if hold then kput o.held key v else kdel o.held key }

/-- MATRIX_OP_COMPLETE (R173): an operation whose steps have ended on every array leaves its queue. -/
def execMatrixOpComplete (core ctx : Nat) (s : State) : Out :=
  match findMat s core ctx with
  | none => .next s
  | some (tid, t, _, k, m) =>
    match m.ops with
    | [] => .next s
    | o :: os =>
      if o.total ≤ o.steps && (!o.paired t || decide (o.total ≤ o.steps2)) then
        .next (s.modMat tid k fun m => { m with ops := os })
      else .next s

end Sys2Proof.Machine
end

