-- ==== Sys2Proof/Machine/Tasks.lean ====
section
/-! DEFINITION. Tasks over atomic sets: the task words (R322 to R327), the lock directories (R329), wounds and rollback
(R331). -/

namespace Sys2Proof.Machine

/-! ## Lock directories (R329) -/

/-- The home slice of a granule among the 192 of the device, from the physical address of its first byte, in its fallback
where its chunk has been redirected (R375). -/
def granuleSlice (s : State) (g : Nat) : Nat :=
  let n := granuleCtx g
  let a := s.granuleBase g
  let frameOf (e : TlbEntry) : Nat :=
    let pa := e.frame + (a % 2 ^ 57 - e.va)
    if e.tier != 2 then pa
    else match leaseDecide s n e.dev pa with
      | .redirect fpa _ => fpa
      | .refuse _ | .send _ | .park _ _ => pa
  let pa : Nat :=
    match s.tlbFind none 0 n a with
    | some e => frameOf e
    | none => match kget? s.contexts n with
      | none => 0
      | some c => match walk s n c a with
        | .leaf e => frameOf e
        | .invalid | .refused _ | .bad _ => 0
  96 * Config.homeDie pa + Config.sliceOf pa

/-- R404: a request's search for its home slice meets a damaged table entry, which is reported for its warp. -/
def reportGranule (s : State) (w : Warp) (g : Nat) : State :=
  let n := granuleCtx g
  let a := s.granuleBase g
  match s.tlbFind none 0 n a, kget? s.contexts n with
  | none, some c => match walk s n c a with
    | .bad pa => s.reportBad n w.num w.core 1 pa
    | .leaf _ | .invalid | .refused _ => s
  | _, _ => s

/-- Entries in use in a slice. -/
def State.sliceUse (s : State) (k : Nat) : Nat := s.locks.countP fun e => e.2.slice == k

/-- Marks the task of a warp as wounded. -/
def markWound (s : State) (wid : Nat) : State :=
  match s.warp? wid with
  | none => s
  | some w => match w.task with
    | none => s
    | some t => s.setWarp wid { w with task := some { t with wounded := true } }

/-- R329, R334: in a full slice the youngest holder is wounded when a younger one than a request that waits for an entry; so
every wait is for an older task. -/
def settleSlice (s : State) (k : Nat) : State :=
  if s.sliceUse k < 512 then s
  else
    match youngest (·.2) ((s.locks.filter fun e => e.2.slice == k).filterMap fun e => e.2.holder) with
    | some (y, a) => if s.lockWait.any fun x => x.1 == k && older x.2.2.1 a then markWound s y else s
    | none => s

/-- R330: a granule's grant to a warp's task, an acquire at device scope. -/
def giveGranule (s : State) (wid g slice : Nat) (waiters : List (Nat × W64)) : State :=
  match s.warp? wid with
  | none => s
  | some w =>
    let s := { s with locks := kput s.locks g { slice := slice, holder := some (wid, w.age), waiters := waiters } }
    let s := s.modTask w fun t =>
      { t with held := addNum t.held g, asked := t.asked.filter (· != g), unsent := t.unsent.filter (· != g) }
    let s := if waiters.any fun x => older x.2 w.age then markWound s wid else s
    (settleSlice s slice).acquire w.core .device

/-- GRANULE_REQUEST (R328, R329): a request is decided at the home slice. A warp's requests go out in the order in which its
words name them; a freed entry is for the requests that wait for one already. -/
def execGranuleRequest (warp gran : Nat) (s : State) : Out :=
  match s.warp? warp with
  | none => .next s
  | some w =>
    match s.taskSlot w with
    | none => .next s
    | some t =>
      if t.unsent.head? != some gran then .next s
      else
        let k := granuleSlice s gran
        let s := reportGranule s w gran
        let s1 := s.modTask w fun t => { t with unsent := t.unsent.filter (· != gran), asked := addNum t.asked gran }
        match kget? s.locks gran with
        | none =>
          let waits := s.lockWait.any fun x => x.1 == k
          if s.sliceUse k < 512 && !waits then .next (giveGranule s1 warp gran k [])
          else .next (settleSlice { s1 with lockWait := s1.lockWait ++ [(k, warp, w.age, gran)] } k)
        | some e =>
          match e.holder with
          | none => .next { s1 with locks := kput s1.locks gran { e with waiters := e.waiters ++ [(warp, w.age)] } }
          | some (h, a) =>
            if h = warp then .next (giveGranule s1 warp gran k e.waiters)
            else
              let s2 := { s1 with locks := kput s1.locks gran { e with waiters := e.waiters ++ [(warp, w.age)] } }
              .next (if older w.age a then markWound s2 h else s2)

/-- GRANULE_GRANT (R329): a released granule goes to the oldest request waiting for it; a freed entry of a slice to the oldest
request that has gone there for one. -/
def execGranuleGrant (gran : Nat) (s : State) : Out :=
  match kget? s.locks gran with
  | some e =>
    match e.holder, oldest (·.2) e.waiters with
    | none, some (r, _) => .next (giveGranule s r gran e.slice (e.waiters.filter fun x => x.1 != r))
    | _, _ => .next s
  | none =>
    let first (k : Nat) : Option (Nat × Nat) := (oldest (·.2.2.1) (s.lockWait.filter fun x => x.1 == k)).bind fun x =>
      if x.2.2.2 = gran && decide (s.sliceUse k < 512) then some (k, x.2.1) else none
    match ((s.lockWait.filter fun x => x.2.2.2 == gran).map (·.1)).findSome? first with
    | some (k, r) =>
      let same := s.lockWait.filter fun x => x.2.2.2 == gran && x.2.1 != r
      let s := { s with lockWait := s.lockWait.filter fun x => x.2.2.2 != gran }
      .next (giveGranule s r gran k (same.map fun x => (x.2.1, x.2.2.1)))
    | none => .next s

/-- Takes a warp out of one entry: as holder and as waiter; an entry that nobody holds or wants is freed. -/
def LockEntry.without (e : LockEntry) (wid : Nat) : Option LockEntry :=
  let h := match e.holder with
    | some (x, a) => if x = wid then none else some (x, a)
    | none => none
  let ws := e.waiters.filter fun x => x.1 != wid
  if h.isNone && ws.isEmpty then none else some { e with holder := h, waiters := ws }

/-- Releases every granule that a warp's task holds and withdraws its requests. -/
def releaseGranules (s : State) (wid : Nat) : State :=
  { s with
    locks := s.locks.filterMap fun e => (e.2.without wid).map fun x => (e.1, x)
    lockWait := s.lockWait.filter fun x => x.2.1 != wid }

/-! ## The snapshot and rollback (R321, R331) -/

def Warp.snapshot (w : Warp) : Snapshot :=
  { v := w.v, s := w.s, p := w.p, q := w.q, vpc := w.vpc, lc := w.lc, loops := w.loops, jm := w.jm, link := w.link
    fpflags := w.fpflags }

/-- R79, R331: the windows that owe an exited lane its atomic: they closed before the task began, and a rollback leaves
them. -/
def Warp.owing (w : Warp) : List Window := (w.windows.filter fun x => x.closed && x.dead != 0).map fun x => { x with lanes := 0 }

/-- R392: a restored snapshot's registers hold no parity error: v, s, p, q; lc0 to lc2, jm0 to jm7, LINK and FPFLAGS. -/
def Warp.soundSnapshot (w : Warp) : List (Nat × Nat × Nat) :=
  w.badRegs.filter fun u => !(decide (u.1 ≤ 3) || (u.1 == 4 && ((decide (0x10 ≤ u.2.1) && decide (u.2.1 ≤ 0x12))
    || (decide (0x18 ≤ u.2.1) && decide (u.2.1 ≤ 0x21)))))

/-- Restores a snapshot; every live lane goes to an address, open windows, late lanes and JOIN waits are discarded. -/
def Warp.restore (w : Warp) (x : Snapshot) (pc : Nat) : Warp :=
  { w with
    v := x.v, s := x.s, p := x.p, q := x.q, lc := x.lc, loops := x.loops, jm := x.jm, link := x.link
    fpflags := x.fpflags, windows := w.owing, waitK := [], wait := none, badRegs := w.soundSnapshot
    opLog := w.opLog.filter fun e => match e.source with
      | .window q => w.owing.any fun x => x.acc.seq == q
      | .store | .copy _ _ => true
    vpc := tab 32 fun l => if laneBit w.live l then BitVec.ofNat 57 pc else x.vpc.getD l 0 }

/-- Frees the task slot of a warp. -/
def freeSlot (s : State) (w : Warp) : State :=
  match w.task with
  | none => s
  | some t =>
    let c := s.core w.core
    { s.setCore w.core { c with tasks := kdel c.tasks t.slot } with
      bad := if s.bad.isEmpty then [] else s.bad.filter (· != (7, w.core, t.slot)) }

/-- What a rollback discards of a warp's requests: those of the windows that it discards, of its word and of its fetch. -/
def Waiter.ofRollback (wid : Nat) (w : Warp) (x : Waiter) : Bool :=
  Waiter.ofWord wid x || match x with
    | .lane v q _ => v == wid && !w.owing.any fun y => y.acc.seq == q
    | _ => false

/-- R331: Rollback of a warp. -/
def rollback (s : State) (wid : Nat) (w : Warp) : State :=
  match w.task, s.taskSlot w with
  | some t, some k =>
    let s := (freeSlot (releaseGranules s wid) w).dropWaiters (Waiter.ofRollback wid w)
    s.setWarp wid { w.restore k.snap t.beginPc with
      trc := w.trc + 1, taskst := false, taskPending := true, task := none, counted := false }
  | _, _ => s

/-- WOUND (R331): a wound takes effect at an instruction boundary; in handler mode it waits for TRET. -/
def execWound (warp : Nat) (s : State) : Out :=
  match s.warp? warp with
  | none => .next s
  | some w =>
    match w.task with
    | none => .next s
    | some t =>
      if !t.wounded then .next s
      else if w.inh then .next (s.setWarp warp { w with deferredWound := true })
      else .next (rollback s warp w)

/-! ## TBEGIN (R320, R323) -/

/-- Warps of a core that wait for a task slot, other than one. -/
def slotWaiters (s : State) (core wid : Nat) : List (Nat × Warp) :=
  s.warps.filter fun e => e.1 != wid && e.2.core == core && match e.2.wait with
    | some x => x.kind == .taskSlot
    | none => false

/-- R320, R318: does a come before b in the order of the grants? Restarts first, oldest first; then by the order of waiting,
and of those that began to wait in one cycle the lower pipe's. -/
def slotBefore (s : State) (a b : Warp) : Bool :=
  if a.taskPending then !b.taskPending || older a.age b.age
  else
    let order (w : Warp) : Nat := (w.wait.map (·.order)).getD (2 ^ 64)
    let since (w : Warp) : Nat := (w.wait.map (·.since)).getD s.time.toNat
    let same := s.sameCycle a.core (since a) (since b)
    !b.taskPending && ((!same && decide (since a < since b))
      || (same && (decide (a.pipe < b.pipe) || (a.pipe == b.pipe && decide (order a < order b)))))

/-- A free task slot of a core. -/
def freeTaskSlot (s : State) (core : Nat) : Option Nat :=
  (List.range Config.taskSlots).find? fun k => (kget? (s.core core).tasks k).isNone

/-- A word may yet issue on a lower pipe of the warp's core in this cycle, and be a TBEGIN. -/
def lowerPipeMayBegin (s : State) (w : Warp) : Bool :=
  s.warps.any fun e => e.2.core == w.core && decide (e.2.pipe < w.pipe) && e.2.role == .epilogue && !e.2.exited && !e.2.inh
    && !e.2.taskst && e.2.wait.isNone && e.2.ready != 0

/-- R318: the core has handed out its stamp of this cycle, or a TBEGIN of a lower pipe may still have it. -/
def stampTaken (s : State) (w : Warp) : Bool :=
  (s.core w.core).lastStamp.any (fun t => s.sameCycle w.core t s.time.toNat)
    || (s.sameCycle w.core ((w.wait.map (·.since)).getD s.time.toNat) s.time.toNat && lowerPipeMayBegin s w)

/-- R323 from the grant of a slot on. None while no slot or no stamp can be had. -/
def beginTask (s : State) (wid : Nat) (w : Warp) (sd : Reg) : Option (State × Warp) :=
  let c := s.core w.core
  match freeTaskSlot s w.core with
  | none => none
  | some k =>
    if (slotWaiters s w.core wid).any fun e => slotBefore s e.2 w then none
    else if !w.taskPending && stampTaken s w then none
    else
      let w1 := if w.taskPending then w else { w with age := stampOf s.time w.core, trc := 0 }
      let slot : TaskSlot := { warp := wid, snap := w1.snapshot, buf := [], held := [], asked := [], unsent := [] }
      let c := { c with tasks := kput c.tasks k slot, lastStamp := if w.taskPending then c.lastStamp else some s.time.toNat }
      let w2 := { w1 with taskst := true, taskPending := false, task := some ⟨w.issueAddr, k, false⟩ }
      some (s.setCore w.core c, w2.setS sd.toNat w1.trc)

/-- TBEGIN (R323). -/
def execTbegin (h : WarpHdr) (sd : Reg) (s : State) : Out :=
  let i : Instr := .tbegin h sd
  warpOp i h (some .epilogue) [] notInHandler s fun w =>
    withTeam s w fun t =>
      if w.taskst then taskTrap i
      else match t.refusedSet with
      | some k => .trap (warpTrap .set 0 (BitVec.ofNat 32 k))
      | none =>
        match closeAll s s.cur w with
        | .waits s w => hold s w .windowClose i
        | .shut s w =>
          if w.active != w.live then .trapIn s w (warpTrap .task 0 (opField i))
          else match beginTask s s.cur w sd with
          | some (s, w) => .done s w
          | none => hold s w .taskSlot i

/-- TASK_SLOT_GRANT (R320): a free slot goes to the first waiting TBEGIN. -/
def execTaskSlotGrant (core : Nat) (s : State) : Out :=
  let ws := slotWaiters s core (2 ^ 64)
  let first := ws.foldl (fun b e => match b with
    | none => some e
    | some x => if slotBefore s e.2 x.2 then some e else some x) none
  match first with
  | none => .next s
  | some (wid, w) =>
    match w.wait with
    | some x =>
      match x.word with
      | .tbegin _ sd =>
        match beginTask s wid w sd with
        | some (s, w) => .next (s.setWarp wid (w.release x))
        | none => .next s
      | _ => .next s
    | none => .next s

/-! ## TEND (R324) -/

/-- What the end of a task answers. -/
inductive Commit where
  | done (s : State) (w : Warp)
  | wait (s : State)
  | fail (s : State) (t : TrapReq)
  /-- The write buffer cannot be corrected: the task has been rolled back (R406). -/
  | lost (s : State)

/-- R324: translates every unit of the buffer, lowest address first. A cause is known once every lower unit has its
translation, so that it is the lowest offending unit's. -/
def commitPlaces (s0 : State) (wid : Nat) (w : Warp) : KMap BufUnit → State → Bool → List (Loc × BufUnit) → Commit × List (Loc × BufUnit)
  | [], s, waits, l => (if waits then .wait s else .done s w, l)
  | (k, u) :: us, s, waits, l =>
    match translate s (.commit wid k) (s.ctxOf w) (some w.core) (Config.dieOfCore w.core) (16 * k) .write with
    | .wait s => commitPlaces s0 wid w us s true l
    | .err s' c info => (if waits then .wait s else .fail s' (warpTrap c u.va info), l)
    | .ok s loc tier =>
      if waits then commitPlaces s0 wid w us s waits l
      else if 2 ≤ tier then
        let n := ((s.granuleAt (s.ctxOf w) u.va).map granuleSet).getD 0
        (.fail s (warpTrap .set u.va (BitVec.ofNat 32 n)), l)
      else commitPlaces s0 wid w us s waits (l ++ [(loc, u)])

/-- Writes the marked bytes of a unit at its home; a unit that is marked whole is one write (R407). -/
def commitUnit (s : State) (core : Nat) (l : Loc) (u : BufUnit) : State :=
  if u.mask = BitVec.allOnes 16 then storeGlobal s core l (tab 16 fun i => u.bytes.getD i 0) .device
  else (List.range 16).foldl (fun s i =>
    if u.mask.getLsbD i then storeGlobal s core (l.plus i) [u.bytes.getD i 0] .device else s) s

/-- R324 from the wait for the granules on: the commit of a warp's task. DESIGN CHOICE, notes/assumptions/145.md: the units
are published, and the granules released, in one move. -/
def commitTask (s : State) (wid : Nat) (w : Warp) : Commit :=
  match w.task, s.taskSlot w with
  | some t, some k =>
    if !(k.asked.isEmpty && k.unsent.isEmpty) || !w.allPerformed then .wait s
    else if s.isBad (7, w.core, t.slot) then
      let s := s.reportBad (s.ctxOf w) w.num w.core 7 0
      let s := rollback s wid w
      match s.warp? wid with
      | none => .lost s
      | some w => .lost (s.setWarp wid { w with pending := w.pending ++ [(warpTrap .dataErr 0 7, 0)] })
    else
      match commitPlaces s wid w k.buf s false [] with
      | (.done s w, places) =>
        let (s, _) := releaseCopies s (Config.dieOfCore w.core) .device
        let s := places.foldl (fun s e => commitUnit s w.core e.1 e.2) s
        .done (freeSlot (releaseGranules s wid) w) { w with taskst := false, task := none }
      | (r, _) => r
  | _, _ => .wait s

/-- TEND (R324). -/
def execTend (h : WarpHdr) (s : State) : Out :=
  let i : Instr := .tend h
  warpOp i h (some .epilogue) [] notInHandler s fun w =>
    if !w.taskst then taskTrap i
    else
      match closeAll s s.cur w with
      | .waits s w => hold s w .windowClose i
      | .shut s w =>
        if w.active != w.live then .trapIn s w (warpTrap .task 0 (opField i))
        else
          match commitTask s s.cur w with
          | .done s w => .done s w
          | .wait s => hold s w .commit i
          | .fail s t => .trapIn s w t
          | .lost s => match s.warp? s.cur with
            | some w => .moved s w
            | none => .stop .noWarp

/-- TASK_COMMIT (R324, R330): a TEND that waits publishes the buffer and releases the granules. -/
def execTaskCommit (warp : Nat) (s : State) : Out :=
  match s.warp? warp with
  | none => .next s
  | some w =>
    match w.wait with
    | none => .next s
    | some x =>
      if x.kind != .commit then .next s
      else
        match commitTask s warp w with
        | .done s w => .next (s.setWarp warp (w.release x))
        | .wait s => .next s
        | .fail s t => .next (deliver s warp w t x.pc x.act)
        | .lost s => .next s

/-! ## TABORT, TSTAT (R325, R326) -/

/-- Discards the buffer, releases the granules and frees the slot. -/
def leaveTask (s : State) (wid : Nat) (w : Warp) : State × Warp :=
  (freeSlot (releaseGranules s wid) w, { w with taskst := false, task := none, deferredWound := false })

/-- TABORT (R325). -/
def execTabort (h : WarpHdr) (leave : Bool) (s : State) : Out :=
  let i : Instr := .tabort h leave
  warpOp i h (some .epilogue) [] anyMode s fun w =>
    if !w.taskst then taskTrap i
    else if leave then
      if !w.inh && w.active != w.live then taskTrap i
      else let (s, w) := leaveTask s s.cur w; .done s w
    else if w.inh then
      let snap := match w.task, s.taskSlot w with
        | some t, some k => some (k.snap, t.beginPc)
        | _, _ => none
      let (s, w) := leaveTask s s.cur w
      .done s { w with deferredRetry := snap, trc := w.trc + 1, taskPending := true }
    else
      let s := rollback s s.cur w
      match s.warp? s.cur with
      | some w => .moved s w
      | none => .stop .noWarp

/-- TSTAT (R326). -/
def execTstat (h : WarpHdr) (sd : Reg) (s : State) : Out :=
  warpOp (.tstat h sd) h (some .epilogue) [] anyMode s fun w =>
    let (units, grans) := match s.taskSlot w with
      | none => (0, 0)
      | some t => (t.buf.length, min 1023 (t.held.length + t.asked.length + t.unsent.length))
    .done s (w.setS sd.toNat (BitVec.ofNat 32
      (units * 2 ^ 22 + grans * 2 ^ 12 + (if w.taskPending then 2 else 0) + (if w.taskst then 1 else 0))))

/-! ## ASDECL, ASDROP (R315, R317, R327) -/

/-- Installs a declaration in slot k of a context, or refuses it. -/
def installSet (c : Context) (k : Nat) (d : SetDecl) : Option Context :=
  if !d.valid c.sets k then none
  else match kget? c.sets k with
    | none => some { c with sets := kput c.sets k d }
    | some e => if e = d then some c else none

/-- ASDECL (R327). -/
def execAsdecl (h : WarpHdr) (sa sb : Reg) (g : BitVec 5) (setn : BitVec 4) (s : State) : Out :=
  let i : Instr := .asdecl h sa sb g setn
  warpOp i h none [(sa.toNat, 2), (sb.toNat, 2)] anyMode s fun w =>
    let n := s.ctxOf w
    let k := setn.toNat
    let info : W32 := setn.zeroExtend 32
    if w.taskst then .trap (warpTrap .task 0 info)
    else if !w.prologue then .trap (warpTrap .set 0 info)
    else
      match kget? s.contexts n with
      | none => .trap (warpTrap .set 0 info)
      | some c =>
        match installSet c k ⟨(w.sr64 sa.toNat).toNat, (w.sr64 sb.toNat).toNat, g.toNat⟩ with
        | none => .trap (warpTrap .set 0 info)
        | some c => .done { s with contexts := kput s.contexts n c } w

/-- A task of the context holds or has requested a granule of a set. -/
def setInUse (s : State) (n k : Nat) : Bool :=
  let mine (g : Nat) : Bool := granuleCtx g == n && granuleSet g == k
  s.locks.any (fun e => mine e.1) || s.lockWait.any (fun x => mine x.2.2.2)
    || s.cores.any fun c => c.2.tasks.any fun t => t.2.held.any mine || t.2.asked.any mine || t.2.unsent.any mine

/-- ASDROP (R327). -/
def execAsdrop (h : WarpHdr) (setn : BitVec 4) (s : State) : Out :=
  let i : Instr := .asdrop h setn
  warpOp i h none [] anyMode s fun w =>
    let n := s.ctxOf w
    if w.taskst then taskTrap i
    else if setInUse s n setn.toNat then hold s w .asdrop i
    else .done { s with contexts := kmod s.contexts n fun c => { c with sets := kdel c.sets setn.toNat } } w

end Sys2Proof.Machine
end

