-- ==== Sys2Proof/Machine/Traps.lean ====
section
/-! DEFINITION. Trap delivery to a warp (R384 to R387), TRET (R391, R393), the arrival of late data (R47) and unallocated
opcodes (R71). -/

namespace Sys2Proof.Machine

/-- UNALLOCATED_OPCODE (R67, R71): ILLEGAL_OP with the word in TINFO. -/
def execUnallocatedOpcode (i : W32) (s : State) : Out :=
  match s.warp? s.cur with
  | none => .fault .noWarp
  | some w =>
    let lanes := if bit i 31 then allLanes else w.active
    .next (deliver s s.cur w ⟨.illegalOp, 0, lanes, i⟩ w.issueAddr w.active)

/-! ## Delivery (R384 to R387) -/

/-- The program-order number that a team cause carries: it counts as raised in handler mode (R385). -/
def teamSeq : Nat := 2 ^ 64

/-- A warp takes a cause now: any outside handler mode; in handler mode only what the handler raised, as DOUBLE (R385). -/
def Warp.takes (w : Warp) (seq : Nat) : Bool := !w.inh || decide (w.hseq ≤ seq)

/-- A TEAM_STALL waits for the warp. -/
def Warp.stallRaised (w : Warp) : Bool := w.pending.any fun p => p.1.cause == .teamStall

/-- R314: TEAM_STALL reaches a team's warps in ascending warp number. -/
def State.stallFirst (s : State) (w : Warp) : Bool :=
  s.warps.all fun e => e.2.team != w.team || decide (w.num ≤ e.2.num) || !e.2.stallRaised

/-- The oldest cause that a warp takes now, and the warp with it taken: causes that stand in no log entry first. The log has
8 entries (R390). -/
def State.nextCause (s : State) (w : Warp) : Option (TrapReq × Warp) :=
  match w.pending.find? fun p => w.takes p.2 && (p.1.cause != .teamStall || s.stallFirst w) with
  | some p => some (p.1, { w with pending := w.pending.erase p })
  | none =>
    match (w.opLog.take 8).findIdx? fun e => !e.delivered && w.takes e.acc.seq with
    | none => none
    | some k =>
      match w.opLog[k]? with
      | none => none
      | some e => some (e.trap, { w with opLog := lset w.opLog k { e with delivered := true } })

/-- R314, R386: TPC of a cause that is delivered between words: the word that the warp waits on, else its issue address. -/
def Warp.trapAddr (w : Warp) : Nat := if w.inh then w.issueAddr else (w.wait.map (·.pc)).getD w.issueAddr

/-- R384: TACT of a logged or contained cause; of a team cause, every live lane. -/
def Warp.trapLanes (w : Warp) (c : Cause) : LaneMask :=
  if c == .teamStall then w.live
  else w.lanesAt (if w.ready = 0 then w.live else w.ready) w.trapAddr

/-- Delivers the oldest cause that a warp takes; an exited warp's halts its team (R387). -/
def deliverNext (s : State) (wid : Nat) (w : Warp) : Option State :=
  (s.nextCause w).map fun (t, w') =>
    if w.exited then
      let w' := w'.trapState t (w.vpcOf 0) 0
      halt (s.setWarp wid w') w'.team w'
    else deliver s wid w' t w.trapAddr (w.trapLanes t.cause)

/-! ## TRET (R391, R393) -/

/-- The lanes of an entry that are cancelled when TLANES holds a mask: those that it leaves out, and those of an atomic that
timed out, which R371 does not let issue again. -/
def LogEntry.cancelled (e : LogEntry) (tlanes : LaneMask) : LaneMask :=
  let keep : LaneMask := if e.acc.scalar then (if tlanes = 0 then 0 else allLanes) else tlanes
  (e.trap.lanes &&& ~~~keep) ||| (e.trap.lanes &&& e.timedOut)

/-- Cancels lanes of a window: destination unchanged, lane ready at once; of an ended lane, its atomic. A window with nothing
left is dropped once it has closed; a scalar one writes nothing at its close. -/
def Warp.cancelLanes (w : Warp) (seq : Nat) (m : LaneMask) : Warp :=
  match w.window? seq with
  | none => w
  | some x =>
    let x := { x with lanes := x.lanes &&& ~~~m, dead := x.dead &&& ~~~m }
    if x.closed && x.lanes == 0 && x.dead == 0 then w.dropWindow seq else w.setWindow x

/-- Cancels lanes of the store at the head of the queue. -/
def Warp.cancelHead (w : Warp) (m : LaneMask) : Warp :=
  match w.storeQ with
  | [] => w
  | x :: _ => w.setHead (x.parts.filter fun p => !laneBit m p.lane)

/-- R391: re-issues or cancels the delivered entry of a warp, by a mask of lanes. -/
def settle (s : State) (w : Warp) (tlanes : LaneMask) : State × Warp :=
  match w.opLog.find? (·.delivered) with
  | none => (s, w)
  | some e =>
    let w := { w with opLog := w.opLog.filter fun x => !x.delivered }
    let gone := e.cancelled tlanes
    match e.source with
    | .window seq => (s, w.cancelLanes seq gone)
    | .store => (s, w.cancelHead gone)
    | .copy core k => if tlanes = 0 then (cancelCopy s core k, w) else (s.modCopy core k fun c => { c with stopped := false }, w)

/-- R393: the effect of TRET from a warp's trap state, from the return out of handler mode on. -/
def tretEffect (s : State) (wid : Nat) (w : Warp) : State :=
  let w := { w with inh := false }
  if w.deferredWound then
    let (s, w) := settle s { w with deferredWound := false } 0
    rollback (s.setWarp wid w) wid w
  else
    match w.deferredRetry with
    | some (snap, pc) =>
      let (s, w) := settle s { w with deferredRetry := none } 0
      s.setWarp wid { w.restore snap pc with counted := false }
    | none =>
      let m := maskOf fun l => laneBit (w.tact &&& w.live) l && canon57 (w.vpcOf l) == w.t0.toNat
      let w := w.moveLanes m fun _ => w.tpc.toNat
      let (s, w) := settle s w w.tlanes
      let w := w.evaluateAll
      s.setWarp wid (if w.ready != 0 && w.issueAddr == w.t0.toNat then w else w.uncount)

/-- R398: the effect of TRET that a restored team's halted warp owes, once its handler's windows have closed; an exited warp
performs the log part alone (R387). A bad TPC halts the team again, as DOUBLE. -/
def payTret (s : State) (wid : Nat) (w : Warp) : State :=
  let t := w.tpc.toNat
  let bad (c : Cause) (info : W32) : State :=
    let w := { w with tretDue := false, tcause := Cause.double.code, dcause := c.code, taddr := w.tpc, tlanes := allLanes, tinfo := info }
    halt (s.setWarp wid w) w.team w
  if w.exited then
    let (s, w) := settle s { w with tretDue := false } w.tlanes
    s.setWarp wid w
  else if t % 4 != 0 then bad .align 2
  else if !isCanonical t then bad .vaRange 0
  else
    match closeAll s wid w with
    | .waits s w => s.setWarp wid w
    | .shut s w => tretEffect s wid { w with tretDue := false }

/-- TRET (R393). -/
def execTret (h : WarpHdr) (s : State) : Out :=
  let i : Instr := .tret h
  warpOp i h none [] onlyInHandler s fun w =>
    let t := w.tpc.toNat
    if t % 4 != 0 then .trap (warpTrap .align t 2)
    else if !isCanonical t then .trap (warpTrap .vaRange t 0)
    else
      match closeAll s s.cur w with
      | .waits s w => hold s w .windowClose i
      | .shut s w =>
        let s := tretEffect s s.cur { w with wait := none }
        match s.warp? s.cur with
        | some w => .moved s w
        | none => .stop .noWarp

/-- TRAP_DELIVERY (R384 to R387, R398). -/
def execTrapDelivery (warp : Nat) (s : State) : Out :=
  match s.warp? warp with
  | none => .next s
  | some w =>
    match s.team? w.team with
    | none => .next s
    | some t =>
      if t.halted.isSome || t.preempting then .next s
      else if w.tretDue then .next (payTret s warp w)
      else match deliverNext s warp w with
        | some s => .next s
        | none => .next s

/-! ## Late data (R47) -/

/-- LATE_DATA_ARRIVAL (R47): the data of some lanes of a window arrives; those that a closed window still owes are written
and ready again. -/
def execLateDataArrival (warp win : Nat) (lanes : LaneMask) (s : State) : Out :=
  match s.warp? warp with
  | none => .next s
  | some w =>
    let (s, w) := pump s warp w win lanes
    match w.window? win with
    | none => .next (s.setWarp warp w)
    | some x =>
      let x := { x with late := x.late &&& ~~~lanes }
      let here := x.lanes &&& x.ready &&& ~~~x.late
      if x.closed then
        let w := w.writeWindow x here
        let x := { x with lanes := x.lanes &&& ~~~here }
        .next (s.setWarp warp (if x.lanes == 0 && x.dead == 0 then w.dropWindow win else w.setWindow x))
      else .next (s.setWarp warp (w.setWindow x))

/-- JOIN_FORCED_RELEASE (R82, third situation). -/
def execJoinForcedRelease (warp : Nat) (s : State) : Out :=
  match s.warp? warp with
  | none => .next s
  | some w =>
    if w.inh || w.ready != 0 || w.lateLanes != 0 then .next s
    else match w.forcedMask with
      | none => .next s
      | some k => .next (s.setWarp warp (w.releaseJoin k))

/-- STORE_PERFORMED (R206): the oldest store of a warp's queue is performed. -/
def execStorePerformed (warp : Nat) (s : State) : Out :=
  match s.warp? warp with
  | none => .next s
  | some w => let (s, w) := performHead s warp w; .next (s.setWarp warp w)

/-- SLEEP_END (R94). -/
def execSleepEnd (warp : Nat) (s : State) : Out :=
  match s.warp? warp with
  | none => .next s
  | some w =>
    match w.wait with
    | none => .next s
    | some x =>
      match x.kind with
      | .sleep start span => if span.toNat ≤ s.elapsed start then .next (s.setWarp warp (w.release x)) else .next s
      | _ => .next s

/-- EVENT_QUEUE_SPACE (R413): the EVPOST that has waited longest on a context's queue is accepted, or completes with no
effect when the queue is disabled. -/
def execEventQueueSpace (ctx : Nat) (s : State) : Out :=
  let waiting := s.warps.filterMap fun e => match e.2.wait with
    | some x => if x.kind == .evpost && s.ctxOf e.2 == ctx then some (e.1, e.2, x) else none
    | none => none
  let first := waiting.foldl (fun b e => match b with
    | none => some e
    | some (f : Nat × Warp × Wait) => if e.2.2.order < f.2.2.order then some e else some f) none
  match first with
  | none => .next s
  | some (wid, w, x) =>
    match x.word with
    | .evpost _ sa sb =>
      if !(s.eventQ ctx).on then .next (s.setWarp wid (w.release x))
      else if s.eventFull ctx then .next (s.readRidx ctx)
      else
        let s := s.appendEvent ctx 1 w.num w.core (w.sr sa.toNat) (w.sr sb.toNat)
        .next (s.setWarp wid (w.release x))
    | _ => .next s

end Sys2Proof.Machine
end

