-- ==== Sys2Proof/Machine/TeamOps.lean ====
section
/-! DEFINITION. Words and events of a whole team: BAR and GBAR (R304 to R310), RACQ and RREL (R35 to R37), LEXIT and EXIT
(R79), CAPQ (R95) and the stall detector (R313, R314). -/

namespace Sys2Proof.Machine

/-! ## BAR (R305 to R307) -/

/-- Warps of a team that have not exited. -/
def liveWarps (s : State) (tid : Nat) : Nat := s.warps.countP fun e => e.2.team == tid && !e.2.exited

def Team.bar (t : Team) (b : Nat) : Bar := kget t.bars b ⟨0, 0⟩

/-- R307. -/
def Team.barScope (t : Team) : Scope := if t.desc.pairMode then .die else .core

/-- Every warp of a team that waits with a kind goes on past its word, acquiring at a scope on its core. -/
def releaseAll (s : State) (tid : Nat) (k : WaitKind → Bool) (sc : Scope) : State :=
  let waits (w : Warp) : Bool := w.team == tid && w.wait.any fun x => k x.kind
  let cores := ((s.warps.filter fun e => waits e.2).map (·.2.core)).eraseDups
  let s := cores.foldl (fun s c => s.acquire c sc) s
  { s with warps := kmap (fun _ w =>
      match w.wait with
      | none => w
      | some x => if w.team == tid && k x.kind then w.release x else w) s.warps }

/-- R305: Evaluate(ID). MODE 0 stands for ALL. -/
def barEvaluate (s : State) (tid b : Nat) : State :=
  match s.team? tid with
  | none => s
  | some t =>
    let x := t.bar b
    let need := if x.mode = 0 then liveWarps s tid else x.mode
    if need ≤ x.arr then
      let s := s.setTeam tid { t with bars := kput t.bars b { x with arr := 0 } }
      releaseAll s tid (fun k => k == .bar b) t.barScope
    else s

/-- MBAR of a named barrier. -/
def barTrap (bid : BitVec 3) : Res := .trap (warpTrap .mbar 0 (0x100 + bid.zeroExtend 32))

/-- BAR (R305): the arrival is a release at the team scope; a warp that waits leaves with an acquire. -/
def execBar (h : WarpHdr) (sa : Reg) (cnt arv : Bool) (bid : BitVec 3) (s : State) : Out :=
  let i : Instr := .bar h sa cnt arv bid
  let b := bid.toNat
  warpOp i h none [] notInHandler s fun w =>
    withTeam s w fun t =>
      let n := (w.sr sa.toNat).toNat
      let x := t.bar b
      let m := if cnt then n else 0
      if w.taskst then taskTrap i
      else if cnt && (n = 0 || decide (64 < n)) then barTrap bid
      else if x.arr != 0 && x.mode != m then barTrap bid
      else
        let (s, w) := pumpAll s s.cur w
        if !w.allPerformed then hold s w .fence i
        else
          let (s, _) := releaseCopies s (Config.dieOfCore w.core) t.barScope
          withTeam s w fun t =>
            let need := if m = 0 then liveWarps s w.team else m
            let s1 := s.setTeam w.team { t with bars := kput t.bars b ⟨x.arr + 1, m⟩ }
            if need ≤ x.arr + 1 then
              .done (if arv then barEvaluate s1 w.team b else (barEvaluate s1 w.team b).acquire w.core t.barScope) w
            else if arv then .done s1 w
            else hold s1 w (.bar b) i

/-! ## GBAR (R310) -/

/-- The gang of a team: its launch and gang coordinate (R22). -/
def Team.gang (t : Team) : Nat × Nat := (t.launch, t.gangNum)

/-- Resident and saved teams of a gang that have not retired. -/
def gangTeams (s : State) (g : Nat × Nat) : List Nat × List Nat :=
  (kwhere s.teams fun _ t => t.gang == g, kwhere s.frames fun _ f => f.team.gang == g)

/-- R298: the scope of GBAR by class. -/
def gbarScope : GbarCls → Scope | .pavilion => .die | .die => .die | .device => .device

/-- A warp has arrived at GBAR or has exited. -/
def Warp.atGbar (w : Warp) : Bool :=
  w.exited || match w.wait with
    | some x => (match x.kind with | .gbar _ => true | _ => false)
    | none => false

/-- A warp leaves GBAR. -/
def Warp.leaveGbar (w : Warp) : Warp :=
  match w.wait with
  | none => w
  | some x => match x.kind with
    | .gbar _ => w.release x
    | _ => w

/-- The class of the GBAR that a warp waits at. -/
def Warp.gbarCls (w : Warp) : Option GbarCls :=
  w.wait.bind fun x => match x.kind with
    | .gbar c => some c
    | _ => none

/-- R310: every warp of every unretired team of the gang, saved ones included, has arrived. -/
def gangArrived (s : State) (g : Nat × Nat) : Bool :=
  let (live, saved) := gangTeams s g
  live.all (fun tid => s.warps.all fun e => e.2.team != tid || e.2.atGbar)
    && saved.all fun tid => (kget? s.frames tid).all fun f => f.warps.all fun e =>
      e.2.exited || (e.2.atGbar && !f.released.contains e.1)

/-- R310: evaluates a gang's generation. The warps of a saved team go on past the word at its restore. -/
def gbarEvaluate (s : State) (g : Nat × Nat) : State :=
  if gangArrived s g then
    let (live, saved) := gangTeams s g
    let s := s.warps.foldl (fun s e => match (if live.contains e.2.team then e.2.gbarCls else none) with
      | some c => s.acquire e.2.core (gbarScope c)
      | none => s) s
    { s with
      warps := kmap (fun _ w => if live.contains w.team then w.leaveGbar else w) s.warps
      frames := kmap (fun k f => if saved.contains k then
          { f with released := f.released ++ (kwhere f.warps fun _ w => w.atGbar && !w.exited) } else f) s.frames }
  else s

def gclassCode : GbarCls → Nat | .pavilion => 0 | .die => 1 | .device => 2

/-- GBAR (R310). -/
def execGbar (h : WarpHdr) (cls : GbarCls) (s : State) : Out :=
  let i : Instr := .gbar h cls
  warpOp i h none [] notInHandler s fun w =>
    withTeam s w fun t =>
      if w.taskst then taskTrap i
      else if gclassCode cls < t.desc.gclass then .trap (warpTrap .gangClass 0 (BitVec.ofNat 32 t.desc.gclass))
      else
        let (s, w) := pumpAll s s.cur w
        if !w.allPerformed then hold s w .fence i
        else
          let (s, _) := releaseCopies s (Config.dieOfCore w.core) (gbarScope cls)
          match hold s w (.gbar cls) i with
          | .moved s w =>
            let s := gbarEvaluate (s.setWarp s.cur w) t.gang
            match s.warp? s.cur with
            | some w => .moved s w
            | none => .stop .noWarp
          | .done s w => .done s w
          | .trap c => .trap c
          | .trapIn s w c => .trapIn s w c
          | .stop f => .stop f

/-! ## RACQ, RREL (R35 to R37) -/

/-- Scratchpad bytes of a core that no team holds. -/
def freeSpad (s : State) (core : Nat) : Nat :=
  Config.spadBytes - lsum (s.teams.map fun t => if t.2.cores.contains core then t.2.allot else 0)

/-- The warp of a team that waits in RACQ. -/
def racqWarp (s : State) (tid : Nat) : Option (Nat × Warp × Wait) :=
  s.warps.findSome? fun e =>
    if e.2.team != tid then none
    else match e.2.wait with
      | some x => if x.kind == .racq then some (e.1, e.2, x) else none
      | none => none

/-- RACQ (R35). After an RREL it parks and waits in a gang of several teams too. DEDUCED, notes/assumptions/154.md. -/
def execRacq (h : WarpHdr) (s : State) : Out :=
  let i : Instr := .racq h
  warpOp i h none [] anyMode s fun w =>
    withTeam s w fun t =>
      if w.taskst then taskTrap i
      else if t.allot = t.desc.sfull then .done s w
      else hold (s.setTeam w.team { t with parked := true }) w .racq i

/-- The lines [SPRO, SFULL) become present and clear. -/
def grantLines (d : Desc) (x : Spad) : Spad :=
  (List.range ((d.sfull - d.spro) / 128)).foldl (fun x k => (x.clearLine (d.spro / 128 + k)).raiseP (d.spro / 128 + k)) x

/-- RACQ_GRANT (R37): the oldest team that waits on a core is granted its lines when they are free on every core of the team
and no older team waits on any of these. -/
def execRacqGrant (core : Nat) (s : State) : Out :=
  let waits (t : Team) : Bool := t.parked && !t.preempting
  let waiting := s.teams.filter fun t => t.2.cores.contains core && waits t.2
  let first := waiting.foldl (fun b e => match b with
    | none => some e
    | some (f : Nat × Team) => if e.2.admitOrder < f.2.admitOrder then some e else some f) none
  match first with
  | none => .next s
  | some (tid, t) =>
    match racqWarp s tid with
    | none => .next s
    | some (wid, w, x) =>
      let older (c : Nat) : Bool := s.teams.any fun e =>
        e.2.cores.contains c && waits e.2 && decide (e.2.admitOrder < t.admitOrder)
      if t.cores.all fun c => decide (t.desc.sfull - t.allot ≤ freeSpad s c) && !older c then
        let parts := List.range t.cores.length
        let t := { parts.foldl (fun t p => t.setSpad p (grantLines t.desc (t.spad p))) t with
          allot := t.desc.sfull, parked := false }
        .next ((s.setTeam tid t).setWarp wid (w.release x))
      else .next s

/-- A line of a part's scratchpad is absent and nothing that runs will deliver it (R189, R263). -/
def deadLine (s : State) (tid : Nat) (t : Team) (part line : Nat) : Bool :=
  let core := t.cores.getD part 0
  !(t.spad part).present line
    && !((s.core core).copies.any fun c => c.2.team == tid && c.2.go && !c.2.stopped && c.2.left.contains line)
    && !(part == 0 && t.mats.any fun m => match m.2.ops with
      | o :: _ => o.kind == kAcccpy && o.steps == 1 && o.copyLines.contains line
      | [] => false)

/-- A part of an access of the scratchpad waits for such a line. -/
def deadPart (s : State) (tid : Nat) (t : Team) (w : Warp) (x : Acc) (p : Part) : Bool :=
  x.space == .spad && let e := s.partSpan w x p
    (linesOf e.1 e.2).any fun line => deadLine s tid t w.part line

/-- R36: an access of a warp to the lines [SPRO, SFULL), issued and not performed, that can still be performed. -/
def lateAccess (s : State) (tid : Nat) (t : Team) (w : Warp) : Bool :=
  let past (x : Acc) (p : Part) : Bool := x.space == .spad && (let e := s.partSpan w x p; decide (t.desc.spro < e.1 + e.2))
    && !deadPart s tid t w x p
  w.windows.any (fun x => x.acc.parts.any fun p => laneBit x.undone p.lane && past x.acc p)
    || w.storeQ.any fun x => x.parts.any (past x)

/-- R36: a copy or a matrix operation of the team still addresses the lines [SPRO, SFULL), or an access that was issued before
A changes has still to be performed there. -/
def drainLeft (s : State) (tid : Nat) (t : Team) : Bool :=
  let past (e : Nat × Nat) : Bool := decide (t.desc.spro < e.1 + e.2)
  t.cores.any (fun c => (s.core c).copies.any fun k => k.2.team == tid && k.2.xf.imageSpans.any past)
    || t.mats.any (fun m => m.2.ops.any fun o => o.regions.any past)
    || s.warps.any fun e => e.2.team == tid && lateAccess s tid t e.2

/-- The lines [SPRO, SFULL) leave a scratchpad: their contents are lost. What waits for an absent one goes on waiting. -/
def dropLines (d : Desc) (x : Spad) : Spad :=
  { cells := x.cells.filter fun c => decide (c.1 < d.spro), absent := x.absent
    written := x.written.filter fun line => decide (line < d.spro / 128) }

/-- A = SPRO. -/
def dropAllot (s : State) (tid : Nat) (t : Team) : State :=
  s.setTeam tid { (List.range t.cores.length).foldl (fun t p => t.setSpad p (dropLines t.desc (t.spad p))) t with
    allot := t.desc.spro }

/-- RREL (R36). -/
def execRrel (h : WarpHdr) (s : State) : Out :=
  let i : Instr := .rrel h
  warpOp i h none [] anyMode s fun w =>
    withTeam s w fun t =>
      if w.taskst then taskTrap i
      else if t.allot = t.desc.spro then .done s w
      else
        let (s, w) := pumpAll s s.cur w
        withTeam s w fun t =>
          if drainLeft (s.setWarp s.cur w) w.team t then hold s w .rrel i else .done (dropAllot s w.team t) w

/-- RREL_DRAIN_DONE (R36). -/
def execRrelDrainDone (warp : Nat) (s : State) : Out :=
  match s.warp? warp with
  | none => .next s
  | some w =>
    match w.wait, s.team? w.team with
    | some x, some t =>
      if x.kind != .rrel || drainLeft s w.team t then .next s
      else .next ((dropAllot s w.team t).setWarp warp (w.release x))
    | _, _ => .next s

/-! ## LEXIT, EXIT (R48, R79) -/

/-- Lanes of a window end: their results are discarded, and their atomics, once issued, are still performed (R48). -/
def Window.endLanes (x : Window) (m : LaneMask) : Window :=
  let due : LaneMask := match x.acc.kind with
    | .atomic _ => x.lanes &&& m &&& ~~~x.ready
    | .load | .store | .discard | .spclr | .copyGo _ _ => 0
  { x with lanes := x.lanes &&& ~~~m, dead := x.dead ||| due }

/-- Lanes end: their pending results are discarded; with the last one the warp has exited. -/
def Warp.endLanes (w : Warp) (m : LaneMask) : Warp :=
  let live := w.live &&& ~~~m
  if live = 0 then
    { w with
      live := 0, exited := true, loops := []
      windows := (w.windows.map fun x => { x.endLanes allLanes with closed := true }).filter fun x => x.dead != 0 }
  else
    { w with
      live := live
      windows := (w.windows.map fun x =>
        match x.dest with
        | .lanes _ _ => x.endLanes m
        | .scalar _ _ | .capq _ _ _ _ => x).filter fun x => !(x.closed && x.lanes == 0 && x.dead == 0) }

/-- R305, R310: a warp's exit evaluates the barriers that count warps. -/
def afterExit (s : State) (tid : Nat) : State :=
  match s.team? tid with
  | none => s
  | some t =>
    let s := (List.range 8).foldl (fun s b =>
      let x := t.bar b
      if x.arr != 0 && x.mode == 0 then barEvaluate s tid b else s) s
    gbarEvaluate s t.gang

/-- The end of lanes by a word, the others of the active mask going on. -/
def endWord (s : State) (w : Warp) (x : LaneMask) (len : Nat) : Res :=
  let w := (w.moveLanes (w.active &&& ~~~x) fun _ => w.issueAddr + len).endLanes x
  if w.exited then
    let s := afterExit (s.setWarp s.cur w) w.team
    match s.warp? s.cur with
    | some w => .moved s w
    | none => .stop .noWarp
  else .moved s w

/-- LEXIT (R79). -/
def execLexit (h : LaneHdr) (s : State) : Out :=
  let i : Instr := .lexit h
  laneOp i h [] notInHandler s fun w x =>
    if w.taskst && x != 0 then .trap ⟨.task, 0, x, opField i⟩ else endWord s w x i.len

/-- EXIT (R79). -/
def execExit (h : WarpHdr) (s : State) : Out :=
  let i : Instr := .exit h
  warpOp i h none [] notInHandler s fun w => if w.taskst then taskTrap i else endWord s w w.active i.len

/-! ## CAPQ (R95, R96) -/

/-- The value of a capability index; index 0x000C counts the planes that remap entries use (R366, R367). -/
def State.capability (s : State) (i : Nat) : Option Nat :=
  if i = 0x000C then some s.planePort.eraseDups.length else Config.capability i

/-- CAPQ (R95). DESIGN CHOICE, notes/assumptions/122.md: the value is that at issue, also when index 0x000C changes while the
window is open. -/
def execCapq (h : WarpHdr) (sd : Reg) (la : BitVec 4) (idx : BitVec 16) (qk : BitVec 3) (s : State) : Out :=
  let i : Instr := .capq h sd la idx qk
  warpOp i h none [] anyMode s fun w =>
    let c := s.capability idx.toNat
    let acc : Acc :=
      { kind := .load, space := .glob, scalar := true, size := .b32, sx := false, scope := .core, ord := .plain
        seq := w.seq, pc := w.issueAddr, w0 := firstWord i, w1 := extWord i, parts := [] }
    let win : Window :=
      { acc := acc, dest := .capq sd.toNat qk.toNat (BitVec.ofNat 32 (c.getD 0)) c.isSome, la := la.toNat, count := 0
        handler := w.inh, closed := false, lanes := 1, ready := 1, late := 0, vals := [], dead := 0, shutNo := 0, skip := [] }
    .done s { w with seq := w.seq + 1, windows := w.windows ++ [win] }

/-! ## The stall detector (R313, R314) -/

/-- Periods of the device time counter in a microsecond (the counter's rate, R55). -/
def microsecond : Nat := 1400

/-- The oldest operation of a matrix context is parked on such a line, on every array that it has still to run on. -/
def deadMat (s : State) (tid : Nat) (t : Team) (m : MatCtx) : Bool :=
  match m.ops with
  | [] => false
  | o :: _ =>
    let stuck (part j : Nat) : Bool := o.isMul && !o.begun part && (o.stepSpans j).any fun e => (linesOf e.1 e.2).any fun line =>
      !o.lineLatched part line && deadLine s tid t part line
    let left (j : Nat) : Bool := decide (j < o.total)
    (left o.steps || (o.paired t && left o.steps2)) && (!left o.steps || stuck 0 o.steps)
      && (!(o.paired t && left o.steps2) || stuck 1 o.steps2)

/-- A request in the name of a warp. -/
def Waiter.ofWarp (wid : Nat) : Waiter → Bool
  | .lane v _ _ | .store v _ _ | .fetch v | .word v _ | .commit v _ => v == wid
  | _ => false

/-- Some access of a warp waits for a line that nothing will deliver. -/
def deadReader (s : State) (tid : Nat) (t : Team) (w : Warp) : Bool :=
  w.windows.any (fun x => x.acc.parts.any fun p => laneBit (x.live w) p.lane && deadPart s tid t w x.acc p)
    || match w.storeQ with
      | [] => false
      | x :: _ => x.parts.any (deadPart s tid t w x)

/-- R313: nothing that a warp has issued goes on by itself: no answer is on its way, and each access waits for a line that
nothing will deliver, for a trap, or behind an older access. -/
def accessesHeld (s : State) (tid : Nat) (t : Team) (wid : Nat) (w : Warp) : Bool :=
  !(s.pri.any fun r => r.2.waiters.any (Waiter.ofWarp wid))
    && !(s.fab.any fun r => Waiter.ofWarp wid r.2.who && r.2.answer.isNone)
    && w.windows.all (fun x => x.lanes &&& x.late == 0 && (!x.closed || x.lanes &&& x.ready == 0)
      && x.acc.parts.all fun p => !laneBit (x.live w) p.lane || deadPart s tid t w x.acc p || s.loadsBlock w x.acc.seq)
    && match w.storeQ with
      | [] => true
      | x :: _ => s.headWaits w x || (!x.parts.isEmpty && x.parts.all fun p => w.logged .store p.lane || deadPart s tid t w x p)

/-- R313: the parking kind of a warp, 0 for one held at issue; none when it is not parked for good. `gang` says whether a
GBAR wait counts. An exited warp counts as 0. -/
def parkKind (s : State) (tid : Nat) (t : Team) (wid : Nat) (w : Warp) (gang : Bool) : Option Nat :=
  let dead := match t.matOf wid with | some (_, m) => deadMat s tid t m | none => false
  let reader := deadReader s tid t w
  if !accessesHeld s tid t wid w then none
  else if w.exited then some 0
  else if (s.nextCause w).isSome || w.stallRaised then none
  else match w.wait with
  | none => if !w.inh && w.ready == 0 && w.lateLanes != 0 && reader then some 7 else none
  | some x =>
    match x.kind with
    | .pushQ _ _ _ _ | .popQ _ _ _ _ _ => some 1
    | .bar _ => some 2
    | .gbar _ => if gang then some 3 else none
    | .mbwait b _ _ _ limit => if limit = 0xFFFFFFFF && !reporting s tid w.core b then some 4 else none
    | .mbinit => some 5
    | .actStore => some 6
    | .windowClose => if reader then some 7 else none
    | .mwait => if dead then some 8 else none
    | .atIssue => if reader then some 7 else if dead then some 0 else none
    | .sleep _ _ | .racq | .rrel | .fence | .twait | .xwait | .evpost | .asdrop | .taskSlot | .commit | .fetch => none

/-- R313: a copy goes on no further by itself: it has stopped, its place in the store queue has not come, or what it reads is
such a line. -/
def copyHeld (s : State) (tid : Nat) (t : Team) (e : Copy) : Bool :=
  e.stopped || !e.go || (!e.xf.load && !e.work.computed
    && (e.xf.chunkImage e.chunk).any fun o => deadLine s tid t e.part ((e.xf.img + o) / 128))

/-- R313: a team meets the stall condition. -/
def teamStuck (s : State) (tid : Nat) (gang : Bool) : Bool :=
  match s.team? tid with
  | none => false
  | some t =>
    !t.preempting && t.halted.isNone
      && s.warps.all (fun e => e.2.team != tid || (parkKind s tid t e.1 e.2 gang).isSome)
      && t.cores.all (fun c => (s.core c).copies.all fun k => k.2.team != tid || copyHeld s tid t k.2)
      && t.mats.all fun m => m.2.ops.isEmpty || deadMat s tid t m.2

/-- R313: the GBAR waits of a gang count as parked: every unretired team of the gang is stuck. -/
def gangStuck (s : State) (g : Nat × Nat) : Bool :=
  let (live, saved) := gangTeams s g
  saved.isEmpty && live.all fun tid => teamStuck s tid true

/-- R313: the measure of a team: the time since when the condition has held without a break. -/
def stuckMeasure (s : State) (tid : Nat) (t : Team) : Option Nat :=
  if teamStuck s tid false || gangStuck s t.gang then some (t.stuckSince.getD s.time.toNat) else none

/-- The measures of all teams. -/
def watchStalls (s : State) : State := { s with teams := kmap (fun k t => { t with stuckSince := stuckMeasure s k t }) s.teams }

/-- R314: the cause that TEAM_STALL raises on a warp. -/
def Warp.stall (w : Warp) (k : Nat) : Warp :=
  { w with pending := w.pending ++ [(warpTrap .teamStall 0 (BitVec.ofNat 32 k), teamSeq)] }

/-- The condition of a team has held for 1 ms. -/
def stallDue (s : State) (gang : Bool) (tid : Nat) (t : Team) : Bool :=
  teamStuck s tid gang && t.cores.all (fun c => (kget? s.paused c).isNone) && t.stuckSince.any fun start => decide (1000 * microsecond ≤ s.elapsed start)

/-- TEAM_STALL (R313, R314): the cause is raised on every warp that has not exited, with its parking kind. The teams of one
gang are decided together: those whose measure has run out stall with this one. -/
def execTeamStall (team : Nat) (s : State) : Out :=
  match s.team? team with
  | none => .next s
  | some t =>
    let g := gangStuck s t.gang
    if stallDue s g team t then
      let due := (s.teams.filter fun e => e.2.gang == t.gang && stallDue s g e.1 e.2)
      .next { s with
        warps := kmap (fun k w =>
          match due.find? fun e => e.1 == w.team with
          | some e => if w.exited then w else w.stall ((parkKind s e.1 e.2 k w g).getD 0)
          | none => w) s.warps }
    else .next s

end Sys2Proof.Machine
end

