-- ==== Sys2Proof/Machine/Fabric.lean ====
section
/-! DEFINITION. The fabric: answers and time-outs (R371, R410, R411), requests at the lender (R369), planes (R366 to R368)
and leases (R372 to R380). -/

namespace Sys2Proof.Machine

/-! ## Lease records (R372, R373) -/

def LeaseState.code : LeaseState → Nat
  | .idle => 0 | .offered => 1 | .active => 2 | .reclaiming => 3 | .demoted => 4 | .ended => 5 | .failed => 6

def State.leaseRec (s : State) (k : Nat) : Nat := s.regs.leasetab + 64 * k

/-- Chunks of 2 MiB in a lease. -/
def Lease.chunks (r : Lease) : Nat := r.size / 2 ^ 21

/-- Sets a record, in the device and in its table: STATE, DEADLINE, MOVED and TRECL. An idle record leaves the device. -/
def State.setLease (s : State) (k : Nat) (r : Lease) : State :=
  let a := s.leaseRec k
  let s := s.devWrite (a + 1) [BitVec.ofNat 8 r.st.code]
  let s := s.devWrite (a + 0x28) (leBytes 4 r.deadline ++ leBytes 4 r.moved.length ++ leBytes 8 r.trecl.toNat)
  { s with leases := if r.st = .idle then kdel s.leases k else kput s.leases k r }

/-- R373: ends the LEASECMD in progress. -/
def State.leaseResult (s : State) (res : Nat) : State := s.modRegs fun g => { g with leaseBusy := none, leaseResult := res }

/-- R372: a record as software wrote it, and whether it breaks a rule. -/
def leaseOf (b : List Byte) : Lease × Bool :=
  let f := fieldAt b
  let gib := 2 ^ 30
  let top := Config.hbmBytes
  let lender := f 0 1 == 1
  let fb := f 0x1A 1 % 2 == 1
  let r : Lease :=
    { lender := lender, st := .idle, peer := f 2 2 % 1024, id := BitVec.ofNat 32 (f 4 4), lbase := f 8 8, size := f 0x10 8
      ctx := f 0x18 1, key := f 0x19 1 % 128, fb := fb, fbase := f 0x20 8, deadline := 0, trecl := 0, returning := false
      stopped := false, quiesced := false, moved := [], lastMove := 0, awaited := [], unsent := none }
  let keyBad := f 0x19 1 == 0 || decide (127 < f 0x19 1)
  let bad := decide (2 < f 0 1) || decide (1023 < f 2 2) || f 0x1B 5 != 0 || f 0x38 8 != 0 || decide (1 < f 0x1A 1)
    || r.lbase % gib != 0 || decide (top ≤ r.lbase) || r.size % gib != 0 || r.size == 0 || decide (384 * gib < r.size)
    || decide (top < r.lbase + r.size)
    || (if lender then r.ctx != 0 || keyBad || fb
        else decide (63 < r.ctx) || (fb && (keyBad || r.fbase % 2 ^ 21 != 0 || decide (top < r.fbase + r.size))))
  (r, bad)

/-- DEADLINE (R374). -/
def Lease.limit (r : Lease) : Nat := 100 + ceilDiv r.size 400000

/-- R376, R374: a line of an own-HBM range, or of an allotment, is in a cache. -/
def lineIn (own : Bool) (dev base size t : Nat) : Bool :=
  match locOfLine t with
  | .own pa _ => own && decide (base ≤ pa) && decide (pa < base + size)
  | .peer d pa => !own && d == dev && decide (base ≤ pa) && decide (pa < base + size)
  | .host _ => false

/-- Drops the L1 copies of lines on every core. -/
def State.dropL1All (s : State) (p : Nat → Bool) : State :=
  { s with cores := kmap (fun _ c => { c with l1 := c.l1.filter fun e => !p e.1 }) s.cores }

/-- R374: the lender writes back and drops every copy of the range held outside its home slices. -/
def dropLent (s : State) (r : Lease) : State :=
  let p := lineIn true 0 r.lbase r.size
  let s := [0, 1].foldl (fun s die =>
    (kwhere (s.rdc die) fun t _ => p t).foldl (fun s t => (s.writeBackRdc die t).dropRdc die t) s) s
  s.dropL1All p

/-- Sends a lease message to the peer; one whose plane is being moved waits for the new port (R368). -/
def leaseSend (s : State) (k : Nat) (r : Lease) (kind : Nat) : State :=
  if s.planeDrain.getD (fold r.lbase) false then
    { s with leases := kmod s.leases k fun x => { x with unsent := some kind } }
  else fabSend s (.lease k) 0 r.peer r.lbase 0 (.message kind)

/-- The messages that waited go out on the ports that take them now. -/
def leaseResend (s : State) : State :=
  s.leases.foldl (fun s e => match e.2.unsent with
    | none => s
    | some kind =>
      if s.planeDrain.getD (fold e.2.lbase) false then s
      else leaseSend { s with leases := kmod s.leases e.1 fun x => { x with unsent := none } } e.1 e.2 kind) s

/-- The messages of a record on their way, or waiting to go, are given up. -/
def State.dropMessages (s : State) (k : Nat) : State :=
  let s := s.dropWaiters fun w => w == .lease k
  { s with leases := kmod s.leases k fun x => { x with unsent := none } }

/-- The record and what software asks of it; none while a LEASECMD is in progress (R373). -/
def leaseReady (s : State) (k : Nat) : Bool := s.up 6 && s.regs.leaseBusy.isNone && decide (k < 64)

/-- LEASECMD_OFFER_GRANT (R372 to R374). DESIGN CHOICE, notes/assumptions/69.md: a record that cannot be corrected ends it
with RESULT 1. -/
def execLeasecmdOfferGrant (rec : Nat) (s : State) : Out :=
  if !leaseReady s rec then .next s
  else
    match s.devTake (s.leaseRec rec) 64 with
    | (s, none) => .next (s.leaseResult 1)
    | (s, some b) =>
      let (r, bad) := leaseOf b
      let clash := r.lender && s.leases.any fun e => e.1 != rec && e.2.lender && overlap e.2.lbase e.2.size r.lbase r.size
      if (kget? s.leases rec).isSome || fieldAt b 1 1 != 0 || fieldAt b 0 1 == 0 then .next (s.leaseResult 3)
      else if bad || clash then .next (s.leaseResult 1)
      else if r.lender then
        let s := { dropLent s r with leases := kput s.leases rec r }
        .next ((leaseSend s rec r 0).modRegs fun g => { g with leaseBusy := some (rec, 0, s.time.toNat) })
      else .next ((s.setLease rec { r with st := .offered }).leaseResult 0)

/-- GRANT_MESSAGE (R374): the borrower accepts a grant that matches an offer. -/
def execGrantMessage (peer leaseid lbase size : Nat) (s : State) : Out :=
  match s.leases.find? fun e => !e.2.lender && e.2.st == .offered && e.2.peer == peer && e.2.id.toNat == leaseid
      && e.2.lbase == lbase && e.2.size == size with
  | none => .next { s with reply := some (.fabric peer .refused []) }
  | some (k, r) => .next { s.setLease k { r with st := .active, deadline := r.limit } with reply := some (.fabric peer .done []) }

/-- R376: a lender starts a reclaim. -/
def startReclaim (s : State) (k : Nat) (r : Lease) : State :=
  leaseSend (s.setLease k { r with st := .reclaiming, trecl := s.time }) k r 1

/-- R376: the lender's firmware starts a reclaim on its own behalf. -/
def firmwareReclaim (s : State) (k : Nat) : State :=
  match kget? s.leases k with
  | none => s
  | some r => if r.lender && r.st == .active then startReclaim s k r else s

/-- LEASECMD_RECLAIM (R376): the lender starts a reclaim. -/
def execLeasecmdReclaim (rec : Nat) (s : State) : Out :=
  if !leaseReady s rec then .next s
  else
    match kget? s.leases rec with
    | none => .next (s.leaseResult 3)
    | some r =>
      if !r.lender || r.st != .active then .next (s.leaseResult 3)
      else .next ((startReclaim s rec r).modRegs fun g => { g with leaseBusy := some (rec, 1, s.time.toNat) })

/-- R378: the TIER_DEMOTE record of a borrower's handshake. -/
def tierDemote (s : State) (k : Nat) (r : Lease) (outcome : Nat) : State :=
  s.postEvent r.ctx 3 0xFF 0xFFFF (BitVec.ofNat 32 (outcome * 256 + k)) (BitVec.ofNat 32 r.moved.length)

/-- A request of the lease's range that has not been answered (R376 step 1). -/
def leaseOut (s : State) (r : Lease) : Bool :=
  s.fab.any fun e => e.2.answer.isNone && e.2.dev == r.peer && decide (r.lbase ≤ e.2.pa) && decide (e.2.pa < r.lbase + r.size)
    && match e.2.op with | .message _ => false | .read | .write _ | .atomic .. | .discard => true

/-- R376 steps 1 and 2 at a borrower that has stopped: write-backs go out, and once every request has been answered or has
timed out the copies are dropped. True when that is done. -/
def leaseQuiet (s : State) (r : Lease) : State × Bool :=
  let p := lineIn false r.peer r.lbase r.size
  let failed (s : State) (die t : Nat) : Bool := s.fab.any fun e => e.2.who == .rdc die t && match e.2.answer with
    | some (.inl _) => true
    | _ => false
  if leaseOut s r then (s, false)
  else
    let s := [0, 1].foldl (fun s die =>
      let lines := kwhere (s.rdc die) fun t _ => p t
      let lost := lines.filter (failed s die)
      let s := lost.foldl (fun s t => (s.dropRdc die t).dropWaiters fun w => w == .rdc die t) s
      (flushPeers s die (lines.filter fun t => !lost.contains t)).1) s
    if leaseOut s r || ([0, 1].any fun die => (s.rdc die).any fun e => p e.1 && e.2.dirty != 0) then (s, false)
    else
      let s := [0, 1].foldl (fun s die => (kwhere (s.rdc die) fun t _ => p t).foldl (fun s t => s.dropRdc die t) s) s
      (s.dropL1All p, true)

/-- RECLAIM_ARRIVAL (R376): the reclaim reaches the borrower; it stops; it falls quiet and says so. A return that crosses
the reclaim gives way to it (R380): the lender took the reclaim first. -/
def execReclaimArrival (rec : Nat) (s : State) : Out :=
  match kget? s.leases rec with
  | none => .next s
  | some r =>
    if r.lender then .next s
    else if r.st = .active then .next (s.setLease rec { r with st := .reclaiming, trecl := s.time })
    else if r.st != .reclaiming then .next s
    else if r.returning then
      let s := (s.dropMessages rec).setLease rec
        { r with trecl := s.time, returning := false, quiesced := false, unsent := none }
      .next (if s.regs.leaseBusy.map (fun b => (b.1, b.2.1)) == some (rec, 2) then s.leaseResult 3 else s)
    else if r.quiesced then .next s
    else if !r.stopped then .next (s.setLease rec { r with stopped := true })
    else
      let (s, quiet) := leaseQuiet s r
      if !quiet then .next s
      else
        let r := { r with quiesced := true, lastMove := s.time.toNat }
        .next (leaseSend (s.setLease rec r) rec r 2)

/-- LEASECMD_RETURN (R380): the borrower stops, falls quiet and tells the lender. -/
def execLeasecmdReturn (rec : Nat) (s : State) : Out :=
  match kget? s.leases rec with
  | none => if leaseReady s rec then .next (s.leaseResult 3) else .next s
  | some r =>
    if leaseReady s rec then
      if r.lender || r.st != .active then .next (s.leaseResult 3)
      else
        .next ((s.setLease rec { r with st := .reclaiming, returning := true, stopped := true }).modRegs fun g =>
          { g with leaseBusy := some (rec, 2, s.time.toNat) })
    else if s.regs.leaseBusy.map (fun b => (b.1, b.2.1)) == some (rec, 2) && r.returning && !r.quiesced then
      let (s, quiet) := leaseQuiet s r
      if !quiet then .next s
      else
        let r := { r with quiesced := true }
        .next ((leaseSend (s.setLease rec r) rec r 3).modRegs fun g => { g with leaseBusy := some (rec, 2, s.time.toNat) })
    else .next s

/-- LEASECMD_RETIRE (R380). -/
def execLeasecmdRetire (rec : Nat) (s : State) : Out :=
  if !leaseReady s rec then .next s
  else
    match kget? s.leases rec with
    | none => .next (s.leaseResult 3)
    | some r =>
      if r.st = .demoted || r.st = .ended || r.st = .failed then .next ((s.setLease rec { r with st := .idle }).leaseResult 0)
      else .next (s.leaseResult 3)

/-- LEASE_PEER_TIMEOUT (R373, R380): the peer did not answer within 100 µs. -/
def execLeasePeerTimeout (rec : Nat) (s : State) : Out :=
  match s.regs.leaseBusy, kget? s.leases rec with
  | some (k, op, since), some r =>
    let told := op != 2 || r.quiesced
    if k != rec || !told || s.elapsed since < 100 * microsecond then .next s
    else
      let s := s.dropMessages rec
      let r := { r with unsent := none }
      match op with
      | 0 => .next ({ s with leases := kdel s.leases rec }.leaseResult 2)
      | 2 => .next ((s.setLease rec { r with st := .failed }).leaseResult 2)
      | _ => .next (s.leaseResult 2)
  | _, _ => .next s

/-- QUIESCE_MESSAGE (R376, R380): the borrower's quiesce reaches the lender: of a return (`ret`), which loses to a reclaim
that stands already, or of a reclaim, with or without a fallback. -/
def execQuiesceMessage (rec : Nat) (fb ret : Bool) (s : State) : Out :=
  match kget? s.leases rec with
  | none => .next s
  | some r =>
    let reply (s : State) (ok : Bool) : Out := .next { s with reply := some (.fabric r.peer (if ok then .done else .refused) []) }
    if !r.lender then .next s
    else if ret then
      if r.st = .active then reply (s.setLease rec { r with st := .ended }) true else reply s false
    else if r.st = .reclaiming && !r.quiesced then
      if fb then reply (s.setLease rec { r with quiesced := true, lastMove := s.time.toNat }) true
      else reply (s.setLease rec { r with st := .ended }) true
    else reply s false

/-- R376 step 3: the bytes of a chunk arrive at the fallback, under the record's key. -/
def moveChunk (s : State) (r : Lease) (chunk : Nat) : State :=
  (List.range (2 ^ 21 / 128)).foldl (fun s k =>
    let off := chunk * 2 ^ 21 + 128 * k
    s.writeHome (.own (r.fbase + off) r.key) (tab 128 fun i => mget s.fabMem (r.peer * 2 ^ 52 + r.lbase + off + i))) s

/-- R379: a borrower's handshake fails. -/
def failLease (s : State) (k : Nat) (r : Lease) : State := tierDemote (s.setLease k { r with st := .failed }) k r 2

/-- R376: a chunk that the borrower has reported as awaited goes next; with none, the lowest that has not moved does. -/
def Lease.nextChunk (r : Lease) (chunk : Nat) : Bool :=
  if r.awaited.isEmpty then (List.range chunk).all r.moved.contains else r.awaited.contains chunk

/-- CHUNK_MOVED (R376, R379): a chunk has been streamed: at the lender it is counted; at the borrower it is written to the
fallback, or that write fails. A chunk that is not due is moved by neither; at the lender the move then stands for the
borrower's report that it is awaited. DEDUCED, notes/assumptions/40.md. -/
def execChunkMoved (rec chunk : Nat) (s : State) : Out :=
  match kget? s.leases rec with
  | none => .next s
  | some r =>
    if r.st != .reclaiming || !r.quiesced || r.returning || r.chunks ≤ chunk || r.moved.contains chunk || (!r.lender && !r.fb) then .next s
    else if !r.nextChunk chunk then
      .next (if r.lender then s.setLease rec { r with awaited := r.awaited ++ [chunk] } else s)
    else
      let r' := { r with moved := r.moved ++ [chunk], lastMove := s.time.toNat, awaited := r.awaited.filter (· != chunk) }
      if r.lender then .next (s.setLease rec r')
      else if !(kget s.keys r.key ⟨false, []⟩).loaded then .next (failLease s rec r)
      else .next ((moveChunk s r chunk).setLease rec r')

/-- LEASE_DEMOTE (R376 steps 4 and 5): every chunk has moved. -/
def execLeaseDemote (rec : Nat) (s : State) : Out :=
  match kget? s.leases rec with
  | none => .next s
  | some r =>
    if r.st != .reclaiming || !r.quiesced || r.returning || r.moved.length < r.chunks then .next s
    else if r.lender then .next (s.setLease rec { r with st := .ended })
    else .next (tierDemote (s.setLease rec { r with st := .demoted }) rec r 0)

/-- LEASE_DEADLINE (R379): the lender's record ends at DEADLINE; the range of a borrower that never fell quiet returns with
undefined contents. -/
def execLeaseDeadline (rec : Nat) (s : State) : Out :=
  match kget? s.leases rec with
  | none => .next s
  | some r =>
    if r.lender && r.st == .reclaiming && decide (r.deadline * microsecond ≤ s.elapsed r.trecl.toNat) then
      let s := s.setLease rec { r with st := .ended }
      .next (if r.quiesced then s else s.scramble r.lbase r.size)
    else .next s

/-- LEASE_FAILED (R379): the lender has stopped answering after step 2, with or without a fallback to move to. -/
def execLeaseFailed (rec : Nat) (s : State) : Out :=
  match kget? s.leases rec with
  | none => .next s
  | some r =>
    if !r.lender && r.st == .reclaiming && r.quiesced && !r.returning && decide (r.moved.length < r.chunks)
        && decide (s.fabricTimeout * microsecond ≤ s.elapsed r.lastMove) then .next (failLease (s.dropMessages rec) rec { r with unsent := none })
    else .next s

/-- R373: an OP on a record ends with a result, where it is the one in progress. -/
def State.endCmd (s : State) (k op res : Nat) : State :=
  if s.regs.leaseBusy.map (fun b => (b.1, b.2.1)) == some (k, op) then s.leaseResult res else s

/-- What an answer to a lease message does (R374, R376, R380). -/
def leaseAnswered (s : State) (k kind : Nat) (ok : Bool) : State :=
  match kget? s.leases k with
  | none => s
  | some r =>
    match kind, ok with
    | 0, true => (s.setLease k { r with st := .active, deadline := r.limit }).endCmd k 0 0
    | 0, false => { s with leases := kdel s.leases k }.endCmd k 0 2
    | 1, true => s.endCmd k 1 0
    | 1, false => s.endCmd k 1 3
    | 2, true => if r.fb then s else tierDemote (s.setLease k { r with st := .ended }) k r 1
    | 2, false => s
    | 3, true => (s.setLease k { r with st := .ended }).endCmd k 2 0
    | _, _ => s.endCmd k 2 3

/-! ## Answers (R371, R410, R411) -/

/-- The fabric address (R364). -/
def FabReq.fabAddr (r : FabReq) : Nat := r.dev * 2 ^ 52 + r.pa

def State.modFab (s : State) (k : Nat) (f : FabReq → FabReq) : State := { s with fab := kmod s.fab k f }

/-- R229: the atomics of a request, one directly after another; answers their old values, joined. -/
def atomicsAt (l : Loc) (sz : Size) (op : Aop) : List (W128 × W128) → State → List Byte → State × List Byte
  | [], s, bs => (s, bs)
  | (x, x2) :: xs, s, bs =>
    let (s, m) := atomicAtHome s l sz op x x2
    atomicsAt l sz op xs s (bs ++ leBytes sz.bytes m.toNat)

/-- The bytes that a word of a warp reads of a line of another device: its own queued stores lie over them (R206). -/
def State.ownBytes (s : State) (w : Warp) (va : Nat) (bs : List Byte) : List Byte :=
  tab 128 fun i => match s.queued w .glob (2 ^ 64) (va / 128 * 128 + i) with
    | .byte b => b
    | .none | .blocked => bs.getD i 0

/-- A request is performed at its home; answers the bytes of the line read, with the dirty bytes of the die's RDC for a warp
(R203), or the old values of the atomics; none where it meets a unit that was written back damaged (R406). An atomic's line
leaves the die's RDC first (R213). -/
def performRemote (s : State) (r : FabReq) : State × Option (List Byte) :=
  let l := Loc.peer r.dev (r.pa / 128 * 128)
  match r.op with
  | .read =>
    match s.waiterWarp r.who with
    | some w =>
      if (s.readBad r.die l 128).any (· != 3) then (s, none)
      else
        let s := s.fillRdc r.die l
        let bs := (kget (s.rdc r.die) l.line ⟨[], 0, false, 0, 0⟩).bytes
        (s, some (match r.who with
          | .word _ _ => s.ownBytes w r.va bs
          | _ => bs))
    | none => if (s.homeBad l 128).isSome then (s, none) else (s, some (s.homeBytes l 128))
  | .write ws => (s.putHomeAt l ws, some [])
  | .atomic off sz op xs =>
    let s := (s.writeBackRdc r.die l.line).dropRdc r.die l.line
    if (s.homeBad (l.plus off) sz.bytes).isSome then (s, none)
    else
      let (s, bs) := atomicsAt (l.plus off) sz op xs s []
      (s, some bs)
  | .discard =>
    let c := s.freeCtr
    ({ s with freeCtr := c + 128 }.writeHome l (tab 128 fun i => BitVec.ofNat 8 (Config.freeValue (c + i))), some [])
  | .message _ => (s, some [])

/-- What an answer changes in the copies of the core and the die that sent the request: a write-back leaves the line clean, a
store's bytes enter the copies, an atomic's or a DISCARD's line leaves them (R203, R207, R213, R219). -/
def answeredCopies (s : State) (r : FabReq) : State :=
  let t := (Loc.peer r.dev r.pa).line
  match r.who, r.op, s.waiterWarp r.who with
  | .rdc die _, .write ws, _ => s.writtenBack die t ws
  | _, .write ws, some w => s.storedHome w.core t ws
  | _, .atomic .., some w => s.dropL1 w.core t
  | _, .discard, some w => (s.dropL1Die (Config.dieOfCore w.core) t).dropRdc (Config.dieOfCore w.core) t
  | _, _, _ => s

/-- R368: a request for the same line of the same device was sent earlier and has not been performed. -/
def FabReq.behind (r : FabReq) (s : State) : Bool :=
  s.fab.any fun e => e.2.dev == r.dev && e.2.pa / 128 == r.pa / 128 && decide (e.2.order < r.order) && e.2.answer.isNone
    && match e.2.op with | .message _ => false | .read | .write _ | .atomic .. | .discard => true

/-- R411: FABRIC, with TADDR the fabric address. -/
def fabTrap (r : FabReq) (info : W32) : TrapReq := ⟨.fabric, r.fabAddr, 0, info⟩

/-- A request has its answer; one that no one waits for, and a write-back that has been performed, is over. A lane's load is
performed as its line comes (R206). -/
def State.answerFab (s : State) (req : Nat) (r : FabReq) (a : TrapReq ⊕ List Byte) : State :=
  match r.who, a with
  | .none, _ | .rdc _ _, .inr _ => { s with fab := kdel s.fab req }
  | who, a =>
    let s := s.modFab req fun r => { r with answer := some a }
    match who, r.op, a with
    | .lane wid seq l, .read, .inr _ => match s.warp? wid with
      | some w => let (s, w) := pump s wid w seq (1#32 <<< l); s.setWarp wid w
      | none => s
    | _, _, _ => s

/-- R403, R406: a request is answered with a data error. -/
def answerDamaged (s : State) (req : Nat) (r : FabReq) : State :=
  let ctx := match s.waiterWarp r.who with
    | some w => some (s.ctxOf w)
    | none => s.waiterCtx r.who
  let s := match ctx with
    | some ctx =>
      let (num, core) := s.waiterSource r.who none
      s.reportBad ctx num core 0x11 r.pa
    | none => s.hostError 0xFF 0xFF 0xFFFF (BitVec.ofNat 32 0x111) (BitVec.ofNat 32 r.pa)
  s.answerFab req r (.inl ⟨.dataErr, r.va, 0, 0x11⟩)

/-- FABRIC_REPLY (R371, R411, R403): an answer; one that comes after the time-out finds no request and is discarded. A request
is performed after those for its line that were sent before it (R368). -/
def execFabricReply (req : Nat) (answer : FabricAnswer) (s : State) : Out :=
  match kget? s.fab req with
  | none => .next s
  | some r =>
    match r.answer, r.op, r.who with
    | some _, _, _ => .next s
    | none, .message kind, .lease k => .next (leaseAnswered { s with fab := kdel s.fab req } k kind (answer == .done))
    | none, _, _ =>
      match answer with
      | .done =>
        if r.behind s then .next s
        else
          match performRemote s r with
          | (s, some bs) => .next ((answeredCopies s r).answerFab req r (.inr bs))
          | (s, none) => .next (answerDamaged s req r)
      | .refused => .next (s.answerFab req r (.inl (fabTrap r 0x02)))
      | .portFailed => .next (s.answerFab req r (.inl (fabTrap r 0x03)))
      | .dataError => .next (answerDamaged s req r)

/-- FABRIC_TIMEOUT (R410, R371): no answer within TMO. A write, an atomic or a DISCARD may have been performed all the
same. -/
def execFabricTimeout (req : Nat) (s : State) : Out :=
  match kget? s.fab req with
  | none => .next s
  | some r =>
    if r.answer.isSome || s.elapsed r.since < r.tmo * microsecond then .next s
    else
      let s' := s.answerFab req r (.inl (fabTrap r 0x01))
      match r.op with
      | .read => .next s'
      | .message _ => .next { s with fab := kdel s.fab req }
      | .write _ | .atomic .. | .discard =>
        if r.behind s then .next s'
        else
          let (s', b) := s'.free 1
          .next (if b = 1 then (performRemote s' r).1 else s')

/-! ## Requests at the lender (R369) -/

def remoteSpan : RemoteReq → Nat × Nat
  | .read pa len => (pa, len)
  | .write pa bytes => (pa, bytes.length)
  | .atomic pa size _ _ _ => (pa, size.bytes)
  | .discard pa => (pa / 128 * 128, 128)

/-- FABRIC_REQUEST (R369, R363, R406): 1 to 128 bytes within one line; an atomic has a size of its operation (R65). A unit
that cannot be corrected answers a read or an atomic with a data error. -/
def execFabricRequest (dev : Nat) (req : RemoteReq) (s : State) : Out :=
  let (pa, n) := remoteSpan req
  let answer (s : State) (a : FabricAnswer) (bs : List Byte) : Out := .next { s with reply := some (.fabric dev a bs) }
  let sized : Bool := match req with
    | .atomic _ size op _ _ => op.accepts size
    | .read _ _ | .write _ _ | .discard _ => true
  let fits : Bool := decide (0 < n) && decide (pa % 128 + n ≤ 128) && sized
  match s.leases.find? fun e => e.2.lender && e.2.peer == dev && (e.2.st == .active || e.2.st == .reclaiming)
      && decide (e.2.lbase ≤ pa) && decide (pa + n ≤ e.2.lbase + e.2.size) with
  | none => answer s .refused []
  | some (_, r) =>
    let l := Loc.own pa r.key
    let hurt (s : State) (k : Nat) : Out :=
      answer (s.hostError 0xFF 0xFF 0xFFFF (BitVec.ofNat 32 (k + 0x100)) (BitVec.ofNat 32 pa)) .dataError []
    if !fits then answer s .refused []
    else
      match req with
      | .read _ _ => match s.homeBad l n with
        | some k => hurt s k
        | none => answer s .done (s.homeBytes l n)
      | .write _ bytes =>
        let ws := (List.range n).filterMap fun i => (bytes.getD i none).map fun b => (i, b)
        answer (s.putHomeAt l ws) .done []
      | .atomic _ size op x x2 => match s.homeBad l n with
        | some k => hurt s k
        | none =>
          let (s, m) := atomicAtHome s l size op x x2
          answer s .done (leBytes n m.toNat)
      | .discard _ => answer { s with l2 := kdel s.l2 l.line } .done []

/-! ## Planes (R366 to R368) -/

/-- The port that an entry names, or is to name. -/
def State.entryPort (s : State) (k : Nat) : Nat := ((s.planeNext.getD k none).getD (s.planePort.getD k 0))

/-- R366: SHARED of every entry. -/
def State.markShared (s : State) : State :=
  { s with planeShared := tab 16 fun k => (List.range 16).any fun j => j != k && s.entryPort j == s.entryPort k }

/-- R367: the port that an entry takes when its own is dead. -/
def State.sparePort (s : State) (k : Nat) : Option Nat :=
  let free (p : Nat) : Bool := s.portUp.getLsbD p && !((List.range 16).any fun j => s.entryPort j == p)
  let upOf (j : Nat) : Bool := s.portUp.getLsbD (s.entryPort j)
  if free 16 then some 16
  else if free 17 then some 17
  else if upOf (k ^^^ 8) then some (s.entryPort (k ^^^ 8))
  else ((List.range 16).find? upOf).map s.entryPort

/-- A FABRIC record for every active context (R412). -/
def fabricEvent (s : State) (code datum : Nat) : State :=
  (kwhere s.contexts fun _ c => c.active).foldl (fun s n =>
    s.postEvent n 5 0xFF 0xFFFF (BitVec.ofNat 32 code) (BitVec.ofNat 32 datum)) s

/-- PLANE_FAILURE (R367, R368 step 1): each entry that names the dead port starts to drain toward its new port. -/
def execPlaneFailure (port : Nat) (s : State) : Out :=
  let s := { s with portUp := s.portUp &&& ~~~(1#18 <<< port) }
  let mine := (List.range 16).filter fun k => s.entryPort k == port
  if mine.isEmpty then .next s
  else
    let s := mine.foldl (fun s k =>
      match s.sparePort k with
      | none => s
      | some p => { s with planeNext := lset s.planeNext k (some p), planeDrain := lset s.planeDrain k true }) s
    .next (fabricEvent s.markShared port 0xFFFFFFFF)

/-- PLANE_DRAIN_DONE (R368): every outstanding request of the fold has been answered or has timed out. -/
def execPlaneDrainDone (entry : Nat) (s : State) : Out :=
  let busy := s.fab.any fun r => r.2.answer.isNone && fold r.2.pa == entry
  match s.planeNext.getD entry none with
  | none => .next s
  | some p =>
    if busy then .next s
    else
      let s := { s with
        planePort := lset s.planePort entry p, planeDrain := lset s.planeDrain entry false
        planeNext := lset s.planeNext entry none }
      let shared := s.planeShared.getD entry false
      .next (fabricEvent (leaseResend s) (p + (if shared then 0x200 else 0x100)) entry)

/-- PORT_UP (R366). -/
def execPortUp (port : Nat) (s : State) : Out := .next { s with portUp := s.portUp ||| (1#18 <<< port) }

end Sys2Proof.Machine
end

