-- ==== Sys2Proof/Machine/LaneCvt.lean ====
section
/-! DEFINITION. Conversions, packing, block quantising, reductions and scans (R135, R136, R140, R159 to R163). -/

namespace Sys2Proof.Machine

/-! ## Type codes (R140) -/

/-- The floating-point format of a type code. -/
def tyFmt : Ty → Option Fmt
  | .f32 => some .f32 | .f16 => some .f16 | .bf16 => some .bf16 | .e5m2 => some .e5m2 | .e4m3 => some .e4m3
  | .e3m2 => some .e3m2 | .e2m3 => some .e2m3 | .e2m1 => some .e2m1
  | .s32 | .n32 | .s16 | .n16 | .s8 | .n8 | .s64 | .n64 => none
/-- Width in bits and signedness of an integer type code. -/
def tyInt : Ty → Nat × Bool
  | .s32 => (32, true) | .n32 => (32, false) | .s16 => (16, true) | .n16 => (16, false) | .s8 => (8, true)
  | .n8 => (8, false) | .s64 => (64, true) | .n64 => (64, false)
  | .f32 | .f16 | .bf16 | .e5m2 | .e4m3 | .e3m2 | .e2m3 | .e2m1 => (32, false)
/-- A type code that occupies a register pair. -/
def tyIs64 : Ty → Bool
  | .s64 | .n64 => true
  | .s32 | .n32 | .s16 | .n16 | .s8 | .n8 | .f32 | .f16 | .bf16 | .e5m2 | .e4m3 | .e3m2 | .e2m3 | .e2m1 => false
/-- The formats of 8 bits or fewer. -/
def tyIsNarrow : Ty → Bool
  | .e5m2 | .e4m3 | .e3m2 | .e2m3 | .e2m1 => true
  | .s64 | .n64 | .s32 | .n32 | .s16 | .n16 | .s8 | .n8 | .f32 | .f16 | .bf16 => false

/-- An integer element of the low bits of a source. -/
def intOf (w : Nat) (signed : Bool) (a : W64) : Int :=
  let n := a.toNat % 2 ^ w
  if signed && decide (2 ^ (w - 1) ≤ n) then (n : Int) - 2 ^ w else n

def clampTo (w : Nat) (signed : Bool) (i : Int) : Int :=
  let lo : Int := if signed then -(2 ^ (w - 1)) else 0
  let hi : Int := if signed then 2 ^ (w - 1) - 1 else 2 ^ w - 1
  max lo (min hi i)

/-- The low w bits of an integer, zero-extended. -/
def lowBits (w : Nat) (i : Int) : W64 := BitVec.ofNat 64 (i % 2 ^ w).toNat

/-- R159: one element converted; the result stands in the low bits of 64, zero above. -/
def cvtVal (dt st : Ty) (md : Rm) (sat : Bool) (a : W64) : W64 × Fl :=
  match tyFmt st, tyFmt dt with
  | some sf, some df =>
    let r := convert df md sat (valOf sf (a.toNat % 2 ^ sf.width))
    (BitVec.ofNat 64 r.1, r.2)
  | some sf, none =>
    let (w, sg) := tyInt dt
    let r := valToInt sg w md (valOf sf (a.toNat % 2 ^ sf.width))
    (lowBits w r.1, r.2)
  | none, some df =>
    let (w, sg) := tyInt st
    let r := convert df md sat (valOfInt (intOf w sg a))
    (BitVec.ofNat 64 r.1, r.2)
  | none, none =>
    let (w, sg) := tyInt st
    let (dw, ds) := tyInt dt
    let i := intOf w sg a
    (lowBits dw (if sat then clampTo dw ds i else i), 0)

/-- CVT (R159). -/
def execCvt (h : LaneHdr) (vd va : Reg) (dt st : Ty) (rmode : Rm) (sat : Bool) (s : State) : Out :=
  let n (t : Ty) : Nat := if tyIs64 t then 2 else 1
  laneOp (.cvt h vd va dt st rmode sat) h [(vd.toNat, n dt), (va.toNat, n st)] notInHandler s fun w x =>
    let src l : W64 := if tyIs64 st then w.vr64 l va.toNat else (w.vr l va.toNat).zeroExtend 64
    let r l := cvtVal dt st rmode sat (src l)
    .done s ((w.setVs vd.toNat (n dt) x fun l k => (r l).1.extractLsb' (32 * k) 32).orFlags (flagsOver x fun l => (r l).2))

/-- R160: the source type that a destination type implies. -/
def packSource (dt : Ty) : Ty :=
  match tyFmt dt with
  | some _ => .f32
  | none => if (tyInt dt).2 then .s32 else .n32

/-- R160: an element, converted as CVT converts it, with RM. DEDUCED, notes/assumptions/156.md. -/
def packElem (dt : Ty) (md : Rm) (sat : Bool) (a : W32) : W64 × Fl := cvtVal dt (packSource dt) md sat (a.zeroExtend 64)

/-- PACK2 (R160). -/
def execPack2 (h : LaneHdr) (vd va vb : Reg) (dt : Ty) (rmode : Rm) (sat : Bool) (s : State) : Out :=
  let i : Instr := .pack2 h vd va vb dt rmode sat
  laneOp i h [(vd.toNat, 1), (va.toNat, 1), (vb.toNat, 1)] notInHandler s fun w x =>
    if !dt.is16 then (if x = 0 then .done s w else .trap ⟨.fmt, 0, x, extWord i⟩)
    else
      let lo l := packElem dt rmode sat (w.vr l va.toNat)
      let hi l := packElem dt rmode sat (w.vr l vb.toNat)
      .done s ((w.setV vd.toNat x fun l => (hi l).1.extractLsb' 0 16 ++ (lo l).1.extractLsb' 0 16).orFlags
        (flagsOver x fun l => (lo l).2 ||| (hi l).2))

/-- R160: the destination types of PACK4. -/
def pack4Ok : Ty → Bool
  | .s8 | .n8 | .e5m2 | .e4m3 | .e3m2 | .e2m3 | .e2m1 => true
  | .s64 | .n64 | .s32 | .n32 | .s16 | .n16 | .f32 | .f16 | .bf16 => false

/-- PACK4 (R160). -/
def execPack4 (h : LaneHdr) (vd va : Reg) (dt : Ty) (rmode : Rm) (sat : Bool) (s : State) : Out :=
  let i : Instr := .pack4 h vd va dt rmode sat
  laneOp i h [(vd.toNat, 1), (va.toNat, 4)] notInHandler s fun w x =>
    if !pack4Ok dt then (if x = 0 then .done s w else .trap ⟨.fmt, 0, x, extWord i⟩)
    else
      let e l k := packElem dt rmode sat (w.vr l (va.toNat + k))
      let byte l k : Byte := (e l k).1.extractLsb' 0 8
      .done s ((w.setV vd.toNat x fun l => byte l 3 ++ byte l 2 ++ byte l 1 ++ byte l 0).orFlags
        (flagsOver x fun l => (e l 0).2 ||| (e l 1).2 ||| (e l 2).2 ||| (e l 3).2))

/-- R161: the source types of UNPACK. -/
def unpackOk : Ty → Bool
  | .s16 | .n16 | .s8 | .n8 | .f16 | .bf16 | .e5m2 | .e4m3 | .e3m2 | .e2m3 | .e2m1 => true
  | .s64 | .n64 | .s32 | .n32 | .f32 => false

/-- R161: element I of a register, widened. -/
def unpackVal (st : Ty) (idx : Nat) (a : W32) : W32 × Fl :=
  let ew := if st.is16 then 16 else 8
  let e : W64 := BitVec.ofNat 64 (a.toNat / 2 ^ (ew * idx) % 2 ^ ew)
  match tyFmt st with
  | some f =>
    let r := convert .f32 .rn false (valOf f (e.toNat % 2 ^ f.width))
    (BitVec.ofNat 32 r.1, r.2)
  | none => (BitVec.ofInt 32 (intOf (tyInt st).1 (tyInt st).2 e), 0)

/-- UNPACK (R161). -/
def execUnpack (h : LaneHdr) (vd va : Reg) (idx : BitVec 2) (st : Ty) (s : State) : Out :=
  let i : Instr := .unpack h vd va idx st
  laneOp i h [(vd.toNat, 1), (va.toNat, 1)] notInHandler s fun w x =>
    if !unpackOk st then (if x = 0 then .done s w else .trap ⟨.fmt, 0, x, extWord i⟩)
    else
      let r l := unpackVal st idx.toNat (w.vr l va.toNat)
      .done s ((w.setV vd.toNat x fun l => (r l).1).orFlags (flagsOver x fun l => (r l).2))

/-- R162: the lanes of X in the group of eight that holds lane l. -/
def qbGroup (x : LaneMask) (l : Nat) : List Nat := (lanesOf x).filter fun j => j / 8 == l / 8

/-- R162: the code and delta of lane l. -/
def qbVal (f : Fmt) (x : LaneMask) (va vb : Nat → W32) (l : Nat) : W32 × Fl :=
  let g := qbGroup x l
  let base : Int := ((vb (g.headD 0)).extractLsb' 0 8).toInt
  let d := groupDelta f base (g.map fun j => valOf .f32 (va j).toNat)
  let r := quantise f base d (valOf .f32 (va l).toNat)
  (BitVec.ofNat 32 (r.1 + d * 256), r.2)

/-- QB8 (R162). -/
def execQb8 (h : LaneHdr) (vd va vb : Reg) (dt : Ty) (s : State) : Out :=
  let i : Instr := .qb8 h vd va vb dt
  laneOp i h [(vd.toNat, 1), (va.toNat, 1), (vb.toNat, 1)] notInHandler s fun w x =>
    match if tyIsNarrow dt then tyFmt dt else none with
    | none => if x = 0 then .done s w else .trap ⟨.fmt, 0, x, extWord i⟩
    | some f =>
      let r := qbVal f x (fun l => w.vr l va.toNat) fun l => w.vr l vb.toNat
      .done s ((w.setV vd.toNat x fun l => (r l).1).orFlags (flagsOver x fun l => (r l).2))

/-! ## Reductions and scans (R135, R136, R163) -/

/-- R135: a node. -/
def redOp (op : RedOp) (a b : W32) : W32 × Fl :=
  let fp (r : Nat × Fl) : W32 × Fl := (BitVec.ofNat 32 r.1, r.2)
  match op with
  | .add => (a + b, 0)
  | .min => (if b.toInt < a.toInt then b else a, 0)
  | .max => (if a.toInt < b.toInt then b else a, 0)
  | .minn => (if b.toNat < a.toNat then b else a, 0)
  | .maxn => (if a.toNat < b.toNat then b else a, 0)
  | .and => (a &&& b, 0)
  | .or => (a ||| b, 0)
  | .xor => (a ^^^ b, 0)
  | .fadd => fp (fpAdd .f32 a.toNat b.toNat)
  | .fmin => fp (fpMin .f32 a.toNat b.toNat)
  | .fmax => fp (fpMax .f32 a.toNat b.toNat)

/-- R135: the identity. -/
def redId : RedOp → W32
  | .add => 0 | .min => 0x7FFFFFFF | .max => 0x80000000 | .minn => 0xFFFFFFFF | .maxn => 0 | .and => 0xFFFFFFFF
  | .or => 0 | .xor => 0 | .fadd => 0x80000000 | .fmin => 0x7F800000 | .fmax => 0xFF800000

/-- One level of the tree from the level below, with the flags of its nodes. -/
def redLevel (op : RedOp) : List W32 → List W32 × Fl
  | a :: b :: r =>
    let (v, f) := redOp op a b
    let (vs, fs) := redLevel op r
    (v :: vs, f ||| fs)
  | _ => ([], 0)

/-- The levels t[0] to t[5] of the tree, and the union of the flags. DESIGN CHOICE, notes/assumptions/123.md: where all 32
lanes execute an fmin or fmax and every value is a NaN, the result is what the tree's own rule for two NaNs gives. -/
def redTree (op : RedOp) : Nat → List W32 → List (List W32) × Fl
  | 0, l => ([l], 0)
  | n + 1, l =>
    let (up, f) := redLevel op l
    let (ls, fs) := redTree op n up
    (l :: ls, f ||| fs)

/-- The leaves of the tree: the executing lanes' values, identities elsewhere. -/
def redLeaves (op : RedOp) (x : LaneMask) (v : Nat → W32) : List W32 := tab 32 fun l => if laneBit x l then v l else redId op

/-- R136: the prefix of the first n positions, by blocks from bit 5 down. A prefix of one position is that operand itself,
a NaN with its sign and payload among them. DEDUCED, notes/assumptions/155.md. -/
def scanGo (op : RedOp) (t : List (List W32)) (n : Nat) : Nat → Nat → Option W32 → Fl → W32 × Fl
  | 0, start, acc, f =>
    if n % 2 == 1 then
      let b := (t.getD 0 []).getD start 0
      match acc with
      | none => (b, f)
      | some a => let r := redOp op a b; (r.1, f ||| r.2)
    else (acc.getD 0, f)
  | k + 1, start, acc, f =>
    if n / 2 ^ (k + 1) % 2 == 1 then
      let b := (t.getD (k + 1) []).getD (start / 2 ^ (k + 1)) 0
      match acc with
      | none => scanGo op t n k (start + 2 ^ (k + 1)) (some b) f
      | some a => let r := redOp op a b; scanGo op t n k (start + 2 ^ (k + 1)) (some r.1) (f ||| r.2)
    else scanGo op t n k start acc f

/-- R136: inclusive[l]. -/
def scanIncl (op : RedOp) (t : List (List W32)) (l : Nat) : W32 × Fl := scanGo op t (l + 1) 5 0 none 0

/-- REDUCE (R135, R163). -/
def execReduce (h : LaneHdr) (vd va : Reg) (opc : RedOp) (s : State) : Out :=
  laneOp (.reduce h vd va opc) h [(vd.toNat, 1), (va.toNat, 1)] notInHandler s fun w x =>
    let t := redTree opc 5 (redLeaves opc x fun l => w.vr l va.toNat)
    .done s ((w.setV vd.toNat x fun _ => (t.1.getD 5 []).getD 0 0).orFlags t.2)

/-- SCAN (R136, R163). -/
def execScan (h : LaneHdr) (vd va : Reg) (exc : Bool) (opc : RedOp) (s : State) : Out :=
  laneOp (.scan h vd va exc opc) h [(vd.toNat, 1), (va.toNat, 1)] notInHandler s fun w x =>
    let t := redTree opc 5 (redLeaves opc x fun l => w.vr l va.toNat)
    let incl l := (scanIncl opc t.1 l).1
    let fl l := (scanIncl opc t.1 l).2 ||| (if exc && decide (0 < l) then (scanIncl opc t.1 (l - 1)).2 else 0)
    .done s ((w.setV vd.toNat x fun l => if exc then (if l = 0 then redId opc else incl (l - 1)) else incl l).orFlags
      (t.2 ||| flagsOver x fl))

end Sys2Proof.Machine
end

