-- ==== Sys2Proof/Machine/Fun.lean ====
section
/-! DEFINITION. The correctly rounded functions of R157, computed in integers. Quotients and roots are exact to a
sticky bit. The transcendental functions are enclosed between two integers at a binary scale that is refined until both
ends round to the same code and flags. -/

namespace Sys2Proof.Machine

/-- floor(π × 2^1280). -/
def piC : Nat := 0x3243f6a8885a308d313198a2e03707344a4093822299f31d0082efa98ec4e6c89452821e638d01377be5466cf34e90c6cc0ac29b7c97c50dd3f84d5b5b54709179216d5d98979fb1bd1310ba698dfb5ac2ffd72dbd01adfb7b8e1afed6a267e96ba7c9045f12c7f9924a19947b3916cf70801f2e2858efc16636920d871574e69a458fea3f4933d7e0d95748f728eb658718bcd5882154aee7b54a41dc25a59b5
/-- floor(ln 2 × 2^1280). -/
def ln2C : Nat := 0xb17217f7d1cf79abc9e3b39803f2f6af40f343267298b62d8a0d175b8baafa2be7b876206debac98559552fb4afa1b10ed2eae35c138214427573b291169b8253e96ca16224ae8c51acbda11317c387eb9ea9bc3b136603b256fa0ec7657f74b72ce87b19d6548caf5dfa6bd38303248655fa1872f20e3a2da2d97c50f3fd5c607f4ca11fb5bfb90610d30f88fe551a2ee569d6dfc1efa157d2e23de1400b396

/-- The integer part of a square root, by bits from the top. -/
def isqrtGo : Nat → Nat → Nat → Nat
  | 0, _, r => r
  | n + 1, x, r =>
    let t := r + 2 ^ n
    isqrtGo n x (if t * t ≤ x then t else r)

def isqrt (x : Nat) : Nat := isqrtGo (Nat.log2 x / 2 + 1) x 0

/-- An exact value, or one strictly above m × 2^e and below (m + 1) × 2^e, as a value that rounds alike: a sticky bit
stands below. -/
def sticky (neg : Bool) (m : Nat) (e : Int) (inexact : Bool) : Val :=
  .fin neg (2 * m + (if inexact then 1 else 0)) (e - 1)

/-- The quotient of two nonzero finite magnitudes, to at least 80 bits and a sticky bit. -/
def finDiv (neg : Bool) (m1 : Nat) (e1 : Int) (m2 : Nat) (e2 : Int) : Val :=
  let s := 80 + Nat.log2 m2
  let n := m1 * 2 ^ s
  sticky neg (n / m2) (e1 - e2 - s) (n % m2 != 0)

/-- FDIV (R157). -/
def vDiv (a b : Val) : Val × Fl :=
  let sg := flIf (a.isSig || b.isSig) flNV
  match a, b with
  | .nan _ _, _ | _, .nan _ _ => (Val.qnan, sg)
  | .inf _, .inf _ => (Val.qnan, flNV)
  | .inf n, .fin k _ _ => (.inf (n != k), 0)
  | .fin n _ _, .inf k => (.fin (n != k) 0 0, 0)
  | .fin n1 m1 e1, .fin n2 m2 e2 =>
    if m2 == 0 then (if m1 == 0 then (Val.qnan, flNV) else (.inf (n1 != n2), flDZ))
    else if m1 == 0 then (.fin (n1 != n2) 0 0, 0)
    else (finDiv (n1 != n2) m1 e1 m2 e2, 0)

def fpDiv (a b : Nat) : Nat × Fl := finishFp .f32 (vDiv (valOf .f32 a) (valOf .f32 b))

/-- FRCP (R157): 1 / a. -/
def fpRcp (a : Nat) : Nat × Fl := finishFp .f32 (vDiv (.fin false 1 0) (valOf .f32 a))

/-- The root of a positive finite value, to a sticky bit. -/
def finSqrt (m : Nat) (e : Int) : Val :=
  let e' := if e % 2 == 0 then e - 160 else e - 161
  let x := m * 2 ^ (e - e').toNat
  let r := isqrt x
  sticky false r (e' / 2) (r * r != x)

/-- FSQRT (R157). -/
def fpSqrt (a : Nat) : Nat × Fl :=
  match valOf .f32 a with
  | .nan _ sig => (Fmt.canonNaN .f32, flIf sig flNV)
  | .inf neg => if neg then (Fmt.canonNaN .f32, flNV) else (a, 0)
  | .fin neg m e =>
    if m == 0 then (a, 0) else if neg then (Fmt.canonNaN .f32, flNV) else roundNE .f32 (finSqrt m e)

/-- FRSQ (R157): the root of 2^s / m, exact when its square times m is the power of two. -/
def fpRsq (a : Nat) : Nat × Fl :=
  match valOf .f32 a with
  | .nan _ sig => (Fmt.canonNaN .f32, flIf sig flNV)
  | .inf neg => if neg then (Fmt.canonNaN .f32, flNV) else (0, 0)
  | .fin neg m e =>
    if m == 0 then (Fmt.code .f32 neg (Fmt.infCode .f32), flDZ)
    else if neg then (Fmt.canonNaN .f32, flNV)
    else
      let s : Nat := if e % 2 == 0 then 300 else 301
      let x := 2 ^ s / m
      let r := isqrt x
      roundNE .f32 (sticky false r ((-e - s) / 2) (r * r * m != 2 ^ s))

/-! ## Transcendental functions -/

/-- A nonnegative real strictly between lo × 2^(−p) and hi × 2^(−p). -/
structure Encl where
  lo : Nat
  hi : Nat
  p : Nat

/-- Rounds when both ends round alike; at the last level the low end is taken. -/
def Encl.round (neg : Bool) (x : Encl) (last : Bool) : Option (Nat × Fl) :=
  let a := roundNE .f32 (sticky neg x.lo (-(x.p : Int)) true)
  let b := roundNE .f32 (sticky neg (x.hi - 1) (-(x.p : Int)) true)
  if last || (a.1 == b.1 && a.2 == b.2) then some a else none

/-- Tries the precisions of a list in turn. -/
def ziv (f : Nat → Bool × Encl) : List Nat → Nat × Fl
  | [] => (Fmt.canonNaN .f32, 0)
  | p :: ps =>
    let (neg, x) := f p
    match x.round neg ps.isEmpty with
    | some r => r
    | none => ziv f ps

def precs : List Nat := [112, 200, 320]

/-- The sum of a power series at scale 2^p: term, then the next by a ratio x2 / (d (d + 1)), with alternating signs when
alt holds. Each quotient is floored. -/
def seriesGo (alt : Bool) (x2 p : Nat) : Nat → Nat → Nat → Int → Bool → Int
  | 0, _, _, acc, _ => acc
  | n + 1, d, t, acc, minus =>
    if t == 0 then acc
    else seriesGo alt x2 p n (d + 2) (t * x2 / 2 ^ p / (d * (d + 1))) (acc + (if minus then -(t : Int) else t)) (alt != minus)

/-- sin r at scale 2^p for 0 ≤ r < 2, r given at that scale. -/
def sinS (p r : Nat) : Nat := (seriesGo true (r * r / 2 ^ p) p 200 2 r 0 false).toNat
/-- cos r at scale 2^p for 0 ≤ r < 2. -/
def cosS (p r : Nat) : Nat := (seriesGo true (r * r / 2 ^ p) p 200 1 (2 ^ p) 0 false).toNat

/-- e^r at scale 2^p for 0 ≤ r < 1: r^n / n! summed. -/
def expGo (p r : Nat) : Nat → Nat → Nat → Nat → Nat
  | 0, _, _, acc => acc
  | n + 1, k, t, acc => if t == 0 then acc else expGo p r n (k + 1) (t * r / 2 ^ p / (k + 1)) (acc + t)

def expS (p r : Nat) : Nat := expGo p r 300 0 (2 ^ p) 0

/-- atanh z at scale 2^p for 0 ≤ z < 1/2. -/
def atanhGo (z2 p : Nat) : Nat → Nat → Nat → Nat → Nat
  | 0, _, _, acc => acc
  | n + 1, k, t, acc => if t == 0 then acc else atanhGo z2 p n (k + 2) (t * z2 / 2 ^ p) (acc + t / k)

def atanhS (p z : Nat) : Nat := atanhGo (z * z / 2 ^ p) p 400 1 z 0

/-- The slack, in units of the working scale, that covers the floored operations of a series. -/
def slack : Nat := 2 ^ 12

def around (v p : Nat) : Encl := ⟨v - slack, v + slack, p⟩

/-- The scaled magnitude m × 2^e at 2^p, floored. -/
def atScale (m : Nat) (e : Int) (p : Nat) : Nat :=
  let k := e + p
  if 0 ≤ k then m * 2 ^ k.toNat else m / 2 ^ (-k).toNat

/-- Extra scale for a small argument, so that the precision is relative to it. -/
def smallExtra (m : Nat) (e : Int) : Nat := (-(floorLog2 m e)).toNat

/-- |sin x| or |cos x| and the sign, by reduction modulo π / 2 (q is the quadrant of a nonnegative x). -/
def trigAt (wantCos neg : Bool) (m : Nat) (e : Int) (p0 : Nat) : Bool × Encl :=
  let p := p0 + smallExtra m e
  let big := p + 150
  let half := piC / 2 ^ (1281 - big)
  let x := atScale m e big
  let q := x / half
  let r := (x - q * half) / 2 ^ 150
  let odd := q % 2 == 1
  let v := if odd != wantCos then cosS p r else sinS p r
  let upper := if wantCos then (q % 4 == 1 || q % 4 == 2) else (q % 4 == 2 || q % 4 == 3)
  (if wantCos then upper else neg != upper, around v p)

/-- FSIN and FCOS (R157). -/
def fpTrig (wantCos : Bool) (a : Nat) : Nat × Fl :=
  match valOf .f32 a with
  | .nan _ sig => (Fmt.canonNaN .f32, flIf sig flNV)
  | .inf _ => (Fmt.canonNaN .f32, flNV)
  | .fin neg m e =>
    if m == 0 then (if wantCos then 0x3F800000 else a, 0)
    else ziv (trigAt wantCos neg m e) precs

/-- 2^x at scale 2^p, x = n + f with 0 ≤ f < 1: (e^(f ln 2)) × 2^n. -/
def exp2At (neg : Bool) (m : Nat) (e : Int) (p : Nat) : Bool × Encl :=
  let x := atScale m e (p + 8)
  let one := 2 ^ (p + 8)
  let up := x / one
  let fr := x % one
  let (n, f) : Int × Nat := if neg then (if fr == 0 then (-(up : Int), 0) else (-(up : Int) - 1, one - fr)) else ((up : Int), fr)
  let v := expS p (f * (ln2C / 2 ^ (1280 - p)) / one)
  if 0 ≤ n then (false, ⟨(v - slack) * 2 ^ n.toNat, (v + slack) * 2 ^ n.toNat, p⟩)
  else (false, ⟨v - slack, v + slack, p + (-n).toNat⟩)

/-- FEXP2 (R157): an integral argument gives an exact power. -/
def fpExp2 (a : Nat) : Nat × Fl :=
  match valOf .f32 a with
  | .nan _ sig => (Fmt.canonNaN .f32, flIf sig flNV)
  | .inf neg => if neg then (0, 0) else (a, 0)
  | .fin neg m e =>
    if m == 0 then (0x3F800000, 0)
    else if 9 ≤ floorLog2 m e then roundNE .f32 (.fin false 1 (if neg then -400 else 400))
    else
      let (i, ix) := integralMag .rz neg m e
      if !ix then roundNE .f32 (.fin false 1 (sgn neg i)) else ziv (exp2At neg m e) precs

/-- |log2 x| at scale 2^p: k + 2 atanh((y − 1) / (y + 1)) / ln 2 with x = y × 2^k, 1 ≤ y < 2. -/
def log2At (m : Nat) (e : Int) (p : Nat) : Bool × Encl :=
  let lg := Nat.log2 m
  let k : Int := (lg : Int) + e
  let z := (m - 2 ^ lg) * 2 ^ p / (m + 2 ^ lg)
  let ln := 2 * atanhS p z
  let frac := ln * 2 ^ p / (ln2C / 2 ^ (1280 - p))
  let v : Int := k * 2 ^ p + frac
  (decide (v < 0), around v.natAbs p)

/-- FLOG2 (R157): a power of two gives an exact integer. -/
def fpLog2 (a : Nat) : Nat × Fl :=
  match valOf .f32 a with
  | .nan _ sig => (Fmt.canonNaN .f32, flIf sig flNV)
  | .inf neg => if neg then (Fmt.canonNaN .f32, flNV) else (a, 0)
  | .fin neg m e =>
    if m == 0 then (Fmt.code .f32 true (Fmt.infCode .f32), flDZ)
    else if neg then (Fmt.canonNaN .f32, flNV)
    else if m == 2 ^ Nat.log2 m then roundNE .f32 (valOfInt (floorLog2 m e))
    else ziv (log2At m e) precs

/-- e^x at scale 2^p for a nonnegative x at that scale, by x = n ln 2 + r. -/
def expAt (p x : Nat) : Nat :=
  let l2 := ln2C / 2 ^ (1280 - p)
  let n := x / l2
  expS p (x - n * l2) * 2 ^ n

/-- tanh |x| = (e^(2|x|) − 1) / (e^(2|x|) + 1). -/
def tanhAt (neg : Bool) (m : Nat) (e : Int) (p0 : Nat) : Bool × Encl :=
  let p := p0 + smallExtra m e
  let t := expAt p (2 * atScale m e p)
  let v := (t - 2 ^ p) * 2 ^ p / (t + 2 ^ p)
  (neg, around v p)

/-- FTANH (R157). -/
def fpTanh (a : Nat) : Nat × Fl :=
  match valOf .f32 a with
  | .nan _ sig => (Fmt.canonNaN .f32, flIf sig flNV)
  | .inf neg => (Fmt.code .f32 neg 0x3F800000, 0)
  | .fin neg m e =>
    if m == 0 then (a, 0)
    else if 5 ≤ floorLog2 m e then roundNE .f32 (sticky neg (2 ^ 80 - 1) (-80) true)
    else ziv (tanhAt neg m e) precs

end Sys2Proof.Machine
end

