-- ==== Sys2Proof/Machine/LaneFp.lean ====
section
/-! DEFINITION. FP32 words and the packed FP16 and BF16 words (R153 to R158). -/

namespace Sys2Proof.Machine

/-- An f32 operation on codes, as words. -/
def f32op1 (f : Nat → Nat × Fl) (a : W32) : W32 × Fl :=
  let r := f a.toNat
  (BitVec.ofNat 32 r.1, r.2)
def f32op2 (f : Nat → Nat → Nat × Fl) (a b : W32) : W32 × Fl :=
  let r := f a.toNat b.toNat
  (BitVec.ofNat 32 r.1, r.2)
def f32op3 (f : Nat → Nat → Nat → Nat × Fl) (a b c : W32) : W32 × Fl :=
  let r := f a.toNat b.toNat c.toNat
  (BitVec.ofNat 32 r.1, r.2)

/-- Element k of a packed pair (R123). -/
def half (k : Nat) (a : W32) : Nat := (a.extractLsb' (16 * k) 16).toNat
/-- A packed pair from two codes, with the union of their flags (R158). -/
def packHalves (lo hi : Nat × Fl) : W32 × Fl := (BitVec.ofNat 16 hi.1 ++ BitVec.ofNat 16 lo.1, lo.2 ||| hi.2)

/-- R158: a two-operand operation on both elements. -/
def half2 (f : Nat → Nat → Nat × Fl) (a b : W32) : W32 × Fl :=
  packHalves (f (half 0 a) (half 0 b)) (f (half 1 a) (half 1 b))
/-- R158: a three-operand operation on both elements. -/
def half3 (f : Nat → Nat → Nat → Nat × Fl) (a b c : W32) : W32 × Fl :=
  packHalves (f (half 0 a) (half 0 b) (half 0 c)) (f (half 1 a) (half 1 b) (half 1 c))

/-- R156: the sign cleared or flipped; a NaN gives the canonical NaN; no flag. -/
def fpSign (flip : Bool) (a : W32) : W32 :=
  if (valOf .f32 a.toNat).isNaN then 0x7FC00000
  else if flip then a ^^^ 0x80000000 else a &&& 0x7FFFFFFF

/-- FADD (R153, R154). -/
def execFadd (h : LaneHdr) (vd va vb : Reg) (s : State) : Out :=
  lane2 (.fadd h vd va vb) h vd va vb (f32op2 (fpAdd .f32)) s

/-- FSUB (R153, R154). -/
def execFsub (h : LaneHdr) (vd va vb : Reg) (s : State) : Out :=
  lane2 (.fsub h vd va vb) h vd va vb (f32op2 (fpSub .f32)) s

/-- FMUL (R153, R154). -/
def execFmul (h : LaneHdr) (vd va vb : Reg) (s : State) : Out :=
  lane2 (.fmul h vd va vb) h vd va vb (f32op2 (fpMul .f32)) s

/-- FMIN (R155). -/
def execFmin (h : LaneHdr) (vd va vb : Reg) (s : State) : Out :=
  lane2 (.fmin h vd va vb) h vd va vb (f32op2 (fpMin .f32)) s

/-- FMAX (R155). -/
def execFmax (h : LaneHdr) (vd va vb : Reg) (s : State) : Out :=
  lane2 (.fmax h vd va vb) h vd va vb (f32op2 (fpMax .f32)) s

/-- FDIV (R157). -/
def execFdiv (h : LaneHdr) (vd va vb : Reg) (s : State) : Out :=
  lane2 (.fdiv h vd va vb) h vd va vb (f32op2 fpDiv) s

/-- FFMA (R153 to R155). -/
def execFfma (h : LaneHdr) (vd va vb vc : Reg) (s : State) : Out :=
  lane3 (.ffma h vd va vb vc) h vd va vb vc (f32op3 (fpFma .f32)) s

/-- FMED3 (R153 to R155). -/
def execFmed3 (h : LaneHdr) (vd va vb vc : Reg) (s : State) : Out :=
  lane3 (.fmed3 h vd va vb vc) h vd va vb vc (f32op3 (fpMed3 .f32)) s

/-- FCLAMP (R153 to R155). -/
def execFclamp (h : LaneHdr) (vd va vb vc : Reg) (s : State) : Out :=
  lane3 (.fclamp h vd va vb vc) h vd va vb vc (f32op3 (fpClamp .f32)) s

/-- FABS (R156). -/
def execFabs (h : LaneHdr) (vd va : Reg) (s : State) : Out :=
  lane1 (.fabs h vd va) h vd va (fun a => (fpSign false a, 0)) s

/-- FNEG (R156). -/
def execFneg (h : LaneHdr) (vd va : Reg) (s : State) : Out :=
  lane1 (.fneg h vd va) h vd va (fun a => (fpSign true a, 0)) s

/-- FRCP (R157). -/
def execFrcp (h : LaneHdr) (vd va : Reg) (s : State) : Out :=
  lane1 (.frcp h vd va) h vd va (f32op1 fpRcp) s

/-- FRSQ (R157). -/
def execFrsq (h : LaneHdr) (vd va : Reg) (s : State) : Out :=
  lane1 (.frsq h vd va) h vd va (f32op1 fpRsq) s

/-- FSQRT (R157). -/
def execFsqrt (h : LaneHdr) (vd va : Reg) (s : State) : Out :=
  lane1 (.fsqrt h vd va) h vd va (f32op1 fpSqrt) s

/-- FEXP2 (R157). -/
def execFexp2 (h : LaneHdr) (vd va : Reg) (s : State) : Out :=
  lane1 (.fexp2 h vd va) h vd va (f32op1 fpExp2) s

/-- FLOG2 (R157). -/
def execFlog2 (h : LaneHdr) (vd va : Reg) (s : State) : Out :=
  lane1 (.flog2 h vd va) h vd va (f32op1 fpLog2) s

/-- FSIN (R157). -/
def execFsin (h : LaneHdr) (vd va : Reg) (s : State) : Out :=
  lane1 (.fsin h vd va) h vd va (f32op1 (fpTrig false)) s

/-- FCOS (R157). -/
def execFcos (h : LaneHdr) (vd va : Reg) (s : State) : Out :=
  lane1 (.fcos h vd va) h vd va (f32op1 (fpTrig true)) s

/-- FTANH (R157). -/
def execFtanh (h : LaneHdr) (vd va : Reg) (s : State) : Out :=
  lane1 (.ftanh h vd va) h vd va (f32op1 fpTanh) s

/-- FRND (R156). -/
def execFrnd (h : LaneHdr) (vd va : Reg) (rmode : Rm) (s : State) : Out :=
  lane1 (.frnd h vd va rmode) h vd va (f32op1 (fpRound rmode)) s

/-- FCLASS (R156). -/
def execFclass (h : LaneHdr) (vd va : Reg) (pd : BitVec 3) (mask : BitVec 10) (s : State) : Out :=
  laneOp (.fclass h vd va pd mask) h [(vd.toNat, 1), (va.toNat, 1)] notInHandler s fun w x =>
    let c l := fpClass (w.vr l va.toNat).toNat
    .done s ((w.setV vd.toNat x fun l => BitVec.ofNat 32 (2 ^ c l)).setP pd.toNat x fun l => mask.getLsbD (c l))

/-- HADD2 (R158). -/
def execHadd2 (h : LaneHdr) (vd va vb : Reg) (s : State) : Out :=
  lane2 (.hadd2 h vd va vb) h vd va vb (half2 (fpAdd .f16)) s

/-- HSUB2 (R158). -/
def execHsub2 (h : LaneHdr) (vd va vb : Reg) (s : State) : Out :=
  lane2 (.hsub2 h vd va vb) h vd va vb (half2 (fpSub .f16)) s

/-- HMUL2 (R158). -/
def execHmul2 (h : LaneHdr) (vd va vb : Reg) (s : State) : Out :=
  lane2 (.hmul2 h vd va vb) h vd va vb (half2 (fpMul .f16)) s

/-- HMIN2 (R158). -/
def execHmin2 (h : LaneHdr) (vd va vb : Reg) (s : State) : Out :=
  lane2 (.hmin2 h vd va vb) h vd va vb (half2 (fpMin .f16)) s

/-- HMAX2 (R158). -/
def execHmax2 (h : LaneHdr) (vd va vb : Reg) (s : State) : Out :=
  lane2 (.hmax2 h vd va vb) h vd va vb (half2 (fpMax .f16)) s

/-- BADD2 (R158). -/
def execBadd2 (h : LaneHdr) (vd va vb : Reg) (s : State) : Out :=
  lane2 (.badd2 h vd va vb) h vd va vb (half2 (fpAdd .bf16)) s

/-- BMUL2 (R158). -/
def execBmul2 (h : LaneHdr) (vd va vb : Reg) (s : State) : Out :=
  lane2 (.bmul2 h vd va vb) h vd va vb (half2 (fpMul .bf16)) s

/-- BMIN2 (R158). -/
def execBmin2 (h : LaneHdr) (vd va vb : Reg) (s : State) : Out :=
  lane2 (.bmin2 h vd va vb) h vd va vb (half2 (fpMin .bf16)) s

/-- BMAX2 (R158). -/
def execBmax2 (h : LaneHdr) (vd va vb : Reg) (s : State) : Out :=
  lane2 (.bmax2 h vd va vb) h vd va vb (half2 (fpMax .bf16)) s

/-- HFMA2 (R158). -/
def execHfma2 (h : LaneHdr) (vd va vb vc : Reg) (s : State) : Out :=
  lane3 (.hfma2 h vd va vb vc) h vd va vb vc (half3 (fpFma .f16)) s

/-- HMED3 (R158). -/
def execHmed3 (h : LaneHdr) (vd va vb vc : Reg) (s : State) : Out :=
  lane3 (.hmed3 h vd va vb vc) h vd va vb vc (half3 (fpMed3 .f16)) s

/-- HCLAMP2 (R158). -/
def execHclamp2 (h : LaneHdr) (vd va vb vc : Reg) (s : State) : Out :=
  lane3 (.hclamp2 h vd va vb vc) h vd va vb vc (half3 (fpClamp .f16)) s

/-- BFMA2 (R158). -/
def execBfma2 (h : LaneHdr) (vd va vb vc : Reg) (s : State) : Out :=
  lane3 (.bfma2 h vd va vb vc) h vd va vb vc (half3 (fpFma .bf16)) s

end Sys2Proof.Machine
end

