-- ==== Sys2Proof/Machine/LaneInt.lean ====
section
/-! DEFINITION. The integer lane words (R144, R145) and the values that the scalar words share with them. -/

namespace Sys2Proof.Machine

/-! ## Values -/

/-- A 32-bit result of exact integer arithmetic (R144: modulo 2^32). -/
def wrap32 (i : Int) : W32 := BitVec.ofInt 32 i

/-- sext24 of R144. -/
def sext24 (a : W32) : Int := (a.extractLsb' 0 24).toInt
/-- Bits [23:0]. -/
def low24 (a : W32) : Nat := (a.extractLsb' 0 24).toNat

/-- R144: the clamp of IADDS and ISUBS. -/
def clampS32 (i : Int) : W32 := wrap32 (max (-(2 ^ 31)) (min (2 ^ 31 - 1) i))

/-- R145: IDIV and SDIV. -/
def sdivVal (a b : W32) : W32 :=
  if b = 0 then (if a.toInt < 0 then 0x80000000 else 0x7FFFFFFF) else wrap32 (a.toInt.tdiv b.toInt)
/-- R145: UDIV and SDIVN. -/
def udivVal (a b : W32) : W32 := if b = 0 then 0xFFFFFFFF else BitVec.ofNat 32 (a.toNat / b.toNat)
/-- R145: IREM, with the sign of the dividend. -/
def sremVal (a b : W32) : W32 := if b = 0 then a else wrap32 (a.toInt.tmod b.toInt)
/-- R145: UREM. -/
def uremVal (a b : W32) : W32 := if b = 0 then a else BitVec.ofNat 32 (a.toNat % b.toNat)

def sminVal (a b : W32) : W32 := if b.toInt < a.toInt then b else a
def smaxVal (a b : W32) : W32 := if a.toInt < b.toInt then b else a
def uminVal (a b : W32) : W32 := if b.toNat < a.toNat then b else a
def umaxVal (a b : W32) : W32 := if a.toNat < b.toNat then b else a

/-- Bits [63:32] of a signed product. -/
def mulhiS (a b : W32) : W32 := wrap32 ((a.toInt * b.toInt) / 2 ^ 32)
/-- Bits [63:32] of an unsigned product. -/
def mulhiU (a b : W32) : W32 := BitVec.ofNat 32 (a.toNat * b.toNat / 2 ^ 32)

/-! ## Words -/

/-- IADD (R144). -/
def execIadd (h : LaneHdr) (vd va vb : Reg) (s : State) : Out :=
  lane2 (.iadd h vd va vb) h vd va vb (fun a b => (a + b, 0)) s

/-- ISUB (R144). -/
def execIsub (h : LaneHdr) (vd va vb : Reg) (s : State) : Out :=
  lane2 (.isub h vd va vb) h vd va vb (fun a b => (a - b, 0)) s

/-- IABSD (R144). -/
def execIabsd (h : LaneHdr) (vd va vb : Reg) (s : State) : Out :=
  lane2 (.iabsd h vd va vb) h vd va vb (fun a b => (wrap32 ((a.toInt - b.toInt).natAbs : Int), 0)) s

/-- IMIN (R144). -/
def execImin (h : LaneHdr) (vd va vb : Reg) (s : State) : Out :=
  lane2 (.imin h vd va vb) h vd va vb (fun a b => (sminVal a b, 0)) s

/-- IMAX (R144). -/
def execImax (h : LaneHdr) (vd va vb : Reg) (s : State) : Out :=
  lane2 (.imax h vd va vb) h vd va vb (fun a b => (smaxVal a b, 0)) s

/-- UMIN (R144). -/
def execUmin (h : LaneHdr) (vd va vb : Reg) (s : State) : Out :=
  lane2 (.umin h vd va vb) h vd va vb (fun a b => (uminVal a b, 0)) s

/-- UMAX (R144). -/
def execUmax (h : LaneHdr) (vd va vb : Reg) (s : State) : Out :=
  lane2 (.umax h vd va vb) h vd va vb (fun a b => (umaxVal a b, 0)) s

/-- IMUL24 (R144). -/
def execImul24 (h : LaneHdr) (vd va vb : Reg) (s : State) : Out :=
  lane2 (.imul24 h vd va vb) h vd va vb (fun a b => (wrap32 (sext24 a * sext24 b), 0)) s

/-- UMUL24 (R144). -/
def execUmul24 (h : LaneHdr) (vd va vb : Reg) (s : State) : Out :=
  lane2 (.umul24 h vd va vb) h vd va vb (fun a b => (BitVec.ofNat 32 (low24 a * low24 b), 0)) s

/-- IMUL (R144). -/
def execImul (h : LaneHdr) (vd va vb : Reg) (s : State) : Out :=
  lane2 (.imul h vd va vb) h vd va vb (fun a b => (a * b, 0)) s

/-- IMULHI (R144). -/
def execImulhi (h : LaneHdr) (vd va vb : Reg) (s : State) : Out :=
  lane2 (.imulhi h vd va vb) h vd va vb (fun a b => (mulhiS a b, 0)) s

/-- UMULHI (R144). -/
def execUmulhi (h : LaneHdr) (vd va vb : Reg) (s : State) : Out :=
  lane2 (.umulhi h vd va vb) h vd va vb (fun a b => (mulhiU a b, 0)) s

/-- IDIV (R144, R145). -/
def execIdiv (h : LaneHdr) (vd va vb : Reg) (s : State) : Out :=
  lane2 (.idiv h vd va vb) h vd va vb (fun a b => (sdivVal a b, 0)) s

/-- UDIV (R144, R145). -/
def execUdiv (h : LaneHdr) (vd va vb : Reg) (s : State) : Out :=
  lane2 (.udiv h vd va vb) h vd va vb (fun a b => (udivVal a b, 0)) s

/-- IREM (R144, R145). -/
def execIrem (h : LaneHdr) (vd va vb : Reg) (s : State) : Out :=
  lane2 (.irem h vd va vb) h vd va vb (fun a b => (sremVal a b, 0)) s

/-- UREM (R144, R145). -/
def execUrem (h : LaneHdr) (vd va vb : Reg) (s : State) : Out :=
  lane2 (.urem h vd va vb) h vd va vb (fun a b => (uremVal a b, 0)) s

/-- IADDS (R144). -/
def execIadds (h : LaneHdr) (vd va vb : Reg) (s : State) : Out :=
  lane2 (.iadds h vd va vb) h vd va vb (fun a b => (clampS32 (a.toInt + b.toInt), 0)) s

/-- ISUBS (R144). -/
def execIsubs (h : LaneHdr) (vd va vb : Reg) (s : State) : Out :=
  lane2 (.isubs h vd va vb) h vd va vb (fun a b => (clampS32 (a.toInt - b.toInt), 0)) s

/-- IADDI (R144). -/
def execIaddi (h : LaneHdr) (vd va : Reg) (imm : W32) (s : State) : Out :=
  lane1 (.iaddi h vd va imm) h vd va (fun a => (a + imm, 0)) s

/-- IMAD24 (R144). -/
def execImad24 (h : LaneHdr) (vd va vb vc : Reg) (u : Bool) (s : State) : Out :=
  lane3 (.imad24 h vd va vb vc u) h vd va vb vc
    (fun a b c => ((if u then BitVec.ofNat 32 (low24 a * low24 b) else wrap32 (sext24 a * sext24 b)) + c, 0)) s

/-- IMAD32 (R144). -/
def execImad32 (h : LaneHdr) (vd va vb vc : Reg) (s : State) : Out :=
  lane3 (.imad32 h vd va vb vc) h vd va vb vc (fun a b c => (a * b + c, 0)) s

/-- IADD64 (R144). -/
def execIadd64 (h : LaneHdr) (vd va vb : Reg) (s : State) : Out :=
  lane64 (.iadd64 h vd va vb) h vd va vb (fun a b => a + b) s

/-- ISUB64 (R144). -/
def execIsub64 (h : LaneHdr) (vd va vb : Reg) (s : State) : Out :=
  lane64 (.isub64 h vd va vb) h vd va vb (fun a b => a - b) s

end Sys2Proof.Machine
end

