-- ==== Sys2Proof/Machine/LaneLogic.lean ====
section
/-! DEFINITION. Logic, bit fields, moves, compares and predicates (R146 to R152). -/

namespace Sys2Proof.Machine

/-! ## Values -/

/-- R146: shifts by n32(b). -/
def shlVal (a b : W32) : W32 := if 32 ≤ b.toNat then 0 else a <<< b.toNat
def shrVal (a b : W32) : W32 := if 32 ≤ b.toNat then 0 else a >>> b.toNat
def sarVal (a b : W32) : W32 := a.sshiftRight (min b.toNat 31)

/-- Number of set bits. -/
def popcVal (a : W32) : W32 := BitVec.ofNat 32 (popMask a)
/-- Leading zeros; 32 for 0. -/
def clzVal (a : W32) : W32 := BitVec.ofNat 32 (if a = 0 then 32 else 31 - Nat.log2 a.toNat)
/-- Trailing zeros; 32 for 0. -/
def ctzVal (a : W32) : W32 := BitVec.ofNat 32 ((lanesOf a).headD 32)
def brevVal (a : W32) : W32 := maskOf fun i => a.getLsbD (31 - i)

/-- R147: the width of a field clipped at bit 31. -/
def fieldWidth (len pos : Nat) : Nat := min len (32 - pos)
/-- R147: BFE. -/
def bfeVal (sg : Bool) (len pos : Nat) (a : W32) : W32 :=
  let n := fieldWidth len pos
  let f := a.toNat / 2 ^ pos % 2 ^ n
  if sg && decide (0 < n) && decide (2 ^ (n - 1) ≤ f) then BitVec.ofInt 32 ((f : Int) - 2 ^ n) else BitVec.ofNat 32 f
/-- R147: BFI. -/
def bfiVal (len pos : Nat) (a b : W32) : W32 :=
  let m : W32 := BitVec.ofNat 32 (2 ^ fieldWidth len pos - 1)
  (b &&& ~~~(m <<< pos)) ||| ((a &&& m) <<< pos)

/-- R148: the four result bytes, lowest first, each from the one below it. -/
def prmtVal (sx : BitVec 3) (zm : BitVec 4) (bsel : BitVec 12) (a b : W32) : W32 :=
  let src : W64 := b ++ a
  let pick (k : Nat) : Byte := src.extractLsb' (8 * (bsel.extractLsb' (3 * k) 3).toNat) 8
  let fill (r : Byte) : Byte := if r.msb then 0xFF else 0
  let r0 := if zm.getLsbD 0 then 0 else pick 0
  let r1 := if zm.getLsbD 1 then 0 else if sx.getLsbD 0 then fill r0 else pick 1
  let r2 := if zm.getLsbD 2 then 0 else if sx.getLsbD 1 then fill r1 else pick 2
  let r3 := if zm.getLsbD 3 then 0 else if sx.getLsbD 2 then fill r2 else pick 3
  r3 ++ r2 ++ r1 ++ r0

/-- R146: LOP3. -/
def lop3Val (lut : BitVec 8) (a b c : W32) : W32 :=
  maskOf fun i => lutBit lut (a.getLsbD i) (b.getLsbD i) (c.getLsbD i)

/-- R149: LSPEC. -/
def lspecVal (which pipe l : Nat) : W32 :=
  match which with
  | 0 => BitVec.ofNat 32 l
  | 1 => BitVec.ofNat 32 (2 ^ l)
  | 2 => BitVec.ofNat 32 (2 ^ l - 1)
  | 3 => BitVec.ofNat 32 (2 ^ (l + 1) - 1)
  | 4 => BitVec.ofNat 32 (2 ^ 32 - 2 ^ (l + 1))
  | 5 => BitVec.ofNat 32 (2 ^ 32 - 2 ^ l)
  | _ => BitVec.ofNat 32 pipe

/-! ## Words -/

/-- AND (R146). -/
def execAnd (h : LaneHdr) (vd va vb : Reg) (s : State) : Out :=
  lane2 (.and h vd va vb) h vd va vb (fun a b => (a &&& b, 0)) s

/-- OR (R146). -/
def execOr (h : LaneHdr) (vd va vb : Reg) (s : State) : Out :=
  lane2 (.or h vd va vb) h vd va vb (fun a b => (a ||| b, 0)) s

/-- XOR (R146). -/
def execXor (h : LaneHdr) (vd va vb : Reg) (s : State) : Out :=
  lane2 (.xor h vd va vb) h vd va vb (fun a b => (a ^^^ b, 0)) s

/-- ANDN (R146). -/
def execAndn (h : LaneHdr) (vd va vb : Reg) (s : State) : Out :=
  lane2 (.andn h vd va vb) h vd va vb (fun a b => (a &&& ~~~b, 0)) s

/-- SHL (R146). -/
def execShl (h : LaneHdr) (vd va vb : Reg) (s : State) : Out :=
  lane2 (.shl h vd va vb) h vd va vb (fun a b => (shlVal a b, 0)) s

/-- SHR (R146). -/
def execShr (h : LaneHdr) (vd va vb : Reg) (s : State) : Out :=
  lane2 (.shr h vd va vb) h vd va vb (fun a b => (shrVal a b, 0)) s

/-- SAR (R146). -/
def execSar (h : LaneHdr) (vd va vb : Reg) (s : State) : Out :=
  lane2 (.sar h vd va vb) h vd va vb (fun a b => (sarVal a b, 0)) s

/-- ROTL (R146). -/
def execRotl (h : LaneHdr) (vd va vb : Reg) (s : State) : Out :=
  lane2 (.rotl h vd va vb) h vd va vb (fun a b => (a.rotateLeft (b.toNat % 32), 0)) s

/-- POPC (R146). -/
def execPopc (h : LaneHdr) (vd va : Reg) (s : State) : Out :=
  lane1 (.popc h vd va) h vd va (fun a => (popcVal a, 0)) s

/-- CLZ (R146). -/
def execClz (h : LaneHdr) (vd va : Reg) (s : State) : Out :=
  lane1 (.clz h vd va) h vd va (fun a => (clzVal a, 0)) s

/-- CTZ (R146). -/
def execCtz (h : LaneHdr) (vd va : Reg) (s : State) : Out :=
  lane1 (.ctz h vd va) h vd va (fun a => (ctzVal a, 0)) s

/-- BREV (R146). -/
def execBrev (h : LaneHdr) (vd va : Reg) (s : State) : Out :=
  lane1 (.brev h vd va) h vd va (fun a => (brevVal a, 0)) s

/-- MOV (R146). -/
def execMov (h : LaneHdr) (vd va : Reg) (s : State) : Out :=
  lane1 (.mov h vd va) h vd va (fun a => (a, 0)) s

/-- BFE (R147). -/
def execBfe (h : LaneHdr) (vd va : Reg) (sg : Bool) (len : Reg) (pos : BitVec 5) (s : State) : Out :=
  lane1 (.bfe h vd va sg len pos) h vd va (fun a => (bfeVal sg len.toNat pos.toNat a, 0)) s

/-- BFI (R147). -/
def execBfi (h : LaneHdr) (vd va vb len : Reg) (pos : BitVec 5) (s : State) : Out :=
  lane2 (.bfi h vd va vb len pos) h vd va vb (fun a b => (bfiVal len.toNat pos.toNat a b, 0)) s

/-- PRMT (R148). -/
def execPrmt (h : LaneHdr) (vd va vb : Reg) (sx : BitVec 3) (zm : BitVec 4) (bsel : BitVec 12) (s : State) : Out :=
  lane2 (.prmt h vd va vb sx zm bsel) h vd va vb (fun a b => (prmtVal sx zm bsel a b, 0)) s

/-- LOP3 (R146). -/
def execLop3 (h : LaneHdr) (vd va vb vc : Reg) (lut : BitVec 8) (s : State) : Out :=
  lane3 (.lop3 h vd va vb vc lut) h vd va vb vc (fun a b c => (lop3Val lut a b c, 0)) s

/-- MOVI (R146). -/
def execMovi (h : LaneHdr) (vd : Reg) (imm : W32) (s : State) : Out :=
  laneOp (.movi h vd imm) h [(vd.toNat, 1)] notInHandler s fun w x => .done s (w.setV vd.toNat x fun _ => imm)

/-- SEL (R146). -/
def execSel (h : LaneHdr) (vd va vb : Reg) (psn : Bool) (ps : BitVec 3) (s : State) : Out :=
  laneOp (.sel h vd va vb psn ps) h [(vd.toNat, 1), (va.toNat, 1), (vb.toNat, 1)] notInHandler s fun w x =>
    .done s (w.setV vd.toNat x fun l => if w.pred l ps.toNat != psn then w.vr l va.toNat else w.vr l vb.toNat)

/-- LSPEC (R149). -/
def execLspec (h : LaneHdr) (vd which : Reg) (s : State) : Out :=
  laneOp (.lspec h vd which) h [(vd.toNat, 1)] notInHandler s fun w x =>
    .done s (w.setV vd.toNat x fun l => lspecVal which.toNat w.pipe l)

/-- The two predicate results of a lane compare (R150). -/
def laneCompare (i : Instr) (h : LaneHdr) (va vb : Reg) (psn : Bool) (ps : BitVec 3) (bop : Bop) (pdf pdt : BitVec 3)
    (f : W32 → W32 → Bool × Fl) (s : State) : Out :=
  laneOp i h [(va.toNat, 1), (vb.toNat, 1)] notInHandler s fun w x =>
    let r l := f (w.vr l va.toNat) (w.vr l vb.toNat)
    let c l := w.pred l ps.toNat != psn
    .done s (((w.setP pdt.toNat x fun l => bopApply bop (r l).1 (c l)).setP pdf.toNat x fun l =>
      bopApply bop (!(r l).1) (c l)).orFlags (flagsOver x fun l => (r l).2))

/-- ICMP (R150). -/
def execIcmp (h : LaneHdr) (va vb : Reg) (psn : Bool) (ps : BitVec 3) (bop : Bop) (pdf pdt : BitVec 3) (cond : Cond)
    (s : State) : Out :=
  laneCompare (.icmp h va vb psn ps bop pdf pdt cond) h va vb psn ps bop pdf pdt
    (fun a b => (condInt cond a.toInt b.toInt, 0)) s

/-- UCMP (R150). -/
def execUcmp (h : LaneHdr) (va vb : Reg) (psn : Bool) (ps : BitVec 3) (bop : Bop) (pdf pdt : BitVec 3) (cond : Cond)
    (s : State) : Out :=
  laneCompare (.ucmp h va vb psn ps bop pdf pdt cond) h va vb psn ps bop pdf pdt
    (fun a b => (condInt cond a.toNat b.toNat, 0)) s

/-- FCMP (R150, R151). -/
def execFcmp (h : LaneHdr) (va vb : Reg) (psn : Bool) (ps : BitVec 3) (bop : Bop) (pdf pdt : BitVec 3) (cond : Cond)
    (s : State) : Out :=
  laneCompare (.fcmp h va vb psn ps bop pdf pdt cond) h va vb psn ps bop pdf pdt
    (fun a b => fpCmp cond a.toNat b.toNat) s

/-- PLOP (R152). -/
def execPlop (h : LaneHdr) (pd pa pb pc : BitVec 3) (lut : BitVec 8) (s : State) : Out :=
  laneOp (.plop h pd pa pb pc lut) h [] notInHandler s fun w x =>
    .done s (w.setP pd.toNat x fun l => lutBit lut (w.pred l pa.toNat) (w.pred l pb.toNat) (w.pred l pc.toNat))

/-- P2V (R152). -/
def execP2v (h : LaneHdr) (vd : Reg) (s : State) : Out :=
  laneOp (.p2v h vd) h [(vd.toNat, 1)] notInHandler s fun w x =>
    .done s (w.setV vd.toNat x fun l => maskOf fun i => decide (i < 8) && w.pred l i)

/-- V2P (R152). -/
def execV2p (h : LaneHdr) (va : Reg) (mask : BitVec 7) (s : State) : Out :=
  laneOp (.v2p h va mask) h [(va.toNat, 1)] notInHandler s fun w x =>
    .done s ((List.range 7).foldl
      (fun w' i => if mask.getLsbD i then w'.setP i x fun l => (w.vr l va.toNat).getLsbD i else w') w)

end Sys2Proof.Machine
end

