-- ==== Sys2Proof/Machine/Tables.lean ====
section
/-! DEFINITION. Activation tables (R164 to R167) and the warp words that read memory or the walk while the warp waits: BRX
(R78) and TIERQ (R381). -/

namespace Sys2Proof.Machine

/-! ## The activation store (R164) -/

/-- The admission order of a team. -/
def State.admitted (s : State) (tid : Nat) : Nat := ((s.team? tid).map (·.admitOrder)).getD 0

/-- The warp waits for its core's store, and may take it. -/
def State.waitsForStore (s : State) (core : Nat) (w : Warp) : Bool :=
  w.core == core && (w.wait.any fun x => x.kind == .actStore)
    && (s.team? w.team).any fun t => t.halted.isNone && !t.preempting

/-- Another team that waits for the store of a core was admitted earlier. -/
def State.earlierWaiter (s : State) (core tid : Nat) : Bool :=
  s.warps.any fun e => s.waitsForStore core e.2 && e.2.team != tid && decide (s.admitted e.2.team < s.admitted tid)

/-- R164: the warp's team takes its core's free store: both banks zero and bank 0 active, or as its frame has saved them. What
the banks held before is gone, errors and all. -/
def acquireStore (s : State) (w : Warp) : State :=
  match s.team? w.team with
  | none => s
  | some t =>
    let c := s.core w.core
    let a := kget t.savedAct w.part ⟨none, [], [], 0, none⟩
    let s := (s.setCore w.core { c with act := { a with holder := some w.team, before := none } }).setTeam w.team
      { t with savedAct := kdel t.savedAct w.part }
    if s.bad.isEmpty then s else { s with bad := s.bad.filter fun u => u != (7, w.core, 8) && u != (7, w.core, 9) }

/-- R164: takes the store of the warp's core for its team; none while another team holds it or is to be served first. -/
def takeStore (s : State) (w : Warp) : Option State :=
  match (s.core w.core).act.holder with
  | some t => if t = w.team then some s else none
  | none => if s.earlierWaiter w.core w.team then none else (s.team? w.team).map fun _ => acquireStore s w

/-- R164: a store that its holder gives back goes to the waiting team admitted first. -/
def grantStore (s : State) (core : Nat) : State :=
  let waiting := (s.warps.filter fun e => s.waitsForStore core e.2).map (·.2)
  if (s.core core).act.holder.isSome then s
  else match waiting.find? fun w => waiting.all fun v => decide (s.admitted w.team ≤ s.admitted v.team) with
    | some w => acquireStore s w
    | none => s

/-- Another warp of the team on this core is in a TBLLD whose reads are under way. -/
def loadingTable (s : State) (w : Warp) : Bool :=
  s.warps.any fun e => e.1 != s.cur && e.2.team == w.team && e.2.core == w.core &&
    match e.2.wait with
    | some x => x.kind == .atIssue && (match x.word with | .tblld .. => true | _ => false)
    | none => false

def ActStore.setBank (a : ActStore) (k : Nat) (b : KMap (List W32)) : ActStore :=
  if k = 0 then { a with bank0 := b } else { a with bank1 := b }
def ActStore.bank (a : ActStore) (k : Nat) : KMap (List W32) := if k = 0 then a.bank0 else a.bank1

def State.modAct (s : State) (core : Nat) (f : ActStore → ActStore) : State :=
  let c := s.core core
  s.setCore core { c with act := f c.act }

/-- R165: writes a bank whole. -/
def State.writeBank (s : State) (core k : Nat) (b : KMap (List W32)) : State :=
  let s := s.modAct core fun x => x.setBank k b
  if s.bad.isEmpty then s else { s with bad := s.bad.filter (· != (7, core, 8 + k)) }

/-- R166: the bank that serves a FLUT that issues now: in the core cycle of a TBLSWP, the one that was active before it. -/
def State.servingBank (s : State) (core : Nat) : Nat :=
  let a := (s.core core).act
  match a.before with
  | some (t, b) => if s.sameCycle core t s.time.toNat then b else a.active
  | none => a.active

/-- What the reads of a table image answer. -/
inductive TableRead where
  | done (s : State) (w : Warp) (segs : KMap (List W32))
  | wait (s : State)
  | fail (s : State) (t : TrapReq)

/-- R165: reads segments i, i + 1, … of the image. -/
def readTable (wid a : Nat) : Nat → Nat → State → Warp → Bool → KMap (List W32) → TableRead
  | 0, _, s, w, waits, m => if waits then .wait s else .done s w m
  | n + 1, i, s, w, waits, m =>
    match wordRead s wid .engineRead w .b128 (a + 16 * i) i with
    | .ok s w vals => readTable wid a n (i + 1) s w waits (kput m i (vals.take 3))
    | .wait s => readTable wid a n (i + 1) s w true m
    | .fail s t => .fail s t

/-- TBLLD (R165). -/
def execTblld (h : WarpHdr) (sa : Reg) (s : State) : Out :=
  let i : Instr := .tblld h sa
  warpOp i h (some .epilogue) [(sa.toNat, 2)] anyMode s fun w =>
    let a := (w.sr64 sa.toNat).toNat
    if a % 64 != 0 then .trap (warpTrap .align a 6)
    else if !inHalf a 4096 then .trap (warpTrap .vaRange a 0)
    else if w.taskst then taskTrap i
    else
      match takeStore s w with
      | none => hold s w .actStore i
      | some s =>
        if loadingTable s w then hold s w .actStore i
        else
          let k := 1 - (s.core w.core).act.active
          match readTable s.cur a 256 0 s w false [] with
          | .wait s => hold s w .atIssue i
          | .fail s t => .trapIn (s.writeBank w.core k []) w { t with lanes := allLanes }
          | .done s' w' m =>
            -- a FLUT of this core cycle may still read the bank (R166)
            if s.servingBank w.core = k then hold s w .atIssue i else .done (s'.writeBank w.core k m) w'

/-- TBLSWP (R166). -/
def execTblswp (h : WarpHdr) (s : State) : Out :=
  let i : Instr := .tblswp h
  warpOp i h (some .epilogue) [] anyMode s fun w =>
    if w.taskst then taskTrap i
    else
      match takeStore s w with
      | none => hold s w .actStore i
      | some s =>
        if loadingTable s w then hold s w .actStore i
        else .done (s.modAct w.core fun x =>
          { x with active := 1 - x.active, before := some (s.time.toNat, s.servingBank w.core) }) w

/-- R167: the value of one lane. -/
def flutEval (bank : KMap (List W32)) (code : Nat) : Nat × Fl :=
  let clampTo (i m : Nat) : Nat × Fl :=
    -- t is m / 2^149 above the start of segment i
    let seg := kget bank i []
    let c k := valOf .f32 (seg.getD k 0).toNat
    if (c 0).isNaN || (c 0).isInf || (c 1).isNaN || (c 1).isInf || (c 2).isNaN || (c 2).isInf then (0x7FC00000, flNV)
    else
      let t : Val := .fin false m (-149)
      let p1 := (vMul (c 1) t).1
      let p2 := (vMul (vMul (c 2) t).1 t).1
      convert .f32 .rn false (vAdd (vAdd (c 0) p1).1 p2).1
  -- x + 8 in units of 2^-149, clamped to [0, 16 - 2^-21]
  let top : Nat := 2 ^ 153 - 2 ^ 128
  let split (u : Nat) : Nat × Fl := clampTo (u / 2 ^ 145) (u % 2 ^ 145)
  match valOf .f32 code with
  | .nan _ sig => (0x7FC00000, flIf sig flNV)
  | .inf neg => split (if neg then 0 else top)
  | .fin neg m e =>
    let v : Int := (2 : Int) ^ 152 + (if neg then -1 else 1) * ((m * 2 ^ (e + 149).toNat : Nat) : Int)
    split (min v.toNat top)

/-- FLUT (R167). -/
def execFlut (h : LaneHdr) (vd va : Reg) (s : State) : Out :=
  let i : Instr := .flut h vd va
  laneOp i h [(vd.toNat, 1), (va.toNat, 1)] notInHandler s fun w x =>
    match takeStore s w with
    | none => hold s w .actStore i
    | some s =>
      let a := (s.core w.core).act
      let k := s.servingBank w.core
      if x != 0 && s.isBad (7, w.core, 8 + k) then
        .trapIn (s.reportBad (s.ctxOf w) w.num w.core 7 0) w ⟨.dataErr, 0, x, 7⟩
      else
      let r l := flutEval (a.bank k) (w.vr l va.toNat).toNat
      .done s ((w.setV vd.toNat x fun l => BitVec.ofNat 32 (r l).1).orFlags (flagsOver x fun l => (r l).2))

/-! ## BRX (R78) -/

/-- BRX (R78, R427). -/
def execBrx (h : WarpHdr) (sa sb : Reg) (n : BitVec 16) (s : State) : Out :=
  let i : Instr := .brx h sa sb n
  warpOp i h none [(sa.toNat, 2)] anyMode s fun w =>
    let b := (w.sr64 sa.toNat).toNat
    let a := b + 4 * min (w.sr sb.toNat).toNat n.toNat
    if b % 4 != 0 then .trap (warpTrap .align b 2)
    else if !inHalf a 4 then .trap (warpTrap .vaRange a 0)
    else
      match wordRead s s.cur .read w .b32 a 0 with
      | .wait s => hold s w .atIssue i
      | .fail s t => .trapIn s w { t with lanes := allLanes }
      | .ok s w vals =>
        let d := (vals.getD 0 0).toInt
        let t := relTarget w.issueAddr d
        if t % 4 != 0 then .trapIn s w (warpTrap .align t 2)
        else if !relCanonical w.issueAddr d then .trapIn s w (relTrap w.issueAddr d allLanes)
        else .moved s { w.jumpTo w.active t with wait := none }

/-! ## TIERQ (R381) -/

/-- R341, R347, R381: the walk of a query, through the TLBs. -/
def tierWalk (s : State) (w : Warp) (n va : Nat) : Walk :=
  match (s.tlbFind (some w.core) (Config.dieOfCore w.core) n va).filter fun e => e.tier != 3 with
  | some e => .leaf e
  | none => match kget? s.contexts n with
    | none => .invalid
    | some c => walk s n c va

/-- R381: the result of a query, by what its walk has found. -/
def tierResult (s : State) (w : Warp) (n va : Nat) (found : Walk) : W32 :=
  let tierOf (pa : Nat) : Nat := if Config.homeDie pa == Config.dieOfCore w.core then 0 else 1
  match found with
  | .invalid | .refused _ | .bad _ => 0
  | .leaf e =>
    let psize := if e.size = 16 then 0 else if e.size = 21 then 1 else if e.size = 30 then 2 else 3
    let pa := e.frame
    let tail : Nat :=
      if e.tier < 2 then tierOf (pa + (va % 2 ^ 57 - e.va))
      else if e.tier = 3 then 3
      else match leaseDecide s n e.dev pa with
        | .send r => 2 + (if r then 4 else 0)
        | .park _ _ => 2 + 4
        | .redirect fpa _ => tierOf fpa + 8
        | .refuse _ => 2 + 12
    BitVec.ofNat 32 (0x80 + 16 * psize + tail)

/-- TIERQ (R381). A walk that meets a damaged table entry raises DATA_ERR (R406). DEDUCED, notes/assumptions/152.md. -/
def execTierq (h : WarpHdr) (sd sa : Reg) (s : State) : Out :=
  warpOp (.tierq h sd sa) h none [(sa.toNat, 2)] anyMode s fun w =>
    let a := (w.sr64 sa.toNat).toNat
    if !isCanonical a then .trap (warpTrap .vaRange a 0)
    else match tierWalk s w (s.ctxOf w) a with
      | .bad pa => .trapIn (s.reportBad (s.ctxOf w) w.num w.core 1 pa) w (warpTrap .dataErr a 1)
      | x => .done s (w.setS sd.toNat (tierResult s w (s.ctxOf w) a x))

end Sys2Proof.Machine
end

