-- ==== Sys2Proof/Machine/Launch.lean ====
section
/-! DEFINITION. The command processor: doorbells (R421, R422), packets (R293 to R296), descriptors (R29 to R31), admission
(R32, R33, R37, R38, R297 to R299, R358, R360) and retirement (R23). -/

namespace Sys2Proof.Machine

/-! ## Descriptors (R29 to R31) -/

/-- R29: the fields of the 256 bytes of a descriptor. -/
def descOf (b : List Byte) : Desc :=
  let f := fieldAt b
  { dver := f 0 4, isalvl := f 4 2, gclass := f 6 2 / 2 % 4, pairMode := f 6 2 % 2 == 1, ecopy := f 8 8, emaths := f 0x10 8
    eepi := f 0x18 8, ncopy := f 0x20 1, nmaths := f 0x21 1, nepi := f 0x22 1, vregs := f 0x23 1, spro := f 0x24 4
    sfull := f 0x28 4, orang := f 0x2C 4, gridX := f 0x30 4, gridY := f 0x34 2, gridZ := f 0x36 2, gangX := f 0x38 1
    gangY := f 0x39 1, gangZ := f 0x3A 1, privLane := f 0x3C 4, asTab := f 0x40 8, asCount := f 0x48 1, lrCount := f 0x49 1
    lrTab := f 0x50 8, perg := tab 16 fun n => BitVec.ofNat 16 (f (0x60 + 2 * n) 2)
    args := tab 16 fun n => BitVec.ofNat 32 (f (0xC0 + 4 * n) 4) }

def Desc.teams (d : Desc) : Nat := d.gridX * d.gridY * d.gridZ
def Desc.gangSize (d : Desc) : Nat := d.gangX * d.gangY * d.gangZ
def Desc.gangs (d : Desc) : Nat := d.teams / d.gangSize

/-- The ISA level of the device (R96). -/
def isaLevel : Nat := (Config.capability 0).getD 0

/-- R31: the conditions of codes 0x01 to 0x0D, in order. -/
def Desc.tests (d : Desc) : List Bool :=
  let entry (count a : Nat) : Bool := count != 0 && (a % 4 != 0 || !isCanonical a)
  let gsize := d.gangSize
  [ d.dver != 1,
    d.isalvl == 0 || decide (isaLevel < d.isalvl),
    d.gclass == 3,
    decide (8 < d.ncopy) || decide (2 < d.nmaths) || decide (32 < d.nepi) || d.ncopy + d.nmaths + d.nepi == 0
      || decide (32 < d.ncopy + d.nmaths + d.nepi),
    d.nepi != 0 && (d.vregs % 8 != 0 || decide (d.vregs < 8) || decide (64 < d.vregs)),
    entry d.ncopy d.ecopy || entry d.nmaths d.emaths || entry d.nepi d.eepi,
    d.spro % 4096 != 0 || decide (Config.spadBytes < d.spro) || d.sfull % 4096 != 0 || decide (d.sfull < d.spro)
      || decide (Config.spadBytes < d.sfull) || decide (d.spro < d.pergTotal),
    d.orang % 16384 != 0 || decide (Config.bankBytes < d.orang) || (d.nmaths == 0 && d.orang != 0),
    d.teams == 0 || gsize == 0 || d.gridX % d.gangX != 0 || d.gridY % d.gangY != 0 || d.gridZ % d.gangZ != 0
      || decide (2 ^ 32 < d.teams) || decide (64 < gsize),
    (d.gclass == 0 && decide ((if d.pairMode then 1 else 2) < gsize))
      || (d.gclass == 1 && decide ((if d.pairMode then 96 else 192) < gsize)),
    decide (16 < d.asCount) || decide (16 < d.lrCount),
    d.privLane % 16 != 0,
    (d.asCount != 0 && (d.asTab % 64 != 0 || !isCanonical d.asTab)) || (d.lrCount != 0 && (d.lrTab % 64 != 0 || !isCanonical d.lrTab)) ]

/-- R31: the lowest code that refuses a descriptor. -/
def Desc.refusal (d : Desc) : Option Nat := (d.tests.idxOf? true).map (· + 1)

/-! ## Queues and doorbells (R293, R421, R422) -/

def queueKey (ctx q : Nat) : Nat := ctx * 64 + q

/-- DOORBELL (R422). DESIGN CHOICE, notes/assumptions/137.md: one whose entry or header cannot be corrected is ignored. -/
def execDoorbell (ctx queue : Nat) (s : State) : Out :=
  if !s.up 5 || 64 ≤ ctx || 64 ≤ queue || !s.ctxActive ctx then .next s
  else
    match s.queueTake ctx (kget s.regs.lqtab ctx 0 + 8 * queue) 8 with
    | (s, none) => .next s
    | (s, some entry) =>
      let e := leNat entry
      let h := e / 4096 * 4096
      if e % 2 = 0 then .next s
      else match s.queueTake ctx h 0x12 with
        | (s, none) => .next s
        | (s, some b) =>
          let f := fieldAt b
          let logn := f 0x10 1
          let prio := f 0x11 1
          if logn < 4 || 16 < logn || 3 < prio then .next s
          else
            let fresh : LaunchQ := ⟨h, logn, prio, f 0 8, f 8 8, false, false⟩
            let q := match kget? s.queues (queueKey ctx queue) with
              | some q => if q.header = h then { q with logn := logn, prio := prio, widx := f 0 8 } else fresh
              | none => fresh
            .next { s with queues := kput s.queues (queueKey ctx queue) q }

/-! ## Packets (R294, R295) -/

/-- The next packet of a queue. DESIGN CHOICE, notes/assumptions/137.md: one that cannot be corrected does not begin. -/
def State.packetOf (s : State) (ctx : Nat) (q : LaunchQ) : State × Option (List Byte) :=
  s.queueTake ctx (q.header + 64 + 64 * (q.ridx % 2 ^ q.logn)) 64

/-- R295: a nonzero address of the packet breaks its alignment. -/
def packetMisaligned (b : List Byte) : Bool :=
  let f := fieldAt b
  f 0x08 8 % 256 != 0 || f 0x10 8 % 8 != 0 || f 0x20 8 % 8 != 0 || f 0x30 8 % 8 != 0 || f 0x38 8 % 16 != 0

/-- R295: the first condition: the packet before has begun, or has completed where SERIAL asks for it. -/
def packetTurn (s : State) (ctx queue : Nat) (q : LaunchQ) (b : List Byte) : Bool :=
  fieldAt b 1 1 % 2 == 0 || !(s.launches.any fun l => l.2.ctx == ctx && l.2.queue == queue && l.2.packet + 1 == q.ridx)

/-- A queue has a packet to begin (R293, R339, R422). -/
def queueReady (s : State) (ctx queue : Nat) : Option LaunchQ :=
  match kget? s.queues (queueKey ctx queue) with
  | none => none
  | some q => if s.up 5 && s.ctxOpen ctx && decide (q.ridx < q.widx) then some q else none

inductive WaitRead where
  | met (s : State) (yes : Bool)
  | wait (s : State)
  | fail (s : State)

/-- Reads one wait signal, unless it is unused or has been met. -/
def readWait (s : State) (ctx queue k a v : Nat) (met : Bool) : WaitRead :=
  if a = 0 || met then .met s true
  else
    match engRead s (fun u => .launch ctx queue (2 ^ 32 * k + u % 2 ^ 32)) ctx a 8 with
    | .ok s bs => .met s (decide (v ≤ leNat bs))
    | .wait s => .wait s
    | .fail s => .fail s

/-- R295: reads the waits of a queue's next packet and remembers those that are met. -/
def pollWaits (s : State) (ctx queue : Nat) (q : LaunchQ) (b : List Byte) : WaitRead :=
  let keep (s : State) (m0 m1 : Bool) : State :=
    { s with queues := kput s.queues (queueKey ctx queue) { q with met0 := m0, met1 := m1 } }
  match readWait s ctx queue 0 (fieldAt b 0x10 8) (fieldAt b 0x18 8) q.met0 with
  | .fail s => .fail s
  | .wait s => .wait s
  | .met s m0 =>
    match readWait s ctx queue 1 (fieldAt b 0x20 8) (fieldAt b 0x28 8) q.met1 with
    | .fail s => .fail s
    | .wait s => .wait (keep s m0 false)
    | .met s m1 => .met (keep s m0 m1) (m0 && m1)

/-- What the reads of a descriptor and its tables give (R31), with what has been read. -/
inductive DescRead where
  | ok (s : State) (d : Desc) (sets layouts : List Byte)
  | refused (s : State) (code : Nat)
  | wait (s : State) (c : Chunk)

/-- A read or a write of the command processor for a launch; `k` tells them apart. -/
def Launch.waiter (l : Launch) (id k u : Nat) : Waiter := .launch l.ctx l.queue (2 ^ 40 * (id + 1) + 2 ^ 32 * k + u % 2 ^ 32)

/-- The command processor as it moves the bytes of a launch. -/
def Launch.mover (l : Launch) (id k : Nat) : Mover :=
  { who := l.waiter id k, ctx := l.ctx, core := none, die := 0, warp := 2 ^ 64, num := 0xFF
    mine := fun w => match w with
      | .launch c q u => c == l.ctx && q == l.queue && u / 2 ^ 32 == 2 ^ 8 * (id + 1) + k
      | _ => false }

/-- R31: reads n bytes for a launch; each unit is read once. -/
def Launch.read (l : Launch) (id k a n : Nat) (s : State) (c : Chunk) : Progress :=
  if (badByte a n).isSome then .fail s c footprintTrap else readSources (l.mover id k) (unitsOf [(a, n)]) s c false

/-- R31: reads the descriptor of a launch, and the tables that it names. -/
def readDesc (s : State) (id : Nat) (l : Launch) : DescRead :=
  match l.read id 2 l.kdesc 256 s l.work with
  | .wait s c => .wait s c
  | .fail s _ _ => .refused s 0x0E
  | .done s c =>
    let d := descOf (tab 256 fun i => c.byte (l.kdesc + i))
    match d.refusal with
    | some k => .refused s k
    | none =>
      match l.read id 3 d.asTab (32 * d.asCount) s c with
      | .wait s c => .wait s c
      | .fail s _ _ => .refused s 0x0E
      | .done s c =>
        match l.read id 4 d.lrTab (128 * d.lrCount) s c with
        | .wait s c => .wait s c
        | .fail s _ _ => .refused s 0x0E
        | .done s c => .ok s d (tab (32 * d.asCount) fun i => c.byte (d.asTab + i)) (tab (128 * d.lrCount) fun i => c.byte (d.lrTab + i))

/-- R316, R317: installs the entries of a set table in turn; answers the context and the lowest refused SETN. -/
def installTable (b : List Byte) : Nat → Nat → Context → Option Nat → Context × Option Nat
  | 0, _, c, r => (c, r)
  | n + 1, k, c, r =>
    let f := fieldAt (b.drop (32 * k))
    let slot := f 0x10 1
    let g := f 0x11 1
    let new := if slot < 16 && decide (8 ≤ g) && decide (g ≤ 20) then installSet c slot ⟨f 0 8, f 8 8, g⟩ else none
    match new with
    | some c => installTable b n (k + 1) c r
    | none => installTable b n (k + 1) c (some (min slot (r.getD slot)))

/-- R362: asks for PRIVLANE where it lies above HWM, unless the request is out already; clears the launch's wait where the
request is refused at once. -/
def askPriv (s : State) (id : Nat) (l : Launch) : State :=
  match kget? s.contexts l.ctx with
  | none => s
  | some c =>
    let who := Waiter.hwm l.ctx id
    if s.pri.any fun r => r.2.waiters.contains who then s
    else match pageFault s who l.ctx 0 (c.pBase + l.desc.privLane - 1) .atomic false l.desc.privLane with
      | .wait s => s
      | .ok s _ _ => s
      | .err s _ _ => { s with launches := kmod s.launches id fun l => { l with privWait := false } }

def emptyDesc : Desc := descOf []

/-- R295, R31, R317, R362: goes on with the reads of a launch; once they are done the launch is refused, or has its
descriptor, its sets and its layout records. -/
def readLaunch (s : State) (id : Nat) (l : Launch) : State :=
  let put (s : State) (l : Launch) : State := { s with launches := kput s.launches id l }
  match readDesc s id l with
  | .wait s c => put s { l with work := c }
  | .refused s k => put s { l with reading := false, work := Chunk.fresh, status := some k }
  | .ok s d sets layouts =>
    match kget? s.contexts l.ctx with
    | none => s
    | some c =>
      let (c', refused) := installTable sets d.asCount 0 c none
      let l := { l with
        reading := false, work := Chunk.fresh, desc := d, layouts := tab d.lrCount fun k => (layouts.drop (128 * k)).take 128
        refusedSet := refused
        privWait := c.nPriv != 0 && decide (c.hwm < d.privLane) }
      let s := put { s with contexts := kput s.contexts l.ctx c' } l
      if l.privWait then askPriv s id l else s

/-- A packet begins: RIDX advances, and a launch stands for it until it completes. -/
def beginPacket (s : State) (ctx queue : Nat) (q : LaunchQ) (b : List Byte) (status : Option Nat) : State :=
  let f := fieldAt b
  let s := s.tick
  let l : Launch :=
    { ctx := ctx, queue := queue, packet := q.ridx, kdesc := f 8 8, prio := q.prio, order := s.stamp, since := none
      sig := if f 0x30 8 % 8 = 0 then f 0x30 8 else 0, compl := if f 0x38 8 % 16 = 0 then f 0x38 8 else 0
      reading := status.isNone, work := Chunk.fresh, desc := emptyDesc, layouts := [], refusedSet := none, admitted := [], retired := 0
      privWait := false, reserved := none, before := none, seen := [], status := status }
  let id := s.nextId
  let s := s.devWrite (q.header + 8) (leBytes 8 (q.ridx + 1))
  let s := { s with
    nextId := id + 1, launches := kput s.launches id l
    queues := kput s.queues (queueKey ctx queue) { q with ridx := q.ridx + 1, met0 := false, met1 := false } }
  if l.reading then readLaunch s id l else s

/-- WAIT_SIGNAL_POLL (R295): the waits are read again, as soon as the packet's turn has come; one that cannot be read
begins the packet. -/
def execWaitSignalPoll (ctx queue : Nat) (s : State) : Out :=
  match queueReady s ctx queue with
  | none => .next s
  | some q =>
    match s.packetOf ctx q with
    | (s, none) => .next s
    | (s, some b) =>
      if packetMisaligned b || !packetTurn s ctx queue q b then .next s
      else match pollWaits s ctx queue q b with
        | .met s _ => .next s
        | .wait s => .next s
        | .fail s => .next (beginPacket s ctx queue q b (some 0x12))

/-- PACKET_BEGIN (R295): the packet begins, and a kernel's descriptor is read then. -/
def execPacketBegin (ctx queue : Nat) (s : State) : Out :=
  match queueReady s ctx queue with
  | none => .next s
  | some q =>
    match s.packetOf ctx q with
    | (s, none) => .next s
    | (s, some b) =>
      let ends (s : State) (k : Nat) : Out := .next (beginPacket s ctx queue q b (some k))
      if !packetTurn s ctx queue q b then .next s
      else if packetMisaligned b then ends s 0x11
      else
        match pollWaits s ctx queue q b with
        | .wait s => .next s
        | .fail s => ends s 0x12
        | .met s false => .next s
        | .met s true =>
          match fieldAt b 0 1 with
          | 0 | 2 => ends s 0
          | 1 => .next (beginPacket s ctx queue q b none)
          | _ => ends s 0x10

/-! ## Room (R32, R33, R37, R298, R360) -/

/-- What a gang of new or saved teams asks of its cores: how many teams, their descriptor, the allotment of each, the
private indices that they take from the pool, and the cores that the gang's resident teams hold. -/
structure Need where
  ctx : Nat
  desc : Desc
  teams : Nat
  allots : List Nat
  indices : Nat
  held : List Nat
  /-- R238: the barrier records that the teams bring, on one core at most. -/
  records : Nat
  deriving DecidableEq, Repr

/-- R32: the initial allotment. -/
def Desc.initial (d : Desc) : Nat := if d.spro = d.sfull || d.gangSize != 1 then d.sfull else d.spro

/-- Warps of a role that a team puts on a part (R33). -/
def Desc.onPart (d : Desc) (r : Role) (part : Nat) : Nat :=
  let half (n : Nat) : Nat := if d.pairMode then (if part = 0 then (n + 1) / 2 else n / 2) else n
  match r with
  | .copy => half d.ncopy
  | .epilogue => half d.nepi
  | .maths => if part = 0 then d.nmaths else 0

/-- Matrix contexts of a core that no team holds (R171). -/
def freeBanks (s : State) (core : Nat) : List Nat :=
  [0, 1].filter fun b => !(s.teams.any fun t => t.2.cores.contains core && t.2.mats.any fun m => m.2.bank == b)

/-- R37: the reserve of a core. DEDUCED, notes/assumptions/148.md: a team that has reached SFULL and given it back by RREL
counts again. -/
def coreReserve (s : State) (core : Nat) : Nat :=
  s.teams.foldl (fun m t =>
    if t.2.cores.contains core && t.2.desc.gangSize == 1 then max m (t.2.desc.sfull - t.2.allot) else m) 0

/-- R32, R37: a core takes one part of a team with an allotment, and with bound barrier records (R238). -/
def partFits (s : State) (d : Desc) (allot records part core : Nat) : Bool :=
  let here := s.warps.filter fun w => w.2.core == core
  let count (r : Role) : Nat := here.countP (fun w => w.2.role == r) + d.onPart r part
  let vbytes := lsum ((here.filter fun w => w.2.role == .epilogue).map fun w => 128 * w.2.vregs) + 128 * d.vregs * d.onPart .epilogue part
  let all := here.length + d.onPart .copy part + d.onPart .maths part + d.onPart .epilogue part
  let own := if allot < d.sfull then d.sfull - d.spro else 0
  decide (core < Config.cores) && !s.gated.contains core
    && decide (count .copy ≤ Config.copySlots) && decide (count .maths ≤ Config.mathsSlots)
    && decide (count .epilogue ≤ Config.epiSlots) && decide (all ≤ Config.warpSlots) && decide (vbytes ≤ Config.vregFileBytes)
    && decide (allot + max (coreReserve s core) own ≤ freeSpad s core)
    && (records == 0 || decide (records + boundRecords s core ≤ Config.barrierRecords))
    && !(s.teams.any fun t => t.2.cores.contains core && t.2.parked)

/-- The cores of a team placed at a core: with PAIR, a whole pavilion (R10, R33). -/
def Desc.coresAt (d : Desc) (core : Nat) : List Nat := if d.pairMode then [core, core + 1] else [core]

/-- Matrix contexts that are free on every core of a placement, the same number on each (R33). -/
def Desc.banksAt (s : State) (d : Desc) (core : Nat) : List Nat :=
  [0, 1].filter fun b => (d.coresAt core).all fun c => (freeBanks s c).contains b

/-- A team with an allotment fits at a core. -/
def teamFits (s : State) (d : Desc) (allot records core : Nat) : Bool :=
  let cs := d.coresAt core
  (!d.pairMode || core % 2 == 0) && decide (d.nmaths ≤ (d.banksAt s core).length)
    && (List.range cs.length).all fun p => partFits s d allot records p (cs.getD p 0)

/-- R298: cores of one gang lie as its class asks. -/
def classFits (d : Desc) (size : Nat) (cores : List Nat) : Bool :=
  size ≤ 1 || match d.gclass with
    | 0 => (cores.map (· / 2)).eraseDups.length ≤ 1
    | 1 => (cores.map Config.dieOfCore).eraseDups.length ≤ 1
    | _ => true

/-- R360: private indices of a context that no team, resident or saved, holds. -/
def freeIndices (s : State) (n : Nat) : List Nat :=
  let mine (t : Nat) (w : Warp) : Bool := w.role == .epilogue && ((s.team? t).map (·.ctx)).getD 64 == n
  let used := (s.warps.filter fun w => mine w.2.team w.2).map (·.2.privIndex)
    ++ (s.frames.filter fun f => f.2.ctx == n).flatMap fun f => (f.2.warps.filter fun w => w.2.role == .epilogue).map (·.2.privIndex)
  (List.range ((kget? s.contexts n).elim 0 (·.nPriv))).filter fun k => !used.contains k

/-- The context has private indices to give (R360). -/
def indicesFit (s : State) (x : Need) : Bool :=
  (kget? s.contexts x.ctx).elim 0 (·.nPriv) == 0 || decide (x.indices ≤ (freeIndices s x.ctx).length)

/-- A placement, one leading core for each team, meets R32, R33, R298 and R360. -/
def placeFits (s : State) (x : Need) (cores : List Nat) : Bool :=
  let all := cores.flatMap x.desc.coresAt
  decide (cores.length = x.teams) && decide all.Nodup && all.all (fun c => !x.held.contains c)
    && classFits x.desc x.desc.gangSize (all ++ x.held) && indicesFit s x
    && (List.range x.teams).all fun i => teamFits s x.desc (x.allots.getD i 0) x.records (cores.getD i 0)

/-- The need could be met with at least one of some cores (R297). -/
def couldUse (s : State) (x : Need) (cores : List Nat) : Bool :=
  let most := x.allots.foldl max 0
  let units := (List.range Config.cores).filter fun c =>
    teamFits s x.desc most x.records c && (x.desc.coresAt c).all fun k => !x.held.contains k
  let among (f : Nat → Nat) : Bool :=
    units.any fun u => (x.desc.coresAt u).any cores.contains && decide (x.teams ≤ units.countP fun v => f v == f u)
      && x.held.all fun h => f h == f u
  indicesFit s x && if x.desc.gangSize ≤ 1 then among fun _ => 0
    else match x.desc.gclass with
      | 0 => among (· / 2)
      | 1 => among Config.dieOfCore
      | _ => among fun _ => 0

/-! ## The offering order (R297, R299) -/

/-- A place in the offering order: priority, whether it is of saved teams, and when the launch began. -/
structure Offer where
  prio : Nat
  saved : Bool
  order : Nat
  deriving DecidableEq, Repr

def Offer.before (a b : Offer) : Bool :=
  decide (b.prio < a.prio) || (a.prio == b.prio &&
    ((a.saved && !b.saved) || (a.saved == b.saved && decide (a.order < b.order))))

/-- What a launch still asks for, gang by gang: all its gangs ask the same. -/
def Launch.need (l : Launch) : Need :=
  let n := l.desc.gangSize
  ⟨l.ctx, l.desc, n, List.replicate n l.desc.initial, n * l.desc.nepi, [], 0⟩

def Launch.offer (l : Launch) : Offer := ⟨l.prio, false, l.order⟩

/-- A launch has teams to admit (R295, R339, R362, R395). -/
def launchAsks (s : State) (l : Launch) : Bool :=
  l.status.isNone && !l.reading && !l.privWait && decide (l.admitted.length < l.desc.gangs) && s.ctxOpen l.ctx
    && !((kget? s.contexts l.ctx).elim true (·.preempted))

/-- What the saved teams of a gang ask for (R397). -/
def frameNeed (s : State) (g : Nat × Nat) : Need :=
  let fs := s.frames.filter fun f => f.2.team.gang == g
  let held := (s.teams.filter fun t => t.2.gang == g).flatMap fun t => t.2.cores
  let d := (fs.head?.map (·.2.team.desc)).getD emptyDesc
  ⟨(fs.head?.map (·.2.ctx)).getD 0, d, fs.length, fs.map fun f => f.2.team.allot, 0, held,
    fs.foldl (fun m f => max m (max (f.2.team.mbars.countP fun e => e.1 / 32 == 0) (f.2.team.mbars.countP fun e => e.1 / 32 == 1))) 0⟩

/-- How a saved copy is named in waiters and log entries. -/
def savedCopyCore (tid part : Nat) : Nat := 1000 + 2 * tid + part

/-- R396: every page request of a saved team has been answered. -/
def frameAnswered (s : State) (tid : Nat) (f : Frame) : Bool :=
  !(s.pri.any fun r => r.2.waiters.any fun w => match w with
    | .lane k _ _ | .store k _ _ | .fetch k | .word k _ | .commit k _ => (kget? f.warps k).isSome
    | .copy c _ _ => c == savedCopyCore tid 0 || c == savedCopyCore tid 1
    | _ => false)

/-- The saved teams of a gang wait for room: all of them are queued (R395 to R397). -/
def gangAsks (s : State) (g : Nat × Nat) : Bool :=
  (s.frames.filter fun f => f.2.team.gang == g).all fun f =>
    (f.2.queued || (f.2.fault && frameAnswered s f.1 f.2)) && s.ctxOpen f.2.ctx && !((kget? s.contexts f.2.ctx).elim true (·.preempted))

def gangOffer (s : State) (g : Nat × Nat) : Offer :=
  match kget? s.launches g.1 with
  | some l => ⟨l.prio, true, l.order⟩
  | none => ⟨0, true, 0⟩

/-- Something that stands before an offer could use one of some cores (R297). -/
def earlierUse (s : State) (o : Offer) (cores : List Nat) : Bool :=
  (s.launches.any fun l => l.2.offer.before o && launchAsks s l.2 && couldUse s l.2.need cores)
    || ((s.frames.map fun f => f.2.team.gang).eraseDups.any fun g =>
      (gangOffer s g).before o && gangAsks s g && couldUse s (frameNeed s g) cores)

/-- R299: the cores are kept for another gang, of equal or higher priority. -/
def keptForOther (s : State) (self : Option (Nat × Nat)) (prio : Nat) (cores : List Nat) : Bool :=
  s.launches.any fun l => decide (prio ≤ l.2.prio) && match l.2.reserved with
    | some r => self != some (l.1, r.1) && r.2.any cores.contains
    | none => false

/-- After an admission, those that stand after the admitted launch reach the head anew (R299). -/
def touchSince (s : State) (o : Offer) : State :=
  { s with launches := kmap (fun _ l => if l.offer.before o then l else { l with since := none }) s.launches }

/-- R299: a launch stands at the head of the offering order. -/
def atHead (s : State) (id : Nat) (l : Launch) : Bool :=
  launchAsks s l && !(s.launches.any fun e => e.1 != id && e.2.offer.before l.offer && launchAsks s e.2)
    && !((s.frames.map fun f => f.2.team.gang).eraseDups.any fun g => (gangOffer s g).before l.offer && gangAsks s g)

/-- R299: the time that each launch has stood at the head runs from when it came there. -/
def watchHeads (s : State) : State :=
  let measure (k : Nat) (l : Launch) : Option Nat := if atHead s k l then some (l.since.getD s.time.toNat) else none
  { s with launches := kmap (fun k l => { l with since := measure k l }) s.launches }

/-! ## Admission (R38, R245, R276, R358, R360) -/

/-- R27: the pipe of a core with the fewest epilogue warps bound. -/
def freePipe (s : State) (core : Nat) : Nat :=
  let load (p : Nat) : Nat := s.warps.countP fun w => w.2.core == core && w.2.role == .epilogue && !w.2.exited && w.2.pipe == p
  (List.range 4).foldl (fun b p => if load p < load b then p else b) 0

/-- Role and number within the role of a warp number (R21). -/
def Desc.roleOf (d : Desc) (num : Nat) : Role × Nat :=
  if num < d.ncopy then (.copy, num)
  else if num < d.ncopy + d.nmaths then (.maths, num - d.ncopy)
  else (.epilogue, num - d.ncopy - d.nmaths)

/-- R33: the part on which the k-th warp of a role runs. -/
def Desc.partOf (d : Desc) (r : Role) (k : Nat) : Nat :=
  match r with
  | .maths => 0
  | .copy | .epilogue => if d.pairMode then k % 2 else 0

def Desc.entryOf (d : Desc) : Role → Nat | .copy => d.ecopy | .maths => d.emaths | .epilogue => d.eepi

/-- R38: a warp as it is launched. -/
def newWarp (tid : Nat) (t : Team) (num pipe priv : Nat) : Warp :=
  let d := t.desc
  let (r, k) := d.roleOf num
  let part := d.partOf r k
  { team := tid, core := t.cores.getD part 0, part := part, num := num, role := r, pipe := pipe
    vregs := if r = .epilogue then d.vregs else 0, v := [], s := (List.range 16).map fun n => (n, d.args.getD n 0), p := []
    q := 0, vpc := List.replicate 32 (BitVec.ofNat 57 (d.entryOf r)), lc := [], jm := [], link := 0, fpflags := 0, age := 0
    trc := 0, taskst := false, live := BitVec.allOnes 32, waitK := [], loops := [], windows := [], storeQ := [], opLog := []
    pending := [], wait := none, tcause := 0, tpc := 0, taddr := 0, tlanes := 0, tinfo := 0, inh := false, t0 := 0, tact := 0
    gained := [], hpc := 0, hseq := 0, tretDue := false, dcause := 0, hs := [], hq := 0
    hloops := [], deferredWound := false, deferredRetry := none
    prologue := true, taskPending := false, task := none, privIndex := priv
    counted := false, seq := 0, exited := false, badRegs := [] }

/-- Adds the warps of a team from a number on; epilogue warps are bound to pipes and take private indices in turn. -/
def addWarps (tid : Nat) (t : Team) : Nat → Nat → State → State
  | 0, _, s => s
  | n + 1, num, s =>
    let (r, k) := t.desc.roleOf num
    let core := t.cores.getD (t.desc.partOf r k) 0
    let priv := if r = .epilogue then (freeIndices s t.ctx).headD 0 else 0
    let w := newWarp tid t num (if r = .epilogue then freePipe s core else 0) priv
    let s := s.acquire core .system
    addWarps tid t n (num + 1) { s with warps := kput s.warps s.nextId w, nextId := s.nextId + 1 }

/-- The place of team i of gang g in the grid (R22). -/
def Desc.teamAt (d : Desc) (g i : Nat) : Nat × Nat × Nat :=
  let nx := d.gridX / d.gangX
  let ny := d.gridY / d.gangY
  (g % nx * d.gangX + i % d.gangX, g / nx % ny * d.gangY + i / d.gangX % d.gangY,
    g / (nx * ny) * d.gangZ + i / (d.gangX * d.gangY))

/-- One team of a launch enters its cores, with everything that it can reach as R358 gives. -/
def admitTeam (s : State) (id : Nat) (l : Launch) (g i core : Nat) : State :=
  let d := l.desc
  let s := s.tick
  let tid := s.nextId
  let (x, y, z) := d.teamAt g i
  let banks := d.banksAt s core
  let t : Team :=
    { ctx := l.ctx, launch := id, desc := d, x := x, y := y, z := z, gangNum := d.gangAt x y z
      cores := d.coresAt core, allot := d.initial, parked := false
      admitOrder := s.stamp, halted := none, refusedSet := l.refusedSet, spads := [], orangs := []
      mats := (List.range d.nmaths).map fun k => (k, ⟨banks.getD k 0, tid + 1 + d.ncopy + k, []⟩)
      pergs := [], bars := [], mbars := []
      layouts := ((List.range d.lrCount).map fun k => (k, l.layouts.getD k [])).filter fun e => (recRefusal e.2).isNone
      savedAct := [], preempting := false, swap := false, haltPosted := false, stuckSince := none, pergTurn := [] }
  addWarps tid t (d.ncopy + d.nmaths + d.nepi) 0 ({ s with nextId := tid + 1 }.setTeam tid t)

/-- TEAM_ADMIT (R32, R33, R37, R297, R298): a gang of a launch is admitted, one leading core for each of its teams. What the
launch still has to read, or to ask for, comes first. -/
def execTeamAdmit (launch gang : Nat) (cores : List Nat) (s : State) : Out :=
  match kget? s.launches launch with
  | none => .next s
  | some l =>
    if l.reading then .next (readLaunch s launch l)
    else if l.privWait then .next (askPriv s launch l)
    else
      let all := cores.flatMap l.desc.coresAt
      if !s.up 5 || s.diesStopped || !launchAsks s l || l.desc.gangs ≤ gang || l.admitted.contains gang
          || !placeFits s l.need cores || earlierUse s l.offer all || keptForOther s (some (launch, gang)) l.prio all then .next s
      else
        let s := (List.range cores.length).foldl (fun s i => admitTeam s launch l gang i (cores.getD i 0)) s
        let l' : Launch := { l with
          admitted := l.admitted ++ [gang]
          before := some (l.before.getD s.image)
          reserved := match l.reserved with | some r => if r.1 = gang then none else some r | none => none }
        .next (touchSince { s with launches := kput s.launches launch l' } l.offer)

/-- GANG_RESERVE (R299): a placement is kept for a gang that has stood at the head for 50 µs. -/
def execGangReserve (launch gang : Nat) (cores : List Nat) (s : State) : Out :=
  match kget? s.launches launch with
  | none => .next s
  | some l =>
    let all := cores.flatMap l.desc.coresAt
    if atHead s launch l && decide (l.desc.gangSize ≠ 1) && decide (gang < l.desc.gangs) && !l.admitted.contains gang
        && l.reserved.isNone && l.since.any (fun t => decide (50 * microsecond ≤ s.elapsed t))
        && !couldUse s l.need (List.range Config.cores)
        && decide (cores.length = l.desc.gangSize) && decide all.Nodup && all.all (fun c => decide (c < Config.cores))
        && classFits l.desc l.desc.gangSize all && cores.all fun c => !l.desc.pairMode || c % 2 == 0 then
      .next { s with launches := kput s.launches launch { l with reserved := some (gang, all) } }
    else .next s

/-! ## Retirement and completion (R23, R296) -/

/-- R23: every warp has exited, with nothing of the team left to be performed. -/
def teamDone (s : State) (tid : Nat) (t : Team) : Bool :=
  s.warps.all (fun w => w.2.team != tid || (w.2.exited && w.2.storeQ.isEmpty && w.2.windows.isEmpty
      && w.2.opLog.isEmpty && w.2.pending.isEmpty))
    && t.cores.all (fun c => (s.core c).copies.all fun k => k.2.team != tid)
    && t.mats.all (fun m => m.2.ops.isEmpty) && t.halted.isNone && !t.preempting

/-- What a team holds on its cores goes back (R23, R164). -/
def freeTeam (s : State) (tid : Nat) (t : Team) : State :=
  let s := t.cores.foldl (fun s c =>
    let x := s.core c
    let gone := kwhere s.warps fun _ w => w.team == tid
    s.setCore c { x with
      act := if x.act.holder = some tid then ⟨none, [], [], 0, none⟩ else x.act
      slots := kmap (fun _ y => { y with
        queue := y.queue.filter fun w => !gone.contains w
        run := match y.run with | some r => if gone.contains r.1 then none else some r | none => none }) x.slots }) s
  t.cores.foldl grantStore { s with
    warps := s.warps.filter fun w => w.2.team != tid
    teams := kdel s.teams tid
    bad := if s.bad.isEmpty then [] else s.bad.filter fun u => !(((u.1 == 5 || u.1 == 6) && u.2.2 / 2 ^ 16 == tid)
      || (u.1 == 7 && decide (16 ≤ u.2.2) && (u.2.2 - 16) / 16 == tid && t.cores.contains u.2.1)) }

/-- TEAM_RETIRE (R23). -/
def execTeamRetire (team : Nat) (s : State) : Out :=
  match s.team? team with
  | none => .next s
  | some t =>
    if !teamDone s team t then .next s
    else
      let s := freeTeam s team t
      let s := { s with launches := kmod s.launches t.launch fun l => { l with retired := l.retired + 1 } }
      .next (gbarEvaluate s t.gang)

/-- R296, R339: the status with which a launch completes now. -/
def launchStatus (s : State) (id : Nat) (l : Launch) : Option Nat :=
  let resident := s.teams.any fun t => t.2.launch == id
  match l.status with
  | some k => if resident then none else some k
  | none =>
    if l.reading then (if s.ctxOpen l.ctx then none else some 0x80)
    else if l.retired = l.desc.teams then some 0
    else if !resident && !s.ctxOpen l.ctx && decide (l.admitted.length < l.desc.gangs) then some 0x80
    else none

/-- LAUNCH_COMPLETE (R296): the writes of the launch are brought home, then the record is written and the signal raised. A
launch whose context was ended completes once the link is up (R408), in the address space that it had. -/
def execLaunchComplete (launch : Nat) (s : State) : Out :=
  match kget? s.launches launch with
  | none => .next s
  | some l =>
    match launchStatus s launch l with
    | none => .next s
    | some status =>
      let modL (s : State) (f : Launch → Launch) : State := { s with launches := kmod s.launches launch f }
      let (s, ok0) := releaseCopies (modL s fun l => { l with status := some status }) 0 .system
      let (s, ok1) := releaseCopies s 1 .system
      let was := s.ctxActive l.ctx
      if !(ok0 == .done && ok1 == .done) || (!was && !s.pcieUp) then .next s
      else
        let back (s : State) : State := s.modCtx l.ctx fun c => { c with active := was }
        let s := s.modCtx l.ctx fun c => { c with active := true }
        let signal (s : State) : Out :=
          match (if l.sig = 0 then EngWrite.done s else engAdd s (l.waiter launch 1) l.ctx l.sig) with
          | .wait s => .next (back (modL s fun l => { l with compl := 0 }))
          | .done s => .next (back { s with launches := kdel s.launches launch })
        if l.compl = 0 || (badByte l.compl 16).isSome then signal s
        else
          let work := if l.reading then Chunk.fresh else l.work
          match wholeWrite (l.mover launch 0) (writesAt l.compl (leBytes 8 status ++ leBytes 8 s.time.toNat)) s work with
          | .wait s c => .next (back (modL s fun l => { l with reading := false, work := c }))
          | .fail s _ _ | .done s _ => signal s

end Sys2Proof.Machine
end

