-- ==== Sys2Proof/Machine/Pergola.lean ====
section
/-! DEFINITION. Pergolas (R274 to R290): the six words and the parked words. -/

namespace Sys2Proof.Machine

/-- The declaration of a pergola (R30). -/
def Team.pergDecl (t : Team) (q : Nat) : W16 := t.desc.perg.getD q 0

/-- R276: a pergola as admission leaves it. -/
def freshPergola (d : W16) : Pergola := ⟨0, 0, pergDepth d, false, []⟩

def Team.perg (t : Team) (q : Nat) : Pergola := kget t.pergs q (freshPergola (t.pergDecl q))
def Team.setPerg (t : Team) (q : Nat) (x : Pergola) : Team := { t with pergs := kput t.pergs q x }

/-- R275. -/
def Pergola.count (x : Pergola) : Nat := (x.wpos - x.rpos).toNat

/-- R280: the entry of a push. -/
def Pergola.push (x : Pergola) (h : W64) : Pergola :=
  { x with ring := kput x.ring (x.wpos.toNat % x.depth) h, wpos := x.wpos + 1 }

/-- A team after a push: the entry's line of the ring has been written (R224, R275). -/
def Team.push (t : Team) (q : Nat) (h : W64) : Team :=
  let x := t.perg q
  let line := (t.desc.pergBase q + 128 + 8 * (x.wpos.toNat % x.depth)) / 128
  let sp := t.spad 0
  (t.setPerg q (x.push h)).setSpad 0 { sp with written := addNum sp.written line }

/-- R281: the ring place of the next pop, its entry and the pergola after it. -/
def Pergola.slot (x : Pergola) : Nat := x.rpos.toNat % x.depth
def Pergola.pop (x : Pergola) : W64 × Pergola := (kget x.ring x.slot 0, { x with rpos := x.rpos + 1 })

/-- The scratchpad address of the entry that a pop takes, when its storage cannot be corrected (R403). -/
def badEntry (s : State) (tid q : Nat) (t : Team) : Option Nat :=
  let a := t.desc.pergBase q + 128 + 8 * (t.perg q).slot
  if !s.bad.isEmpty && (List.range 8).any (fun i => s.isBad (5, t.cores.headD 0, unitNum tid (a + i))) then some a else none

/-- The parked words of a pergola, first parked first (R286). -/
def parkedOn (s : State) (tid q : Nat) : List (Nat × Warp × Wait) :=
  let l := s.warps.filterMap fun e =>
    if e.2.team != tid then none
    else match e.2.wait with
      | none => none
      | some x => match x.kind with
        | .pushQ pq _ _ _ => if pq = q then some (e.1, e.2, x) else none
        | .popQ pq _ _ _ _ => if pq = q then some (e.1, e.2, x) else none
        | _ => none
  l.foldl (fun r e => (r.filter fun f => f.2.2.order ≤ e.2.2.order) ++ [e] ++ r.filter fun f => e.2.2.order < f.2.2.order) []

/-- A parked push. -/
def Wait.isPush (x : Wait) : Bool := match x.kind with | .pushQ _ _ _ _ => true | _ => false

/-- R27: the slot that a warp issues through: the copy port, the maths port, or one of four pipes. -/
def Warp.slot (w : Warp) : Nat := match w.role with | .copy => 0 | .maths => 1 | .epilogue => 2 + w.pipe

/-- R286: the place of a warp's word among those that reach a pergola in one cycle. -/
def Warp.pergRank (w : Warp) : Nat := 6 * w.part + w.slot

/-- R286: no word that comes later in the order of this cycle has reached the pergola; a word that finds one reaches it in
another cycle. -/
def Team.mayReach (t : Team) (s : State) (q : Nat) (w : Warp) : Bool :=
  (kget? t.pergTurn q).all fun e => !s.sameCycle (t.cores.headD 0) e.1 s.time.toNat || decide (e.2 ≤ w.pergRank)

/-- A warp's word reaches a pergola. -/
def Team.reached (t : Team) (s : State) (q : Nat) (w : Warp) : Team :=
  { t with pergTurn := kput t.pergTurn q (s.time.toNat, w.pergRank) }

/-- QUEUE with the pergola's number. -/
def queueTrap (q : Nat) : TrapReq := warpTrap .queue 0 (BitVec.ofNat 32 q)

/-- The checks of R279, then the body. -/
def pergOp (i : Instr) (h : WarpHdr) (pq : BitVec 4) (taskOk : Bool) (groups : List (Nat × Nat)) (mode : Warp → Bool)
    (s : State) (body : Warp → Team → Res) : Out :=
  warpOp i h none groups mode s fun w =>
    withTeam s w fun t =>
      if w.taskst && !taskOk then taskTrap i
      else if !pergValid (t.pergDecl pq.toNat) then .trap (queueTrap pq.toNat)
      else body w t

/-- The write of a push, a close or an init leaves the store queue as a store; a rel one is a release (R208, R287). Its
word goes on once it may take effect. -/
def pergWrite (i : Instr) (s : State) (w : Warp) (t : Team) (q : Nat) (scope : Scope) (ord : Ord)
    (body : State → Warp → Res) : Res :=
  let (s, w) := pumpAll s s.cur w
  if !w.storeQ.isEmpty || s.loadsBlock w w.seq || (isRel ord && w.loadsOlder w.seq) then hold s w .atIssue i
  else
    match (if isRel ord then releaseCopies s (Config.dieOfCore w.core) scope else (s, .done)) with
    | (s, .fail e) => .trapIn s w (scalarTrap e)
    | (s, .wait) => hold s w .atIssue i
    | (s, .done) => if !t.mayReach s q w then hold s w .atIssue i else body s w

/-- A pop's acquire by a warp. -/
def State.popAcquire (s : State) (w : Warp) (ord : Bool) (scope : Scope) : State := if ord then s.acquire w.core scope else s

/-- The effect of a pop that takes an entry, or that finds the pergola closed and drained (R281). -/
def popEffect (s : State) (w : Warp) (t : Team) (q sd qd : Nat) (acq : Bool) (scope : Scope) : Res :=
  let x := t.perg q
  if x.count = 0 then .done (s.popAcquire w acq scope) (w.setQ qd false)
  else match badEntry s w.team q t with
    | some a => .trapIn (s.reportBad t.ctx w.num w.core 5 0) w (warpTrap .dataErr a 5)
    | none =>
      let (v, x) := x.pop
      .done ((s.setTeam w.team (t.setPerg q x)).popAcquire w acq scope) ((w.setS64 sd v).setQ qd true)

/-- A parked word that can be performed now. -/
def parkedReady (x : Pergola) (k : Wait) : Bool := x.shut || if k.isPush then decide (x.count < x.depth) else x.count != 0

/-- A parked word is performed (R286); a push on a closed pergola raises QUEUE (R283). -/
def parkedWord (s : State) (team pq : Nat) (t : Team) (wid : Nat) (w : Warp) (k : Wait) : Out :=
  let x := t.perg pq
  match k.kind with
  | .pushQ _ v _ _ =>
    if x.shut then .next (deliver s wid w (queueTrap pq) k.pc k.act)
    else .next ((s.setTeam team (t.push pq v)).setWarp wid (w.release k))
  | .popQ _ sd qd acq scope =>
    match popEffect s w t pq sd qd acq scope with
    | .done s w => .next (s.setWarp wid (w.release k))
    | .trapIn s w c => .next (deliver s wid w c k.pc k.act)
    | .moved s w => .next (s.setWarp wid w)
    | .trap c => .next (deliver s wid w c k.pc k.act)
    | .stop f => .fault f
  | _ => .next s

/-- R286: the parked words that can be performed are performed, first parked first, at most n of them. -/
def serveParked (team pq : Nat) : Nat → State → State
  | 0, s => s
  | n + 1, s =>
    match s.team? team with
    | none => s
    | some t =>
      match (parkedOn s team pq).find? fun e => parkedReady (t.perg pq) e.2.2 with
      | none => s
      | some (wid, w, k) =>
        match parkedWord s team pq t wid w k with
        | .next s => serveParked team pq n s
        | .fault _ | .refused _ => s

/-- R286: what a word has done to a pergola is followed, in the same cycle, by the parked words that it lets go. -/
def servePergola (s : State) (team pq : Nat) : State := serveParked team pq (parkedOn s team pq).length s

/-- The effect of a word on its pergola, with the parked words that it lets go. -/
def thenServe (q : Nat) : Res → Res
  | .done s w => .done (servePergola s w.team q) w
  | r => r

/-- QINIT (R284). -/
def execQinit (h : WarpHdr) (sa : Reg) (pq : BitVec 4) (s : State) : Out :=
  let i : Instr := .qinit h sa pq
  let q := pq.toNat
  pergOp i h pq false [] notInHandler s fun w t =>
    let full := pergDepth (t.pergDecl q)
    let d := (w.sr sa.toNat).toNat
    if full < d || !(parkedOn s w.team q).isEmpty then .trap (queueTrap q)
    else
      pergWrite i s w t q .core .plain fun s w => withTeam s w fun t =>
        .done (s.setTeam w.team ((t.reached s q w).setPerg q { t.perg q with
          depth := if d = 0 then full else d, wpos := 0, rpos := 0, shut := false })) w

/-- QPUSH (R280): parks behind the pushes that already wait. -/
def execQpush (h : WarpHdr) (sa : Reg) (pq : BitVec 4) (scope : Scope) (ord : Ord) (s : State) : Out :=
  let i : Instr := .qpush h sa pq scope ord
  let q := pq.toNat
  pergOp i h pq false [(sa.toNat, 2)] notInHandler s fun w t =>
    let v := w.sr64 sa.toNat
    pergWrite i s w t q scope ord fun s w => withTeam s w fun t =>
      let t := t.reached s q w
      let s := s.setTeam w.team t
      let x := t.perg q
      if x.shut then .trapIn s w (queueTrap q)
      else if x.depth ≤ x.count || (parkedOn s w.team q).any fun e => e.2.2.isPush then
        hold s w (.pushQ q v (isRel ord) scope) i
      else thenServe q (.done (s.setTeam w.team (t.push q v)) w)

/-- QPOP (R281): parks behind the pops that already wait. -/
def execQpop (h : WarpHdr) (sd : Reg) (qd : BitVec 3) (pq : BitVec 4) (scope : Scope) (ord : Ord) (s : State) : Out :=
  let i : Instr := .qpop h sd qd pq scope ord
  let q := pq.toNat
  pergOp i h pq false [(sd.toNat, 2)] notInHandler s fun w t =>
    let (s, w) := pumpAll s s.cur w
    if s.loadsBlock w w.seq || !t.mayReach s q w then hold s w .atIssue i
    else withTeam s w fun t =>
      let t := t.reached s q w
      let s := s.setTeam w.team t
      let x := t.perg q
      if (x.count = 0 && !x.shut) || (parkedOn s w.team q).any fun e => !e.2.2.isPush then
        hold s w (.popQ q sd.toNat qd.toNat (isAcq ord) scope) i
      else thenServe q (popEffect s w t q sd.toNat qd.toNat (isAcq ord) scope)

/-- QTRY (R282): never waits for an entry; entries due to parked pops are not its. -/
def execQtry (h : WarpHdr) (sd : Reg) (qd : BitVec 3) (pq : BitVec 4) (scope : Scope) (ord : Ord) (s : State) : Out :=
  let i : Instr := .qtry h sd qd pq scope ord
  let q := pq.toNat
  pergOp i h pq false [(sd.toNat, 2)] anyMode s fun w t =>
    let (s, w) := pumpAll s s.cur w
    if s.loadsBlock w w.seq || !t.mayReach s q w then hold s w .atIssue i
    else withTeam s w fun t =>
      let t := t.reached s q w
      let s := s.setTeam w.team t
      let x := t.perg q
      let due := (parkedOn s w.team q).countP fun e => !e.2.2.isPush
      if x.count ≤ due then
        if x.shut then .done (s.popAcquire w (isAcq ord) scope) (w.setQ qd.toNat false) else .done s (w.setQ qd.toNat false)
      else thenServe q (popEffect s w t q sd.toNat qd.toNat (isAcq ord) scope)

/-- QCLOSE (R283). -/
def execQclose (h : WarpHdr) (pq : BitVec 4) (scope : Scope) (ord : Ord) (s : State) : Out :=
  let i : Instr := .qclose h pq scope ord
  let q := pq.toNat
  pergOp i h pq false [] notInHandler s fun w t =>
    pergWrite i s w t q scope ord fun s w => withTeam s w fun t =>
      thenServe q (.done (s.setTeam w.team ((t.reached s q w).setPerg q { t.perg q with shut := true })) w)

/-- QLEN (R285). Its status register may not be s63 (R279). -/
def execQlen (h : WarpHdr) (sd : Reg) (pq : BitVec 4) (s : State) : Out :=
  let q := pq.toNat
  pergOp (.qlen h sd pq) h pq true [(sd.toNat, 2)] anyMode s fun w t =>
    let x := t.perg q
    .done s (w.setS sd.toNat (BitVec.ofNat 32 ((if x.shut then 2 ^ 31 else 0) + x.depth * 2 ^ 16 + x.count)))

/-- PERGOLA_PARKED_WORD (R286): the first parked word that can be performed is performed. -/
def execPergolaParkedWord (team pq : Nat) (s : State) : Out :=
  match s.team? team with
  | none => .next s
  | some t =>
    match (parkedOn s team pq).find? fun e => parkedReady (t.perg pq) e.2.2 with
    | none => .next s
    | some (wid, w, k) => parkedWord s team pq t wid w k

end Sys2Proof.Machine
end

