-- ==== Sys2Proof/Machine/Frames.lean ====
section
/-! DEFINITION. The context frame (R399 to R402): what a save writes and what a restore reads back. Sections marked device
hold bytes that the manual does not give: they are free values, covered by FCHK. -/

namespace Sys2Proof.Machine

/-! ## Sizes and places (R399) -/

def Team.parts (t : Team) : Nat := t.cores.length
/-- PSIZE. -/
def Team.partSize (t : Team) : Nat := 0xB000 + t.allot + t.desc.nmaths * t.desc.orang
/-- VR. -/
def Team.frameVr (t : Team) : Nat := if t.desc.nepi = 0 then 0 else t.desc.vregs
/-- WSIZE. -/
def Team.warpSize (t : Team) : Nat := 0x4000 + 128 * t.frameVr
def Team.warpCount (t : Team) : Nat := t.desc.ncopy + t.desc.nmaths + t.desc.nepi
def Team.partAt (t : Team) (p : Nat) : Nat := 0x1000 + p * t.partSize
def Team.warpAt (t : Team) (w : Nat) : Nat := t.partAt t.parts + w * t.warpSize
/-- The frame's length. -/
def Team.frameSize (t : Team) : Nat := ceilDiv (t.warpAt t.warpCount) 4096 * 4096

/-- A frame under way: bytes by offset. -/
abbrev Seg := Nat × List Byte

/-- Ranges of the device sections, in ascending order (R401, R402). -/
def Team.deviceSections (t : Team) : List (Nat × Nat) :=
  (tab t.parts fun p => (t.partAt p + 0x200, 0x8800)) ++ tab t.warpCount fun w => (t.warpAt w + 0x500, 0x3200)

def bitsBytes (n : Nat) (f : Nat → Bool) : List Byte :=
  tab n fun i => BitVec.ofNat 8 (lsum (tab 8 fun b => if f (8 * i + b) then 2 ^ b else 0))

def w32s (l : List W32) : List Byte := wordBytes l
def nat64s (l : List Nat) : List Byte := l.flatMap (leBytes 8)

/-! ## What a save writes -/

/-- R400, but for FCHK. -/
def headerSegs (s : State) (t : Team) (warps : KMap Warp) : List Seg :=
  let l := kget? s.launches t.launch
  let packet := match l with
    | none => 0
    | some l => match kget? s.queues (queueKey l.ctx l.queue) with
      | none => 0
      | some q => q.header + 64 + 64 * (l.packet % 2 ^ q.logn)
  let act (p : Nat) : Option ActStore := kget? t.savedAct p
  let flags := (if t.desc.pairMode then 1 else 0) + (if t.parked then 2 else 0)
    + (if (act 0).isSome || (act 1).isSome then 4 else 0) + (if ((act 0).map (·.active)).getD 0 = 1 then 8 else 0)
    + (if t.halted.isSome then 16 else 0)
  let onBar (b : Nat) : Nat := lsum (warps.map fun w => match w.2.wait with
    | some x => if x.kind == .bar b then 2 ^ w.2.num else 0
    | none => 0)
  [(0, leBytes 4 1 ++ leBytes 4 (t.frameSize / 4096) ++ leBytes 8 ((l.map (·.kdesc)).getD 0) ++ leBytes 4 t.x ++ leBytes 4 t.y
      ++ leBytes 4 t.z ++ leBytes 1 t.ctx ++ leBytes 1 flags ++ leBytes 2 t.warpCount ++ leBytes 4 t.allot ++ leBytes 1 t.parts
      ++ leBytes 3 0 ++ leBytes 8 s.time.toNat ++ leBytes 8 packet ++ leBytes 4 t.gangNum),
   (0x40, (List.range 8).flatMap fun b => leBytes 1 (t.bar b).arr ++ leBytes 1 (t.bar b).mode ++ leBytes 2 0 ++ leBytes 4 (onBar b)),
   (0x80, (List.range 16).flatMap fun k => tab 128 fun i => (kget t.layouts k []).getD i 0),
   (0x880, List.replicate 1920 0)]

/-- R238: a barrier record. -/
def mbarBytes (m : Option Mbar) : List Byte :=
  match m with
  | none => List.replicate 16 0
  | some m => leBytes 4 m.phase.toNat ++ leBytes 2 m.expect ++ leBytes 2 m.arrive ++ leBytes 4 (BitVec.ofInt 32 m.pend).toNat
      ++ leBytes 1 (1 + (if m.err then 2 else 0)) ++ leBytes 3 0

/-- The bytes of an activation bank (R165). -/
def bankBytesOf (b : KMap (List W32)) : List Byte :=
  (List.range 256).flatMap fun i => w32s (tab 3 fun k => (kget b i []).getD k 0) ++ leBytes 4 0

/-- R275, R276: the storage of a pergola, whole: places of the ring past the current depth keep their entries. -/
def pergBytes (x : Pergola) (size : Nat) : List Byte :=
  (w32s [x.wpos, x.rpos] ++ leBytes 1 x.depth ++ leBytes 1 (if x.shut then 1 else 0) ++ leBytes 118 0
    ++ nat64s (tab ((size - 128) / 8) fun i => (kget x.ring i 0).toNat)).take size

/-- The declared pergolas of a team, whose storage lies on its leading core (R274). -/
def Team.pergolas (t : Team) (p : Nat) : List Nat := if p = 0 then (List.range 16).filter fun q => pergValid (t.pergDecl q) else []

/-- R401, but for the device sections. The bytes of a line with Z = 1 are undefined: `free` gives them. -/
def partSegs (t : Team) (p : Nat) (free : Nat → Byte) : List Seg :=
  let a := t.partAt p
  let sp := t.spad p
  let act := kget t.savedAct p ⟨none, [], [], 0, none⟩
  [(a, (List.range 32).flatMap fun b => mbarBytes (t.mbar? p b)),
   (a + 0x8A00, bankBytesOf act.bank0 ++ bankBytesOf act.bank1),
   (a + 0xAA00, bitsBytes 512 sp.present),
   (a + 0xAC00, bitsBytes 512 (t.lineZ p)),
   (a + 0xAE00, List.replicate 512 0),
   (a + 0xB000, tab t.allot fun i => if t.lineZ p (i / 128) then free (a + 0xB000 + i) else mget sp.cells i),
   (a + 0xB000 + t.allot, (List.range t.desc.nmaths).flatMap fun w => readCells (t.orang p w) 0 t.desc.orang)]
    ++ (t.pergolas p).map fun q =>
      let bs := pergBytes (t.perg q) (pergSize (t.pergDecl q))
      let b := t.desc.pergBase q
      (a + 0xB000 + b, tab bs.length fun i => if t.lineZ p ((b + i) / 128) then free (a + 0xB000 + b + i) else bs.getD i 0)

/-- The code of a kept wait's kind (R402). -/
def WaitKind.keptCode : WaitKind → Nat
  | .sleep _ _ => 1
  | .mbwait _ _ _ _ _ => 2
  | .bar _ => 3
  | .gbar _ => 4
  | .pushQ _ _ _ _ => 5
  | .popQ _ _ _ _ _ => 6
  | .racq => 7
  | .mbinit | .rrel | .fence | .windowClose | .mwait | .twait | .xwait | .atIssue | .actStore | .evpost | .asdrop | .taskSlot
  | .commit | .fetch => 0

/-- The time that a kept wait has left, the code of its kind, and its word's address (R394, R402). -/
def keptWait (s : State) (w : Warp) : Nat × Nat × Nat :=
  match w.wait with
  | none => (0, 0, 0)
  | some x =>
    let left := match x.kind with
      | .sleep start span => span.toNat - s.elapsed start
      | .mbwait _ _ _ start limit => if limit = 0xFFFFFFFF then limit.toNat else limit.toNat - s.elapsed start
      | _ => 0
    (left, x.kind.keptCode, x.pc)

/-- Loop record d of a list whose head is the innermost. -/
def recordAt (l : List LoopRec) (d : Nat) : LoopRec := l.reverse.getD d ⟨0, 0, 0⟩

/-- R402, but for the device sections. -/
def warpSegs (s : State) (t : Team) (w : Warp) : List Seg :=
  let a := t.warpAt w.num
  let flags := (if w.exited then 1 else 0) + (if w.inh then 2 else 0) + (if w.taskst then 4 else 0)
    + (if w.taskPending then 8 else 0)
    + (if w.opLog.isEmpty && w.pending.isEmpty && !(w.exited && t.halted == some w.num) then 0 else 16)
  let loops (l : List LoopRec) : List Byte := (List.range 3).flatMap fun d => nat64s [(recordAt l d).start, (recordAt l d).exitAddr]
  let (left, kind, pc) := keptWait s w
  [(a, leBytes 1 (roleCode w.role) ++ leBytes 1 w.num ++ leBytes 1 w.part ++ leBytes 1 flags ++ leBytes 2 w.privIndex
      ++ leBytes 1 w.q.toNat ++ leBytes 1 w.hq.toNat ++ w32s [w.live, w.lateLanes]
      ++ w32s (tab 8 fun k => kget w.waitK k 0) ++ w32s (tab 8 fun k => kget w.jm k 0) ++ w32s (tab 3 fun k => kget w.lc k 0)
      ++ leBytes 2 w.loops.length ++ leBytes 2 w.hloops.length ++ loops w.loops
      ++ nat64s [w.link.toNat] ++ w32s [w.fpflags, w.trc] ++ nat64s [w.age.toNat, left, kind, pc]),
   (a + 0xC0, loops w.hloops ++ w32s (tab 4 fun d => (recordAt w.hloops d).count)),
   (a + 0x100, w32s [w.tcause, w.tinfo, w.tlanes, w.tact] ++ nat64s [w.tpc.toNat, w.t0.toNat, w.taddr.toNat, w.hpc] ++ w32s [w.dcause]
      ++ List.replicate 44 0),
   (a + 0x160, w32s (tab 8 fun k => kget w.hs k 0) ++ List.replicate 128 0),
   (a + 0x200, w32s (tab 64 w.sr)),
   (a + 0x300, nat64s (tab 32 fun l => canon57 (w.vpcOf l))),
   (a + 0x400, (tab 32 fun l => BitVec.ofNat 8 (lsum (tab 7 fun n => if laneBit (kget w.p n 0) l then 2 ^ n else 0)))
     ++ List.replicate 224 0),
   (a + 0x3700, List.replicate 2304 0),
   (a + 0x4000, (List.range t.frameVr).flatMap fun n => w32s (tab 32 fun l => w.vr l n))]

/-- Writes a frame at a physical address under a key; its free values are numbered from the counter on. -/
def writeFrame (s : State) (t : Team) (warps : KMap Warp) (pa key : Nat) : State :=
  let c := s.freeCtr
  let free (o : Nat) : Byte := BitVec.ofNat 8 (Config.freeValue (c + o))
  let dev : List Seg := t.deviceSections.map fun e => (e.1, tab e.2 fun i => free (e.1 + i))
  let segs := headerSegs s t warps ++ ((List.range t.parts).flatMap fun p => partSegs t p free)
    ++ (warps.flatMap fun w => warpSegs s t w.2) ++ dev ++ [(0x3C, leBytes 4 (crc32 (dev.flatMap (·.2))).toNat)]
  segs.foldl (fun s e => s.writeHome (.own (pa + e.1) key) e.2) { s with freeCtr := c + t.frameSize }

/-! ## What a restore reads -/

/-- R397 step 1: FVER is 1 and FCHK agrees; no unit of the frame is damaged. -/
def frameOk (s : State) (f : Frame) : Bool :=
  let rd (o n : Nat) : List Byte := s.homeBytes (.own (f.pa + o) f.key) n
  leNat (rd 0 4) == 1 && leNat (rd 0x3C 4) == (crc32 (f.team.deviceSections.flatMap fun e => rd e.1 e.2)).toNat
    && (s.bad.isEmpty || (List.range (f.team.frameSize / 128)).all fun k => (s.homeBad (.own (f.pa + 128 * k) f.key) 128).isNone)

/-- The cells of a run of bytes, without the zeros. -/
def cellsOf (n : Nat) (f : Nat → Byte) : List Host.Cell := ((List.range n).map fun i => (i, f i)).filter fun c => c.2 != 0

/-- R398, R399: the frame with the allotment that its header gives, which lays the rest of it out. -/
def Frame.edited (s : State) (f : Frame) : Frame :=
  let a := leNat (s.homeBytes (.own (f.pa + 0x20) f.key) 4)
  if a ≤ Config.spadBytes then { f with team := { f.team with allot := a } } else f

/-- The team of a frame, with what software may have edited read back (R398). DEDUCED, notes/assumptions/151.md: the
fields FSIZE, KDESC, LAUNCH, NWARP, NPART and FLAGS[0] name what the launch and its descriptor fixed once (R31), and
change nothing. -/
def readTeam (rd : Nat → Nat → Nat) (t : Team) : Team :=
  let part (t' : Team) (p : Nat) : Team :=
    let a := t.partAt p
    let flag (base i : Nat) : Bool := (rd (a + base + i / 8) 1).testBit (i % 8)
    let ring (line : Nat) : Bool := p == 0 && t.desc.inPergola (128 * line) 128
    let lines := (List.range (t.allot / 128)).filter fun line => !ring line
    let sp : Spad :=
      { cells := cellsOf t.allot fun i =>
          if ring (i / 128) || flag 0xAC00 (i / 128) then 0 else BitVec.ofNat 8 (rd (a + 0xB000 + i) 1)
        absent := lines.filter fun i => !flag 0xAA00 i
        written := (List.range (t.allot / 128)).filter fun i => !flag 0xAC00 i }
    let bank (k : Nat) : KMap (List W32) :=
      tab 256 fun i => (i, tab 3 fun j => BitVec.ofNat 32 (rd (a + 0x8A00 + 4096 * k + 16 * i + 4 * j) 4))
    let act := match kget? t.savedAct p with
      | none => t'.savedAct
      | some x => kput t'.savedAct p { x with bank0 := bank 0, bank1 := bank 1 }
    let mbs := (List.range 32).foldl (fun m b =>
      let o := a + 16 * b
      if (rd (o + 12) 1).testBit 0 then
        kput m (p * 32 + b)
          { phase := BitVec.ofNat 32 (rd o 4), expect := rd (o + 4) 2, arrive := rd (o + 6) 2
            pend := (BitVec.ofNat 32 (rd (o + 8) 4)).toInt, err := (rd (o + 12) 1).testBit 1 }
      else kdel m (p * 32 + b)) t'.mbars
    let t' := (List.range t.desc.nmaths).foldl (fun t' w =>
      t'.setOrang p w (cellsOf t.desc.orang fun i => BitVec.ofNat 8 (rd (a + 0xB000 + t.allot + w * t.desc.orang + i) 1))) t'
    let t' := (t.pergolas p).foldl (fun t' q =>
      let b := t.desc.pergBase q
      let at' (o n : Nat) : Nat := if flag 0xAC00 ((b + o) / 128) then 0 else rd (a + 0xB000 + b + o) n
      t'.setPerg q
        { wpos := BitVec.ofNat 32 (at' 0 4), rpos := BitVec.ofNat 32 (at' 4 4), depth := at' 8 1, shut := (at' 9 1).testBit 0
          ring := tab (pergDepth (t.pergDecl q)) fun i => (i, BitVec.ofNat 64 (at' (128 + 8 * i) 8)) }) t'
    { t'.setSpad p sp with savedAct := act, mbars := mbs }
  let t' := (List.range t.parts).foldl part t
  let flags := rd 0x1D 1
  let held (m : KMap ActStore) : KMap ActStore :=
    if flags.testBit 2 then kmap (fun p x => if p = 0 then { x with active := if flags.testBit 3 then 1 else 0 } else x) m else []
  { t' with
    x := rd 0x10 4, y := rd 0x14 4, z := rd 0x18 4, gangNum := rd 0x38 4, parked := flags.testBit 1, savedAct := held t'.savedAct
    bars := tab 8 fun b => (b, ⟨rd (0x40 + 8 * b) 1, rd (0x41 + 8 * b) 1⟩)
    layouts := ((List.range 16).map fun k => (k, tab 128 fun i => BitVec.ofNat 8 (rd (0x80 + 128 * k + i) 1))).filter fun e =>
      (recRefusal e.2).isNone }

/-- R394, R398: a kept wait as its frame gives it: one whose kind was changed is withdrawn; one with a time goes on with what
it has left; a BAR wait is that of the barrier which counts the warp. -/
def keptStart (s : State) (left code pc : Nat) (onBar : Nat → Bool) (x : Wait) : Option Wait :=
  let back (span : Nat) : Nat := (s.time - BitVec.ofNat 64 (span - left)).toNat
  if x.kind.keptCode != code then none
  else
    let x := { x with pc := pc }
    some (match x.kind with
    | .sleep _ span => { x with kind := .sleep (back span.toNat) span }
    | .mbwait b ph qd _ limit => { x with kind := .mbwait b ph qd (back limit.toNat) limit }
    | .bar b => { x with kind := .bar (((List.range 8).find? onBar).getD b) }
    | _ => x)

/-- The role of a code; one that names none leaves the role. -/
def roleOf (code : Nat) (r : Role) : Role := match code with | 0 => .copy | 1 => .maths | 2 => .epilogue | _ => r

/-- A warp of a frame, with what software may have edited read back (R398); reserved bits stay zero (R5). -/
def readWarp (s : State) (rd : Nat → Nat → Nat) (t : Team) (w : Warp) : Warp :=
  let a := t.warpAt w.num
  let r (o n : Nat) : Nat := rd (a + o) n
  let w32 (o : Nat) : W32 := BitVec.ofNat 32 (r o 4)
  let w64 (o : Nat) : W64 := BitVec.ofNat 64 (r o 8)
  let flags := r 3 1
  let loops (base n : Nat) (count : Nat → W32) : List LoopRec :=
    (tab (min n 3) fun d => (⟨r (base + 16 * d) 8, r (base + 16 * d + 8) 8, count d⟩ : LoopRec)).reverse
  { w with
    role := roleOf (r 0 1) w.role, num := r 1 1, part := if r 2 1 < t.parts then r 2 1 else w.part, badRegs := []
    exited := flags.testBit 0, taskst := flags.testBit 2, privIndex := r 4 2
    q := BitVec.ofNat 7 (r 6 1), hq := BitVec.ofNat 7 (r 7 1), live := if flags.testBit 0 then 0 else w32 8
    waitK := (tab 8 fun k => (k, w32 (0x10 + 4 * k))).filter fun e => e.2 != 0
    jm := tab 8 fun k => (k, w32 (0x30 + 4 * k)), lc := tab 3 fun k => (k, w32 (0x50 + 4 * k))
    loops := loops 0x60 (r 0x5C 2) fun _ => 0, hloops := loops 0xC0 (r 0x5E 2) fun d => w32 (0xF0 + 4 * d)
    link := w64 0x90, fpflags := w32 0x98 &&& Config.fpflagsMask, trc := w32 0x9C, age := w64 0xA0
    inh := flags.testBit 1, taskPending := flags.testBit 3
    wait := w.wait.bind (keptStart s (r 0xA8 8) (r 0xB0 8) (r 0xB8 8) fun b => (rd (0x44 + 8 * b) 4).testBit w.num)
    tcause := w32 0x100 &&& Config.tcauseMask, tinfo := w32 0x104, tlanes := w32 0x108, tact := w32 0x10C
    tpc := w64 0x110, t0 := w64 0x118
    taddr := w64 0x120, hpc := r 0x128 8, dcause := w32 0x130 &&& Config.tcauseMask, hs := tab 8 fun k => (k, w32 (0x160 + 4 * k))
    s := tab 64 fun k => (k, w32 (0x200 + 4 * k)), vpc := tab 32 fun l => BitVec.ofNat 57 (r (0x300 + 8 * l) 8)
    p := tab 7 fun n => (n, maskOf fun l => (r (0x400 + l) 1).testBit n)
    v := tab t.frameVr fun n => (n, tab 32 fun l => w32 (0x4000 + 128 * n + 4 * l)) }

end Sys2Proof.Machine
end

