-- ==== Sys2Proof/Machine/Preempt.lean ====
section
/-! DEFINITION. Pre-emption (R394 to R396), restore (R397, R398) and the PRECMD commands (R395). -/

namespace Sys2Proof.Machine

/-! ## Steps 1 to 3 of a pre-emption (R394) -/

/-- A whole-warp wait that a pre-emption keeps (R290, R308, R310, R35). -/
def WaitKind.kept : WaitKind → Bool
  | .pushQ _ _ _ _ | .popQ _ _ _ _ _ | .bar _ | .gbar _ | .racq | .sleep _ _ | .mbwait _ _ _ _ _ => true
  | .mbinit | .rrel | .fence | .windowClose | .mwait | .twait | .xwait | .atIssue | .actStore | .evpost | .asdrop | .taskSlot
  | .commit | .fetch => false

/-- A snapshot is restored under a handler, which goes on: its own windows and its wait stay, and its TRET moves no lane. -/
def Warp.restoreUnder (w : Warp) (x : Snapshot) (pc : Nat) : Warp :=
  { w.restore x pc with
    windows := w.owing ++ w.windows.filter fun x => x.handler && !(x.closed && x.dead != 0), wait := w.wait, tact := 0, deferredRetry := none, deferredWound := false
    opLog := w.opLog.filter fun e => match e.source with | .window q => decide (w.hseq ≤ q) || w.owing.any (fun y => y.acc.seq == q) | .store | .copy _ _ => true }

/-- R333: the task of a warp is rolled back, so that the frame holds no snapshot. DESIGN CHOICE, notes/assumptions/133.md: a
warp in handler mode, too, has its registers and lanes restored now, and its handler goes on with them. -/
def rollbackFor (s : State) (wid : Nat) (w : Warp) : State :=
  if !w.inh then rollback s wid w
  else
    let s := if w.task.isNone && w.deferredRetry.isNone then s
      else s.dropWaiters fun x => match x with | .lane v q _ => v == wid && decide (q < w.hseq) && !w.owing.any (fun y => y.acc.seq == q) | _ => false
    match w.deferredRetry, w.task, s.taskSlot w with
    | some (snap, pc), _, _ => s.setWarp wid (w.restoreUnder snap pc)
    | none, some t, some k =>
      let (s, w) := leaveTask s wid w
      s.setWarp wid { w.restoreUnder k.snap t.beginPc with trc := w.trc + 1, taskPending := true }
    | _, _, _ => s

/-- R394, steps 1 to 3. -/
def startPreempt (s : State) (tid : Nat) (t : Team) : State :=
  let s := s.setTeam tid { t with preempting := true }
  let mine := s.teamWarps tid
  let s := t.cores.foldl (fun s c =>
    let x := s.core c
    s.setCore c { x with slots := kmap (fun _ y => { y with
      run := match y.run with | some r => if mine.contains r.1 then none else some r | none => none }) x.slots }) s
  let s := mine.foldl (fun s wid => match s.warp? wid with
    | some w => rollbackFor s wid w
    | none => s) s
  { s with
    warps := kmap (fun k w =>
      if mine.contains k then { w with wait := w.wait.filter fun x => x.kind.kept } else w) s.warps }

/-! ## Saving (R394, steps 4 to 6) -/

/-- Renames an entry of an outstanding-copy table in page requests and refusals. -/
def renameCopy (s : State) (a b : Nat × Nat) : State :=
  let f (w : Waiter) : Waiter := match w with
    | .copy c k o => if c = a.1 && k = a.2 then .copy b.1 b.2 o else w
    | _ => w
  { s with
    pri := kmap (fun _ r => { r with waiters := r.waiters.map f }) s.pri
    priDenied := s.priDenied.map fun d => (f d.1, d.2)
    priGranted := s.priGranted.map fun d => (f d.1, d.2) }

/-- Renames it in a warp's operand log. -/
def Warp.renameCopy (w : Warp) (a b : Nat × Nat) : Warp :=
  { w with
    opLog := w.opLog.map fun e => { e with source := if e.source = .copy a.1 a.2 then .copy b.1 b.2 else e.source }
    storeQ := w.storeQ.map fun x => { x with kind := if x.kind = .copyGo a.1 a.2 then .copyGo b.1 b.2 else x.kind } }

/-- Step 5 of R394: no chunk of a team's copies, and no step of its arrays, is in the middle. -/
def asyncAtBoundary (s : State) (tid : Nat) (t : Team) : Bool :=
  t.cores.all (fun c => (s.core c).copies.all fun e => e.2.team != tid || !e.2.midChunk)
    && t.mats.all fun m => match m.2.ops with
      | [] => true
      | o :: _ => !o.begun 0 && !o.begun 1

/-- The accesses of a team have drained as step 4 asks. DESIGN CHOICE, notes/assumptions/131.md: a store that program order
holds behind a load which has not been answered is kept with it. -/
def teamDrained (s : State) (tid : Nat) : Bool :=
  let mine := s.teamWarps tid
  mine.all (fun k => match s.warp? k with
    | none => true
    | some w =>
      match w.storeQ with
      | [] => true
      | x :: _ => s.headWaits w x || (!x.parts.isEmpty && x.parts.all fun p => w.logged .store p.lane))
    && !(s.fab.any fun r => r.2.op != .read && match r.2.who with
      | .lane w _ _ | .store w _ _ | .word w _ | .commit w _ => mine.contains w
      | .copy core k _ => (kget? (s.core core).copies k).any fun c => c.team == tid
      | _ => false)

/-- A free slot of a context's pool. -/
def freeFrame (s : State) (c : Context) : Option Nat :=
  (List.range c.nslot).find? fun k => !(leNat (s.homeBytes (.own (c.fpool + k / 8) c.fkey) 1)).testBit (k % 8)

/-- Sets or clears a bit of the busy map (R383). -/
def setBusy (s : State) (pool key k : Nat) (v : Bool) : State :=
  let l := Loc.own (pool + k / 8) key
  let b := s.homeByte l
  s.putHome l (if v then b ||| (1#8 <<< (k % 8)) else b &&& ~~~(1#8 <<< (k % 8)))

/-- R394, step 6, once the accesses have drained: the frame is written to slot k and the team leaves its cores. -/
def saveFrame (s : State) (tid : Nat) (t : Team) (c : Context) (k : Nat) : State :=
  let pa := c.fpool + 4096 + k * c.fslot
  let parts := List.range t.parts
  let copies : List (Nat × Nat × Copy) := parts.flatMap fun p =>
    ((s.core (t.cores.getD p 0)).copies.filter fun e => e.2.team == tid).map fun e => (p, e.1, { e.2 with work := Chunk.fresh })
  let copies := lsort (fun e => e.2.2.order) copies []
  let acts := parts.foldl (fun m p =>
    let x := (s.core (t.cores.getD p 0)).act
    if x.holder = some tid then kput m p { x with holder := none } else m) t.savedAct
  let t := { t with savedAct := acts, haltPosted := false, stuckSince := none, pergTurn := [] }
  let warps := s.warps.filter fun w => w.2.team == tid
  let s := setBusy (writeFrame s t warps pa c.fkey) c.fpool c.fkey k true
  let saved : KMap Warp := kmap (fun _ w =>
    let w := copies.foldl (fun w e => w.renameCopy (t.cores.getD e.1 0, e.2.1) (savedCopyCore tid e.1, e.2.1)) w
    { w with wait := w.wait.map fun x => match x.kind with
      | .sleep start span => { x with kind := .sleep (s.elapsed start) span }
      | .mbwait b ph qd start limit => { x with kind := .mbwait b ph qd (s.elapsed start) limit }
      | _ => x }) warps
  let s := copies.foldl (fun s e => renameCopy s (t.cores.getD e.1 0, e.2.1) (savedCopyCore tid e.1, e.2.1)) s
  let s := { s with fab := s.fab.filter fun r => match r.2.who with
    | .lane w _ _ | .store w _ _ | .fetch w | .word w _ => (kget? warps w).isNone
    | .copy core j _ => !((kget? (s.core core).copies j).any fun x => x.team == tid)
    | _ => true }
  let s := t.cores.foldl (fun s core =>
    let x := s.core core
    s.setCore core { x with copies := x.copies.filter fun e => e.2.team != tid }) s
  let preempted := ((kget? s.contexts t.ctx).map (·.preempted)).getD false
  let f : Frame :=
    { ctx := t.ctx, slot := k, pa := pa, pool := c.fpool, key := c.fkey, team := { t with swap := false }
      warps := saved, copies := copies
      halt := t.halted, queued := false, released := [], fault := t.swap && t.halted.isNone && !preempted }
  { freeTeam s tid t with frames := kput s.frames tid f }

/-- R398: the TRAP event of a halted team, posted once: when its frame has been saved, or when no slot is free for it. -/
def haltEvent (before s : State) (tid : Nat) (t : Team) : State :=
  if t.haltPosted then s
  else match t.halted.bind fun num => before.warps.find? fun w => w.2.team == tid && w.2.num == num with
  | none => s
  | some (_, w) => s.postEvent t.ctx 2 w.num w.core (BitVec.ofNat 32 w.num) w.tcause

/-- R395: PRECMD pre-empt completes once no team of its context is left to save. A halted team that finds no slot stays, and
counts among those for which RESULT is 2. -/
def preemptDone (s : State) : State :=
  match s.regs.preBusy with
  | none => s
  | some n =>
    let left := s.teams.filter fun t => t.2.ctx == n && t.2.preempting
    let room (t : Team) : Bool := (kget? s.contexts n).any fun c => decide (t.frameSize ≤ c.fslot) && (freeFrame s c).isSome
    if left.any fun t => t.2.halted.isNone || room t.2 then s
    else
      (s.devSignal s.regs.presig).modRegs fun g =>
        { g with preBusy := none, preResult := if g.preFull || !left.isEmpty then 2 else 0, preFull := false }

/-- FRAME_SAVE (R394, R398): a team that is being pre-empted, or that has been halted, is saved once its accesses have
drained. Where no slot is free, a halted team stays, its TRAP event posted, and any other keeps running. -/
def execFrameSave (team : Nat) (s : State) : Out :=
  match s.team? team with
  | none => .next s
  | some t =>
    if !t.preempting then .next (if t.halted.isSome && !s.diesStopped then startPreempt s team t else s)
    else
      match kget? s.contexts t.ctx with
      | none => .next s
      | some c =>
        let s := (s.teamWarps team).foldl (fun s k => match s.warp? k with
          | some w => let (s, w) := pumpAll s k w; s.setWarp k w
          | none => s) s
        let (s, ok0) := releaseCopies s 0 .system
        let (s, ok1) := releaseCopies s 1 .system
        let t := (s.team? team).getD t
        if !(ok0 == .done && ok1 == .done && teamDrained s team && asyncAtBoundary s team t) then .next s
        else
          match (if t.frameSize ≤ c.fslot then freeFrame s c else none) with
          | some k => .next (preemptDone (haltEvent s (saveFrame s team t c k) team t))
          | none =>
            let s := s.modRegs fun g => { g with preFull := g.preFull || g.preBusy == some t.ctx }
            .next (preemptDone (if t.halted.isSome then (haltEvent s s team t).setTeam team { t with haltPosted := true }
              else s.setTeam team { t with preempting := false, swap := false }))

/-! ## Page-fault swap-out (R396) -/

/-- A waiter of a team's accesses. -/
def State.waiterTeam (s : State) (tid : Nat) : Waiter → Bool
  | .lane w _ _ | .store w _ _ | .fetch w | .word w _ | .commit w _ => (s.warp? w).any fun x => x.team == tid
  | .copy core k _ => (kget? (s.core core).copies k).any fun c => c.team == tid
  | _ => false

/-- Something waits for admission that would fit on a team's cores once they are free. -/
def wouldFit (s : State) (tid : Nat) (t : Team) : Bool :=
  let s' := freeTeam s tid t
  (s.launches.any fun l => launchAsks s l.2 && couldUse s' l.2.need t.cores)
    || ((s.frames.map fun f => f.2.team.gang).eraseDups.any fun g => gangAsks s g && couldUse s' (frameNeed s' g) t.cores)

/-- PAGE_FAULT_SWAP_OUT (R396). -/
def execPageFaultSwapOut (team : Nat) (s : State) : Out :=
  match s.team? team with
  | none => .next s
  | some t =>
    match kget? s.contexts t.ctx with
    | none => .next s
    | some c =>
      let old := s.pri.any fun r => r.2.waiters.any (s.waiterTeam team)
        && decide (c.pfTime * microsecond ≤ s.elapsed r.2.since)
      if c.pfTime != 0xFFFFFFFF && old && t.desc.gangSize == 1 && !t.preempting && t.halted.isNone && wouldFit s team t then
        .next (startPreempt s team { t with swap := true })
      else .next s

/-! ## Restore (R397, R398) -/

/-- R290, R241: the words that a restored team's warps are parked on are presented again. -/
def presentParked (s : State) (tid : Nat) (t : Team) : State :=
  let s := t.mbars.foldl (fun s e => wakeMbwait s tid (t.cores.getD (e.1 / 32) 0) (e.1 % 32) e.2.phase) s
  (List.range 16).foldl (fun s q => servePergola s tid q) s

/-- One team of a gang enters its new cores from its frame. -/
def restoreTeam (s : State) (tid : Nat) (f : Frame) (core : Nat) : State :=
  let rd (o n : Nat) : Nat := leNat (s.homeBytes (.own (f.pa + o) f.key) n)
  let s := s.tick
  let t := f.team
  let cores := t.desc.coresAt core
  let banks := t.desc.banksAt s core
  let t := readTeam rd t
  let ctx := rd 0x1C 1
  let t := { t with
    ctx := if s.ctxActive ctx then ctx else t.ctx, cores := cores, admitOrder := s.stamp, halted := none, preempting := false
    mats := t.mats.map fun m => (m.1, { m.2 with
      bank := banks.getD m.1 0
      ops := m.2.ops.map fun o => if o.kind = kAcccpy && o.steps < o.total then { o with steps := 0 } else o }) }
  let s := s.setTeam tid t
  -- the copies re-enter in their saved order
  let (s, names) := f.copies.foldl (fun (s, names) e =>
    let c := cores.getD e.1 0
    let x := s.core c
    let k := kfresh x.copies
    let s := s.tick
    let s := s.setCore c { x with copies := kput x.copies k { e.2.2 with order := s.stamp } }
    let a := (savedCopyCore tid e.1, e.2.1)
    (renameCopy s a (c, k), names ++ [(a, (c, k))])) (s, ([] : List ((Nat × Nat) × (Nat × Nat))))
  let s := f.warps.foldl (fun s e =>
    let w := readWarp s rd f.team e.2
    let w := names.foldl (fun w n => w.renameCopy n.1 n.2) w
    let core := cores.getD w.part 0
    let w := match w.wait with
      | some x => if f.released.contains e.1 then w.release x else w
      | none => w
    let w := { w with
      core := core, pipe := if w.role = .epilogue then freePipe s core else 0
      tretDue := f.halt == some e.2.num && (rd 0x1D 1).testBit 4 }
    (s.acquire core .system).setWarp e.1 w) s
  let s := setBusy { s with frames := kdel s.frames tid } f.pool f.key f.slot false
  let s := presentParked s tid t
  match f.halt.filter fun _ => (rd 0x1D 1).testBit 4 with
  | none => s
  | some num =>
    match f.warps.find? fun e => e.2.num == num with
    | none => s
    | some (k, _) => match s.warp? k with
      | none => s
      | some w => payTret s k w

/-- FRAME_RESTORE (R397, R398): the saved teams of the frame's gang are restored together. A frame that fails its check
stays saved. -/
def execFrameRestore (frame : Nat) (cores : List Nat) (s : State) : Out :=
  match kget? s.frames frame with
  | none => .next s
  | some f0 =>
    let g := f0.team.gang
    let fs := s.frames.filter fun f => f.2.team.gang == g
    let o := gangOffer s g
    let all := cores.flatMap f0.team.desc.coresAt
    if !s.up 5 || s.diesStopped || !gangAsks s g || !placeFits s (frameNeed s g) cores || earlierUse s o all
        || keptForOther s none o.prio all then .next s
    else if fs.any fun f => !frameOk s f.2 then
      .next ({ s with frames := kmap (fun _ f => if f.team.gang == g then { f with queued := false, fault := false } else f) s.frames }.modRegs
        fun r => { r with preResult := 3 })
    else
      .next (touchSince ((List.range fs.length).foldl (fun s i => match fs[i]? with
        | none => s
        | some (tid, f) => restoreTeam s tid f (cores.getD i 0)) s) o)

/-! ## PRECMD (R395) -/

/-- PRECMD with its checks: the block is up and idle; RESULT 1 when the context is not active. The recovery record is read
again, and no field of the context record is (R339). -/
def preCommand (s : State) (n : Nat) (go : State → State) : Out :=
  if !s.up 4 || s.regs.preBusy.isSome || 64 ≤ n then .next s
  else if !s.ctxActive n then .next ((s.devSignal s.regs.presig).modRegs fun g => { g with preResult := 1 })
  else
    .next (go (match s.readRecovery n with
      | (s, none) => s
      | (s, some r) => s.modCtx n fun c => if recoveryOk c.keyMask r then c.withRecovery r else c))

/-- PRECMD_PREEMPT (R394, R395). -/
def execPrecmdPreempt (ctx : Nat) (s : State) : Out :=
  preCommand s ctx fun s =>
    let s := (s.modCtx ctx fun c => { c with preempted := true }).modRegs fun g => { g with preBusy := some ctx, preFull := false }
    let s := (kwhere s.teams fun _ t => t.ctx == ctx && !t.preempting).foldl (fun s tid => match s.team? tid with
      | some t => startPreempt s tid t
      | none => s) s
    preemptDone s

/-- PRECMD_RESUME (R395): every saved frame that passes its check is queued for admission. -/
def execPrecmdResume (ctx : Nat) (s : State) : Out :=
  preCommand s ctx fun s =>
    let s := { s with frames := kmap (fun _ f => if f.ctx = ctx then f.edited s else f) s.frames }
    let bad := s.frames.any fun f => f.2.ctx == ctx && !frameOk s f.2
    let frames := kmap (fun _ f => if f.ctx = ctx then { f with queued := frameOk s f, fault := false } else f) s.frames
    (({ s with frames := frames }.modCtx ctx fun c => { c with preempted := false }).devSignal s.regs.presig).modRegs fun g =>
      { g with preResult := if bad then 3 else 0 }

/-- A saved team is given up: its slot is free and its requests are forgotten. -/
def dropFrame (s : State) (tid : Nat) (f : Frame) : State :=
  let s := setBusy s f.pool f.key f.slot false
  let s := s.dropWaiters fun w => match w with
    | .lane k _ _ | .store k _ _ | .fetch k | .word k _ => (kget? f.warps k).isSome
    | .copy core _ _ => core == savedCopyCore tid 0 || core == savedCopyCore tid 1
    | _ => false
  { s with frames := kdel s.frames tid }

/-- PRECMD_DISCARD (R395). -/
def execPrecmdDiscard (ctx : Nat) (s : State) : Out :=
  preCommand s ctx fun s =>
    let mine := s.frames.filter fun f => f.2.ctx == ctx
    let s := mine.foldl (fun s f =>
      let s := dropFrame s f.1 f.2
      { s with launches := kmod s.launches f.2.team.launch fun l => { l with status := some (l.status.getD 0x80) } }) s
    (s.devSignal s.regs.presig).modRegs fun g => { g with preResult := 0 }

end Sys2Proof.Machine
end

