-- ==== Sys2Proof/Machine/Links.lean ====
section
/-! DEFINITION. Lost links (R408), evictions and scrubbing (R14, R404 to R406), and the peer aperture (R423, R424). -/

namespace Sys2Proof.Machine

/-! ## RDC_EVICTION (R14, R406) -/

/-- RDC_EVICTION: a line of a die's RDC is written back where it is dirty, and leaves. -/
def execRdcEviction (die line : Nat) (s : State) : Out :=
  match kget? (s.rdc die) line with
  | none => .next s
  | some _ =>
    match locOfLine line with
    | .own _ _ | .host _ => .next ((s.writeBackRdc die line).dropRdc die line)
    | .peer _ _ =>
      match flushPeers s die [line] with
      | (s, .done) => .next (s.dropRdc die line)
      | (s, .wait) | (s, .fail _) => .next s

/-! ## PATROL_SCRUB (R405, R409) -/

/-- The unit that a scrub read reaches. -/
def unitOf : StoreUnit → Nat × Nat × Nat
  | .hbm pa => (1, 0, pa / 64)
  | .onChip kind owner index => (kind.toNat, owner, index)

/-- R412: DATUM for a unit: its physical address in HBM, L2 or RDC, 0 for on-core storage. -/
def unitAddr (u : Nat × Nat × Nat) : Nat :=
  if u.1 = 1 then u.2.2 * 64
  else if u.1 = 2 || u.1 = 3 then (locOfLine (u.2.2 / 8)).phys / 128 * 128 + u.2.2 % 8 * 16
  else 0

/-- PATROL_SCRUB: a correctable unit is corrected and counted; one that cannot be corrected is reported to the host, with
bit 8 of CODE clear, and left. -/
def execPatrolScrub (unit : StoreUnit) (s : State) : Out :=
  let u := unitOf unit
  if s.correctable.contains u then
    .next { s with
      correctable := s.correctable.filter (· != u)
      err := { s.err with ceCnt := min (s.err.ceCnt + 1) (2 ^ 64 - 1) } }
  else if s.isBad u || ((u.1 == 8 || u.1 == 9) && (s.warp? u.2.1).any fun w => w.badRegs.contains (regOfUnit u.1 u.2.2)) then
    .next (s.hostError 0xFF 0xFF 0xFFFF (BitVec.ofNat 32 u.1) (BitVec.ofNat 32 (unitAddr u)))
  else .next s

/-! ## Lost links (R408) -/

/-- A team ends where it stands: its tasks, its copies and its requests go, and its cores are free. -/
def endTeam (s : State) (tid : Nat) (t : Team) : State :=
  let mine := s.teamWarps tid
  let s := mine.foldl (fun s k => match s.warp? k with
    | some w => if w.task.isSome then (let (s, w) := leaveTask s k w; s.setWarp k w) else s
    | none => s) s
  let s := s.dropWaiters fun w => s.waiterTeam tid w
  let s := t.cores.foldl (fun s c =>
    let x := s.core c
    s.setCore c { x with copies := x.copies.filter fun e => e.2.team != tid }) s
  freeTeam s tid t

/-- A context ends: its teams, frames, jobs, launches, translations and requests. -/
def endContext (s : State) (n : Nat) : State :=
  let s := (kwhere s.teams fun _ t => t.ctx == n).foldl (fun s tid => match s.team? tid with
    | some t => endTeam s tid t
    | none => s) s
  let gone : List (Nat × Frame) := s.frames.filter fun f => f.2.ctx == n
  let s := s.dropWaiters fun w => match w with
    | .lane k _ _ | .store k _ _ | .fetch k | .word k _ | .commit k _ => gone.any fun f => (kget? f.2.warps k).isSome
    | .copy c _ _ => gone.any fun f => c == savedCopyCore f.1 0 || c == savedCopyCore f.1 1
    | .job ctx _ _ _ | .launch ctx _ _ | .hwm ctx _ => ctx == n
    | .rdc _ _ | .lease _ | .none => false
  let s := s.dropTlb fun e => e.ctx == n
  let s := { s with
    frames := s.frames.filter fun f => f.2.ctx != n
    streams := kmap (fun k x => if k / 16 = n then { x with jobs := x.jobs.filter (·.complete) } else x) s.streams
    launches := kmap (fun _ l =>
      if l.ctx = n then { l with status := some (l.status.getD 0x80), reserved := none } else l) s.launches
    queues := s.queues.filter fun q => q.1 / 64 != n
    ats := s.ats.filter fun r => r.2.ctx != n
    pri := s.pri.filter fun r => r.2.ctx != n
    priTries := s.priTries.filter fun r => r.1 % 64 != n }
  s.modCtx n fun c => { c with active := false, retiring := false }

/-- PCIE_LINK_DOWN (R408): every context is ended. Unfinished launches complete once the link is up. -/
def execPcieLinkDown (s : State) : Out :=
  let s := (kwhere s.contexts fun _ c => c.active).foldl endContext s
  .next ({ s with pcieUp := false }.modRegs fun g => { g with ctxBusy := none, preBusy := none, preFull := false })

/-- PCIE_LINK_UP (R408). -/
def execPcieLinkUp (s : State) : Out := .next { s with pcieUp := true }

/-- UCIE_LINK_FAILURE (R408, R403, R420): both dies stop. Every team is halted without a frame, the host log receives one
record, and READY bit 3 clears after it. -/
def execUcieLinkFailure (s : State) : Out :=
  if s.diesStopped then .next s
  else
    let s := { s with diesStopped := true, teams := kmap (fun _ t => { t with halted := some (t.halted.getD 0xFF) }) s.teams }
    let s := s.hostError 0xFF 0xFF 0xFFFF 0x10F 0
    let was := s.up 3
    let s := s.modRegs fun g => { g with ready := g.ready &&& ~~~(1#11 <<< 3) }
    .next (if was then s.raiseVec 1 else s)

/-! ## The peer aperture (R423, R424) -/

/-- APWIN fields. -/
def apBase (x : W64) : Nat := x.toNat / 2 ^ 21 % 2 ^ 31 * 2 ^ 21
def apKey (x : W64) : Nat := x.toNat / 2 ^ 8 % 128
def apReserved (x : W64) : Bool := x &&& 0xFFF00000001F80F8#64 != 0

/-- R423: the location that a request at window w and offset o is served at; none where it is unsupported. -/
def apertureLoc (s : State) (w o n : Nat) (write : Bool) : Option Loc :=
  let x := kget s.regs.apwin w 0
  let pa := apBase x + o
  let key := apKey x
  let loaded := match kget? s.keys key with | some k => k.loaded | none => false
  let lent := s.leases.any fun e =>
    e.2.lender && (e.2.st == .active || e.2.st == .reclaiming) && overlap e.2.lbase e.2.size pa n
  if !s.up 10 || !x.getLsbD 0 || !(if write then x.getLsbD 1 else x.getLsbD 2) || key = 0 || !loaded || apReserved x || lent
      || decide (2 ^ 32 < o + n) || decide (Config.hbmBytes < apBase x + 2 ^ 32) then none
  else some (.own pa key)

/-- The damaged storage kind that a read of n bytes meets, with its address, line by line. -/
def firstBad (s : State) (l : Loc) (n : Nat) : Option (Nat × Nat) :=
  (List.range n).findSome? fun i => (s.homeBad (l.plus i) 1).map fun k => (k, (l.plus i).phys)

/-- PEER_REQUEST (R423, R424, R406). -/
def execPeerRequest (off : Nat) (req : PeerOp) (s : State) : Out :=
  let answer (s : State) (a : PeerAnswer) : Out := .next { s with reply := some (.peer a) }
  let w := off / 2 ^ 32
  let o := off % 2 ^ 32
  match req with
  | .read len =>
    match apertureLoc s w o len false with
    | none => answer s .unsupported
    | some l => match firstBad s l len with
      | some (k, pa) => answer (s.hostError 0xFF 0xFF 0xFFFF (BitVec.ofNat 32 (k + 0x100)) (BitVec.ofNat 32 pa)) .poisoned
      | none => answer s (.done (s.homeBytes l len))
  | .write bytes =>
    match apertureLoc s w o bytes.length true with
    | none => answer s .unsupported
    | some l =>
      let n := bytes.length
      let pa := l.phys
      let s := (s.writeHome l bytes).dropL1All fun t => match locOfLine t with
        | .own p _ => decide (p < pa + n) && decide (pa < p + 128)
        | .peer _ _ | .host _ => false
      answer s (.done [])

/-! ## CONTROL_STATE_PARITY_ERROR (R403, R398) -/

/-- SOFT on a warp whose team is about to be halted. -/
def softWarp (s : State) (wid : Nat) (w : Warp) : State :=
  let s := withdraw s w
  let t := warpTrap .soft 0 0x0E
  let at_ := w.trapAddr
  let lanes := w.trapLanes .soft
  let w := { w with wait := none }
  if w.inh then s.setWarp wid { w with tcause := Cause.double.code, dcause := t.cause.code, taddr := 0, tlanes := t.lanes, tinfo := t.info }
  else
    let thand := ((kget? s.contexts (s.ctxOf w)).map (·.thand)).getD 0
    let w := w.trapState t at_ lanes
    s.setWarp wid (if thand = 0 then w else w.enterHandler thand)

/-- CONTROL_STATE_PARITY_ERROR: SOFT with TINFO 0x0E on every warp, not exited, of every team on the core; each team is
then halted. Each team's context is told (R404). -/
def execControlStateParityError (core : Nat) (s : State) : Out :=
  let tids := kwhere s.teams fun _ t => t.cores.contains core && t.halted.isNone
  .next (tids.foldl (fun s tid =>
    let s := s.reportBad (((s.team? tid).map (·.ctx)).getD 0) 0xFF core 0x0E 0
    let mine := kwhere s.warps fun _ w => w.team == tid && !w.exited
    let s := mine.foldl (fun s k => match s.warp? k with | some w => softWarp s k w | none => s) s
    match mine.head?.bind s.warp? with
    | some w => halt s tid w
    | none => s) s)

end Sys2Proof.Machine
end

