-- ==== Sys2Proof/Machine/Services.lean ====
section
/-! DEFINITION. Device services: the management registers (R338, R366, R382, R409, R413, R417 to R426), reset and bring-up
(R49, R55, R420), trust (R425), power (R426) and special core states (R354). -/

namespace Sys2Proof.Machine

/-! ## Commands written to a register -/

def low (x : W64) (n : Nat) : Nat := x.toNat % 2 ^ n

/-- EVENT_QUEUE_ENABLE (R413): a write of EVQCTL. A queue that becomes enabled restarts its count at 0, and its header's
WIDX; while it is enabled a write that changes LOGN is ignored. -/
def execEventQueueEnable (ctx : Nat) (ctl : W64) (s : State) : Out :=
  let q := s.eventQ ctx
  let q' := { q with enabled := ctl.getLsbD 31, logn := low ctl 5 }
  if !s.up 4 || 64 ≤ ctx || (q.on && q'.logn != q.logn) then .next s
  else if q'.on && !q.on then
    let s := { s with events := kput s.events ctx { q' with count := 0 } }
    .next (s.devWrite q.base (leBytes 8 0))
  else .next { s with events := kput s.events ctx q' }

/-- DEVNUM_WRITE (R419): ignored while a context is active. -/
def execDevnumWrite (value : W64) (s : State) : Out :=
  if !s.up 0 || s.contexts.any fun c => c.2.active then .next s
  else .next { s with devnum := value &&& 0x800003FF#64 }

/-- R425: the verification of the image staged at an address. An image that cannot be read, or does not lie in HBM at a
multiple of 4 KiB, counts as malformed. -/
def verifyStaged (s : State) (a : Nat) : State :=
  let done (s : State) (r : Nat) (image : Option (List Byte)) : State :=
    s.modRegs fun g => { g with fwBusy := none, fwResult := r, fwPending := image.orElse fun _ => g.fwPending }
  if a % 4096 != 0 || decide (Config.hbmBytes < a + Config.fwImageBytes) then done s 3 none
  else match s.devTake a Config.fwImageBytes with
    | (s, none) => done s 3 none
    | (s, some b) =>
      let r := (Config.fwImage b).verdict s.fwFused
      done s r (if r = 0 then some b else none)

/-- FWCMD_GO (R425): GO takes the address of the staged image and sets BUSY; the next such event ends the verification. -/
def execFwcmdGo (s : State) : Out :=
  if !s.up 0 then .next s
  else match s.regs.fwBusy with
    | none => .next (s.modRegs fun g => { g with fwBusy := some g.fwstage })
    | some a => .next (verifyStaged s a)

/-- FWCMD (R419): GO starts the command, unless one is in progress. -/
def writeFwcmd (v : W64) (s : State) : Out := if v.getLsbD 0 && s.regs.fwBusy.isNone then execFwcmdGo s else .next s

/-- CTXCMD (R338). -/
def writeCtxcmd (v : W64) (s : State) : Out :=
  if !v.getLsbD 31 then .next s
  else if v.getLsbD 8 then execCtxcmdRetire (low v 6) s
  else execCtxcmdActivate (low v 6) s

/-- INVGO (R338): bit 31 clears ERR; bit 0 queues a command. -/
def writeInvgo (v : W64) (s : State) : Out :=
  let s := if v.getLsbD 31 then s.modRegs fun g => { g with invErr := false } else s
  if v.getLsbD 0 then execInvgo s else .next s

/-- KEYCMD (R338). -/
def writeKeycmd (v : W64) (s : State) : Out :=
  match low v 2 with
  | 1 => execKeycmdLoad s
  | 2 => execKeycmdErase s
  | op => .next (s.writeKeyOp op)

/-- LEASECMD (R366). -/
def writeLeasecmd (v : W64) (s : State) : Out :=
  if !v.getLsbD 31 then .next s
  else match v.toNat / 2 ^ 8 % 4 with
    | 0 => execLeasecmdOfferGrant (low v 6) s
    | 1 => execLeasecmdReclaim (low v 6) s
    | 2 => execLeasecmdReturn (low v 6) s
    | _ => execLeasecmdRetire (low v 6) s

/-- PRECMD (R382). -/
def writePrecmd (v : W64) (s : State) : Out :=
  if !v.getLsbD 31 then .next s
  else match v.toNat / 2 ^ 8 % 4 with
    | 0 => execPrecmdPreempt (low v 6) s
    | 1 => execPrecmdResume (low v 6) s
    | 2 => execPrecmdDiscard (low v 6) s
    | _ => .next s

/-- ERRCTL (R409): ERRWIDX restarts when ENABLE is set. -/
def writeErrctl (v : W64) (s : State) : State :=
  let starts := v.getLsbD 31 && !s.err.ctl.getLsbD 31
  { s with err := { s.err with ctl := v &&& 0x8000001F#64, widx := if starts then 0 else s.err.widx } }

/-! ## REGISTER_WRITE (R417) -/

/-- The READY bit of the block that holds a register of BAR 0 (R420). -/
def blockBit (off : Nat) : Nat :=
  match off / 0x10000 with
  | 0 => 0
  | 1 => 5
  | 2 | 4 | 5 | 6 => 4
  | 3 => 6
  | 7 => 9
  | _ => 10

/-- Eight bytes of KEYDATA at an offset. -/
def putKeyData (d : List Byte) (o : Nat) (v : W64) : List Byte :=
  tab 64 fun i => if o ≤ i && i < o + 8 then v.extractLsb' (8 * (i - o)) 8 else d.getD i 0

/-- The registers of the translation block (R338). -/
def writeTranslation (o : Nat) (v : W64) (s : State) : Out :=
  match o with
  | 0x00 => .next (s.modRegs fun g => { g with ctxtab := v.toNat })
  | 0x08 => writeCtxcmd v s
  | 0x10 => .next (s.modRegs fun g => { g with invCtx := low v 8 })
  | 0x18 => .next (s.modRegs fun g => { g with invVa := v.toNat })
  | 0x20 => .next (s.modRegs fun g => { g with invLen := v.toNat })
  | 0x28 => .next (s.modRegs fun g => { g with invSig := v.toNat })
  | 0x30 => writeInvgo v s
  | 0x40 => .next (s.modRegs fun g => { g with keyIdx := low v 7 })
  | 0x44 => writeKeycmd v s
  | _ =>
    if 0x80 ≤ o ∧ o < 0xC0 ∧ o % 8 = 0 then .next (s.modRegs fun g => { g with keyData := putKeyData g.keyData (o - 0x80) v })
    else .next s

/-- The registers of the fabric block (R366, R410). -/
def writeFabric (o : Nat) (v : W64) (s : State) : Out :=
  match o with
  | 0x00 => .next (s.modRegs fun g => { g with leasetab := v.toNat })
  | 0x08 => writeLeasecmd v s
  | 0x28 => .next { s with fabricTimeout := min 10000 (max 10 (low v 14)) }
  | _ => .next s

/-- The registers of the recovery block (R382). -/
def writeRecovery (o : Nat) (v : W64) (s : State) : Out :=
  match o with
  | 0x00 => .next (s.modRegs fun g => { g with rectab := v.toNat })
  | 0x08 => writePrecmd v s
  | 0x10 => .next (s.modRegs fun g => { g with presig := v.toNat })
  | _ => .next s

/-- The registers of the error block (R409). -/
def writeError (o : Nat) (v : W64) (s : State) : Out :=
  match o with
  | 0x00 => .next { s with err := { s.err with log := v.toNat } }
  | 0x08 => .next (writeErrctl v s)
  | 0x18 => .next { s with err := { s.err with ridx := v.toNat } }
  | 0x28 => .next { s with err := { s.err with lost := (BitVec.ofNat 32 s.err.lost &&& ~~~(v.extractLsb' 0 32)).toNat } }
  | _ => .next s

/-- The registers of the event block (R413). -/
def writeEvent (o : Nat) (v : W64) (s : State) : Out :=
  let n := o / 16
  let q := s.eventQ n
  if 64 ≤ n then .next s
  else match o % 16 with
    | 0 => .next (if q.on then s else { s with events := kput s.events n { q with base := v.toNat } })
    | 8 => execEventQueueEnable n v s
    | _ => .next s

/-- REGISTER_WRITE (R5, R338, R366, R382, R409, R417): a write by the host to a register of BAR 0, at the register's own
offset. A block that is not ready ignores it, as does an offset that names no register. -/
def execRegisterWrite (off : Nat) (value : W64) (s : State) : Out :=
  let o := off % 0x10000
  let n := o / 16
  if !s.up (blockBit off) || 0x90000 ≤ off then .next s
  else match off / 0x10000 with
    | 0 => match o with
      | 0x18 => execDevnumWrite value s
      | 0x20 => .next (s.modRegs fun g => { g with fwstage := value.toNat })
      | 0x28 => writeFwcmd value s
      | _ => .next s
    | 1 => if o % 16 = 0 ∧ n < 64 then .next (s.modRegs fun g => { g with lqtab := kput g.lqtab n value.toNat }) else .next s
    | 2 => writeTranslation o value s
    | 3 => writeFabric o value s
    | 4 => writeRecovery o value s
    | 5 => writeError o value s
    | 6 => writeEvent o value s
    | 7 => if o = 0 then .next (s.modRegs fun g => { g with pwrcap := min 3200 (max 500 (low value 16)) }) else .next s
    | _ => if o % 8 = 0 ∧ o / 8 < 16 then .next (s.modRegs fun g => { g with apwin := kput g.apwin (o / 8) value }) else .next s

/-! ## What the host reads -/

def flag (b : Bool) (n : Nat) : Nat := if b then 2 ^ n else 0

/-- An entry of the remap table (R366). -/
def State.planeEntry (s : State) (k : Nat) : Nat :=
  flag (s.planeDrain.getD k false) 7 + flag (s.planeShared.getD k false) 6 + s.planePort.getD k 0

def State.planeMap (s : State) (first : Nat) : Nat :=
  (List.range 8).foldl (fun x k => x + s.planeEntry (first + k) * 2 ^ (8 * k)) 0

/-- R419: IDENT of the part. -/
def ident : Nat := (if Config.onModule then 2 else 1) * 2 ^ 20 + Config.stepping.toNat * 2 ^ 16 + 0x1C2E

/-- A register of BAR 0 by its offset, as the host reads it (R338, R366, R382, R409, R413, R419, R421, R423, R426). -/
def State.regValue (s : State) (off : Nat) : Nat :=
  let g := s.regs
  let o := off % 0x10000
  match off / 0x10000 with
  | 0 => match o with
    | 0x00 => ident
    | 0x08 => g.ready.toNat
    | 0x10 => Config.serial.toNat
    | 0x18 => s.devnum.toNat
    | 0x20 => g.fwstage
    | 0x28 => flag g.fwBusy.isSome 31 + g.fwResult * 2 ^ 24
    | _ => 0
  | 1 => if o % 16 = 0 then kget g.lqtab (o / 16) 0 else 0
  | 2 => match o with
    | 0x00 => g.ctxtab
    | 0x08 => flag g.ctxBusy.isSome 31 + g.ctxResult * 2 ^ 24
    | 0x10 => g.invCtx
    | 0x18 => g.invVa
    | 0x20 => g.invLen
    | 0x28 => g.invSig
    | 0x30 => flag g.invErr 31 + s.invQ.length
    | 0x40 => g.keyIdx
    | 0x44 => g.keyOp
    | _ => 0
  | 3 => match o with
    | 0x00 => g.leasetab
    | 0x08 => flag g.leaseBusy.isSome 31 + g.leaseResult * 2 ^ 24
    | 0x10 => s.planeMap 0
    | 0x18 => s.planeMap 8
    | 0x20 => s.portUp.toNat
    | 0x28 => s.fabricTimeout
    | _ => 0
  | 4 => match o with
    | 0x00 => g.rectab
    | 0x08 => flag g.preBusy.isSome 31 + g.preResult * 2 ^ 24
    | 0x10 => g.presig
    | _ => 0
  | 5 => match o with
    | 0x00 => s.err.log
    | 0x08 => s.err.ctl.toNat
    | 0x10 => s.err.widx
    | 0x18 => s.err.ridx
    | 0x20 => s.err.ceCnt
    | 0x28 => s.err.lost
    | _ => 0
  | 6 => match o % 16 with
    | 0 => (s.eventQ (o / 16)).base
    | 8 => flag (s.eventQ (o / 16)).enabled 31 + (s.eventQ (o / 16)).logn
    | _ => 0
  | 7 => match o with
    | 0x00 => g.pwrcap
    | 0x08 => g.pwrnow
    | 0x10 => g.thrcnt
    | 0x18 => g.temp
    | 0x20 => if Config.onModule then flag true 31 + flag g.vrFault 17 + flag g.flowFault 16 + g.inlet else 0
    | 0x28 => if Config.onModule then g.modflow else 0
    | _ => 0
  | 8 => if o % 8 = 0 then (kget g.apwin (o / 8) 0 &&& ~~~0xFFF00000001F80F8#64).toNat else 0
  | _ => 0

/-- R420: the registers of a block that is not ready read as zero. READY itself always reads. -/
def State.regRead (s : State) (off : Nat) : Nat :=
  if off = 0x08 || s.up (blockBit off) then s.regValue off else 0

/-! ## Reset and bring-up (R49, R55, R356, R420, R425) -/

/-- DEVICE_RESET: the state after reset. What the outside world holds stays; the contents of HBM become undefined; an
accepted image takes effect and raises the fused minimum. -/
def execDeviceReset (s : State) : Out :=
  let r := State.reset
  let fw := s.regs.fwPending
  .next ({ r with
    hostMem := s.hostMem, fabMem := s.fabMem, hostAtomics := s.hostAtomics, nguyx := s.nguyx
    bad := s.bad.filter fun u => u.1 == 1 || u.1 == 0x10
    correctable := s.correctable.filter fun u => u.1 == 1
    fwImage := fw.orElse fun _ => s.fwImage, fwFused := fw.elim s.fwFused fun b => (Config.fwImage b).version
    freeCtr := s.freeCtr, agenda := s.agenda }.scramble 0 Config.hbmBytes)

/-- R425: the running firmware image. -/
def State.firmware (s : State) : List Byte := s.fwImage.getD Config.partImage

/-- R426: the limit in force. -/
def State.powerLimit (s : State) : Nat :=
  if s.regs.vrFault || s.regs.flowFault || s.regs.overTemp then min 500 s.regs.pwrcap else s.regs.pwrcap

/-- R426: the sensors are read. Each value is free within what the rule says: the power holds to the limit, and TEMP lies at
105 °C or above while that condition holds. -/
def State.sense (s : State) : State :=
  let (s, p) := s.free 16
  let (s, t) := s.free 16
  let (s, i) := s.free 16
  let (s, f) := s.free 16
  s.modRegs fun g =>
    { g with
      pwrnow := p.toNat % (s.powerLimit + 1), inlet := i.toNat, modflow := f.toNat
      temp := if g.overTemp then max t.toNat 840 else t.toNat % 840 }

/-- FUNCTION_READY (R420, R425, R418, R356): a function becomes usable once those that it depends on are. Bit 0 comes with the
verification of the firmware image, and none of the others without its success. Bit 1 comes with key slot 0 loaded, and bit 9
with readings of the sensors. -/
def execFunctionReady (bit : Nat) (s : State) : Out :=
  let needs : List Nat := match bit with
    | 0 => []
    | 4 => [0, 1, 2]
    | 5 => [0, 4]
    | _ => [0]
  if 11 ≤ bit || s.up bit || s.diesStopped || (bit != 0 && !s.fwGood) || needs.any fun k => !s.up k then .next s
  else
    let s := if bit = 0 then { s with fwGood := (Config.fwImage s.firmware).verdict s.fwFused == 0 } else s
    let s := if bit = 9 then s.sense else s
    let s := if bit = 1 then { s with keys := kput s.keys 0 ⟨true, []⟩ } else s
    .next ((s.modRegs fun g => { g with ready := g.ready ||| (1#11 <<< bit) }).raiseVec 1)

/-! ## SPDM (R425) -/

/-- The responder answers once READY bit 0 is set. -/
def spdm (s : State) (a : SpdmAnswer) : Out := .next (if s.up 0 then { s with reply := some (.spdm a) } else s)

/-- GET_VERSION: SPDM 1.2. -/
def execGetVersion (s : State) : Out := spdm s (.version 1 2)
/-- GET_CAPABILITIES: a responder only; no session is established. -/
def execGetCapabilities (s : State) : Out := spdm s (.capabilities false)
def execNegotiateAlgorithms (s : State) : Out := spdm s (.algorithms .rsassaPss3072 .sha256)
def execGetDigests (s : State) : Out := spdm s (.digests Config.certDigests)
def execGetCertificate (off len : Nat) (s : State) : Out := spdm s (.certificate ((Config.certChain.drop off).take len))
/-- CHALLENGE: the signature is salted, so each answer is fresh. -/
def execChallenge (nonce : Nat) (s : State) : Out :=
  spdm { s with freeCtr := s.freeCtr + 1 } (.challenge nonce (Config.challengeReply nonce s.freeCtr))
/-- GET_MEASUREMENTS: indexes 1 to 5. -/
def execGetMeasurements (index : Nat) (s : State) : Out :=
  spdm s (match index with
    | 1 => .measurements 1 Config.measureRom
    | 2 => .measurements 2 (Config.measureImage s.firmware)
    | 3 => .measurements 3 (Config.measureTranslator s.firmware)
    | 4 => .measurements 4 (Config.measureFuses s.fwFused Config.fusedDigest)
    | 5 => .measurements 5 (Config.measureIdentity ident Config.serial.toNat)
    | _ => .refused)

/-! ## Power (R426) -/

/-- THERMAL_THROTTLE (R426, R11, R19): an island's clock is set, in MHz, never above 1,400 and for a core never below 350; 0
pauses a core that stands at 350 MHz. Reductions and pauses are counted, and the sensors are read. -/
def execThermalThrottle (island mhz : Nat) (s : State) : Out :=
  let count (s : State) : State := s.modRegs fun g => { g with thrcnt := min (g.thrcnt + 1) (2 ^ 64 - 1) }
  let now := kget s.clocks island 1400
  let isCore := match Config.islandOf island with | .core _ => true | .slicePair _ _ | .other _ _ => false
  if 512 ≤ island || !s.up 9 then .next s
  else if mhz = 0 then
    .next (if isCore && now = 350 && (kget? s.paused island).isNone then
      (count { s with paused := kput s.paused island s.time.toNat }).sense else s)
  else if isCore && mhz < 350 then .next s
  else
    let s' := { s with clocks := if 1400 ≤ mhz then kdel s.clocks island else kput s.clocks island mhz }
    .next (if mhz < now then count s' else s').sense

/-- ISSUE_PAUSE_END (R426): the core issues again; the time of the pause counts toward no bound of its teams. -/
def execIssuePauseEnd (core : Nat) (s : State) : Out :=
  match kget? s.paused core with
  | none => .next s
  | some t0 =>
    let d := min (s.elapsed t0) (100 * microsecond)
    let later (x : Nat) : Nat := min s.time.toNat (x + d)
    .next { s with
      paused := kdel s.paused core
      teams := kmap (fun _ t => if t.cores.contains core then { t with stuckSince := t.stuckSince.map later } else t) s.teams
      warps := kmap (fun _ w =>
        if w.core = core then { w with wait := w.wait.map fun x => { x with since := later x.since } } else w) s.warps }

/-- R426: VRFAULT and FLOWFAULT belong to the module; the temperature to every part. -/
def faultApplies (what : ModuleFault) : Bool :=
  match what with | .vr | .flow => Config.onModule | .temperature => true

/-- R426: a condition holds. -/
def Regs.faulty (g : Regs) (what : ModuleFault) : Bool :=
  match what with | .vr => g.vrFault | .flow => g.flowFault | .temperature => g.overTemp

/-- R426: a condition starts or ends. -/
def Regs.setFault (g : Regs) (what : ModuleFault) (v : Bool) : Regs :=
  match what with
  | .vr => { g with vrFault := v }
  | .flow => { g with flowFault := v }
  | .temperature => { g with overTemp := v }

/-- MODULE_FAULT (R426, R418): vector 2 is raised when the condition becomes set, and the sensors are read. -/
def execModuleFault (what : ModuleFault) (s : State) : Out :=
  if !faultApplies what then .next s
  else
    let s' := (s.modRegs fun g => g.setFault what true).sense
    .next (if s.regs.faulty what then s' else s'.raiseVec 2)

/-- MODULE_FAULT_END (R426): the condition ends, and the sensors are read. -/
def execModuleFaultEnd (what : ModuleFault) (s : State) : Out := .next (s.modRegs fun g => g.setFault what false).sense

/-! ## Special core states (R354) -/

/-- CORE_POWER_GATE (R354): a core that holds no team is gated, and its TLB and L1 lose what they hold; or it comes back. -/
def execCorePowerGate (core : Nat) (gated : Bool) (s : State) : Out :=
  if !gated then .next { s with gated := s.gated.filter (· != core) }
  else if s.gated.contains core || s.teams.any fun t => t.2.cores.contains core then .next s
  else
    let x := s.core core
    .next { s.setCore core { x with tlb := [], l1 := [] } with gated := core :: s.gated }

/-- DEBUGGER_HALT (R354): the core issues nothing; its queued accesses are withdrawn until it resumes. -/
def execDebuggerHalt (core : Nat) (s : State) : Out :=
  .next { s with dbgHalted := if s.dbgHalted.contains core then s.dbgHalted else core :: s.dbgHalted }

/-- DEBUGGER_RESUME (R354). -/
def execDebuggerResume (core : Nat) (s : State) : Out := .next { s with dbgHalted := s.dbgHalted.filter (· != core) }

end Sys2Proof.Machine
end

