-- ==== Sys2Proof/Machine/Nguyx.lean ====
section
/-! DEFINITION. Finalisation of the portable form: labels, BRX tables and directives become native words, data, descriptors
and relocations (R105 to R109, R112 to R115). -/

namespace Sys2Proof.Machine

/-- The first multiple of n at or after an offset. -/
def alignUp (n a : Nat) : Nat := if n = 0 then a else (a + (n - 1)) / n * n

/-! ## Layout and symbols (R105, R106, R109) -/

/-- A symbol: its name, its section and its offset there. -/
abbrev Symbol := Nat × NguyxSection × Nat

/-- The bytes that an item of .text takes at an offset. -/
def NguyxText.size (a : Nat) : NguyxText → Nat
  | .label _ => 0
  | .instr _ i _ => i.len
  | .align n => alignUp n a - a

/-- The labels of .text. -/
def textLabels : Nat → List NguyxText → List Symbol
  | _, [] => []
  | a, t :: ts =>
    let rest := textLabels (a + t.size a) ts
    match t with
    | .label n => (n, .text, a) :: rest
    | .instr _ _ _ | .align _ => rest

/-- The bytes that an item of .rodata or .data takes at an offset. -/
def NguyxData.size (a : Nat) : NguyxData → Nat
  | .label _ => 0
  | .bytes bs => bs.length
  | .distance _ _ _ | .address _ _ => 4
  | .align n => alignUp n a - a
  | .table _ _ es => alignUp 4 a - a + 4 * (es.length + 1)

/-- R109: where the next item starts: a table lies at a multiple of 4, and its label with it. -/
def dataStart (a : Nat) : List NguyxData → Nat
  | .label _ :: ds => dataStart a ds
  | .table _ _ _ :: _ => alignUp 4 a
  | _ => a

/-- The labels of .rodata or .data. -/
def dataLabels (k : NguyxSection) : Nat → List NguyxData → List Symbol
  | _, [] => []
  | a, d :: ds =>
    let rest := dataLabels k (a + d.size a) ds
    match d with
    | .label n => (n, k, dataStart a ds) :: rest
    | .bytes _ | .distance _ _ _ | .address _ _ | .align _ | .table _ _ _ => rest

/-- R106: the kernels' own symbols: their descriptors. -/
def kernelLabels : Nat → List NguyxKernel → List Symbol
  | _, [] => []
  | n, k :: ks => (k.name, .kdesc, 256 * n) :: kernelLabels (n + 1) ks

/-- Every symbol of an object. -/
def NguyxObject.symbols (o : NguyxObject) : List Symbol :=
  textLabels 0 o.text ++ dataLabels .rodata 0 o.rodata ++ dataLabels .data 0 o.data ++ kernelLabels 0 o.kernels

/-- The section and the offset of a symbol. -/
def symbolAt (ss : List Symbol) (n : Nat) : Option (NguyxSection × Nat) := (ss.find? fun x => x.1 == n).map (·.2)

/-- The offset of a label of .text. -/
def labelAt (ss : List Symbol) (n : Nat) : Option Nat :=
  (symbolAt ss n).bind fun x => if x.1 = .text then some x.2 else none

/-- R112: the relocation of a place against a symbol. -/
def relocAt (ss : List Symbol) (kind : RelocKind) (place : NguyxSection) (off : Nat) (r : NguyxRef) : Option Reloc :=
  (symbolAt ss r.sym).map fun x => ⟨kind, place, off, x.1, x.2 + r.add⟩

/-! ## .text (R105, R112) -/

/-- R105: an instruction whose target lies d bytes from its own address; none where the distance does not fit its field, or
where it has none. -/
def withTarget (d : Int) (i : Instr) : Option Instr :=
  let o := d / 4
  let wide : Bool := d % 4 == 0 && decide (-(2 ^ 17 : Int) ≤ o) && decide (o < 2 ^ 17)
  let near : Bool := d % 4 == 0 && decide (0 ≤ o) && decide (o < 2 ^ 14)
  match i with
  | .lbra h _ => if wide then some (.lbra h (BitVec.ofInt 18 o)) else none
  | .bra h _ => if wide then some (.bra h (BitVec.ofInt 18 o)) else none
  | .call h _ => if wide then some (.call h (BitVec.ofInt 18 o)) else none
  | .lbreak h _ => if wide then some (.lbreak h (BitVec.ofInt 18 o)) else none
  | .loop h sa _ => if near then some (.loop h sa (BitVec.ofInt 14 o)) else none
  | .loopi h c _ => if near then some (.loopi h c (BitVec.ofInt 14 o)) else none
  | _ => none

/-- R112: an instruction whose extension word is a 32-bit immediate, with that immediate 0, for a relocation to fill. -/
def withAddress : Instr → Option Instr
  | .iaddi h vd va _ => some (.iaddi h vd va 0)
  | .movi h vd _ => some (.movi h vd 0)
  | .saddi h sd sa _ => some (.saddi h sd sa 0)
  | .smovi h sd _ => some (.smovi h sd 0)
  | _ => none

/-- The words of one item at an offset, and its relocations. What is no instruction word has none. -/
def NguyxText.words (ss : List Symbol) (a : Nat) : NguyxText → Option (List W32 × List Reloc)
  | .label _ => some ([], [])
  | .align n => some (List.replicate ((alignUp n a - a) / 4) 0xB9200000, [])
  | .instr _ i none => if encode i = [] then none else some (encode i, [])
  | .instr _ i (some (.target r)) =>
    ((labelAt ss r.sym).bind fun t => withTarget ((t : Int) + r.add - a) i).map fun i => (encode i, [])
  | .instr _ i (some (.lo32 r)) =>
    match withAddress i, relocAt ss .lo32 .text (a + 4) r with
    | some i, some x => some (encode i, [x])
    | _, _ => none
  | .instr _ i (some (.hi32 r)) =>
    match withAddress i, relocAt ss .hi32 .text (a + 4) r with
    | some i, some x => some (encode i, [x])
    | _, _ => none

/-- The words of .text, in the order of its items. -/
def textWords (ss : List Symbol) : Nat → List NguyxText → Option (List W32 × List Reloc)
  | _, [] => some ([], [])
  | a, t :: ts =>
    match t.words ss a, textWords ss (a + t.size a) ts with
    | some (ws, rs), some (ws', rs') => some (ws ++ ws', rs ++ rs')
    | _, _ => none

/-! ## .rodata and .data (R98, R106, R107, R109) -/

/-- R109: a BRX table: the distances of the entries, and then of the default, from the anchor. -/
def tableBytes (ss : List Symbol) (anchor dflt : Nat) (entries : List Nat) : Option (List Byte) :=
  match labelAt ss anchor with
  | none => none
  | some p =>
    let at' := (entries ++ [dflt]).map (labelAt ss)
    if at'.any (·.isNone) then none
    else some (wordBytes (at'.map fun t => BitVec.ofInt 32 ((t.getD 0 : Nat) - (p : Int))))

/-- R98: the distance of two labels of one section, as a 32-bit word. -/
def distanceBytes (ss : List Symbol) (head base : Nat) (add : Int) : Option (List Byte) :=
  match symbolAt ss head, symbolAt ss base with
  | some (k, t), some (k', b) =>
    let d : Int := (t : Int) - b + add
    if k = k' ∧ -(2 ^ 31 : Int) ≤ d ∧ d < 2 ^ 32 then some (wordBytes [BitVec.ofInt 32 d]) else none
  | _, _ => none

/-- The bytes of an item that follows others in its section, and its relocations. -/
def NguyxData.append (ss : List Symbol) (k : NguyxSection) (before : List Byte) : NguyxData → Option (List Byte × List Reloc)
  | .label _ => some (before, [])
  | .bytes bs => some (before ++ bs, [])
  | .align n => some (before ++ List.replicate (alignUp n before.length - before.length) 0, [])
  | .distance t b x => (distanceBytes ss t b x).map fun bs => (before ++ bs, [])
  | .address hi r =>
    (relocAt ss (if hi then .hi32 else .lo32) k before.length r).map fun x => (before ++ List.replicate 4 0, [x])
  | .table p d es =>
    let pad := List.replicate (alignUp 4 before.length - before.length) (0 : Byte)
    (tableBytes ss p d es).map fun bs => (before ++ pad ++ bs, [])

/-- The bytes of a section, and its relocations. -/
def dataBytes (ss : List Symbol) (k : NguyxSection) : List Byte → List NguyxData → Option (List Byte × List Reloc)
  | before, [] => some (before, [])
  | before, d :: ds =>
    match d.append ss k before with
    | none => none
    | some (bs, rs) => (dataBytes ss k bs ds).map fun x => (x.1, rs ++ x.2)

/-- R316: an entry of the atomic-set table. -/
def NguyxAset.bytes (e : NguyxAset) : List Byte :=
  leBytes 8 (if e.sym.isSome then 0 else e.base) ++ leBytes 8 e.len ++ leBytes 1 e.setn ++ leBytes 1 e.g ++ leBytes 14 0

/-- R102: the entries of the layout-record table. -/
def layoutCount (m : KMap NguyxLayout) : Nat := m.foldl (fun n e => max n (e.1 + 1)) 0

/-- R102: the layout-record table: every slot up to the highest that is named. -/
def layoutBytes (m : KMap NguyxLayout) : List Byte :=
  (List.range (layoutCount m)).flatMap fun k =>
    let r := (kget? m k).elim [] (·.record)
    r ++ List.replicate (128 - r.length) 0

/-- R107: a table with entries is emitted 64-byte aligned. Answers its offset, 0 without entries. DESIGN CHOICE,
notes/assumptions/135.md: the tables follow the object's own data, kernel by kernel, the atomic sets before the layouts. -/
def emitTable (before table : List Byte) : Nat × List Byte :=
  if table.isEmpty then (0, before)
  else
    let a := alignUp 64 before.length
    (a, before ++ List.replicate (a - before.length) 0 ++ table)

/-! ## Descriptors (R108) -/

/-- The descriptor of a kernel whose tables stand at two offsets. Grid extents and arguments are 0. -/
def NguyxKernel.desc (k : NguyxKernel) (ss : List Symbol) (asTab lrTab : Nat) : Option Desc :=
  let entry (e : Option Nat) : Option Nat := match e with | none => some 0 | some l => labelAt ss l
  match entry k.copy, entry k.maths, entry k.epilogue with
  | some c, some m, some e => some { k.fields with
      ecopy := c, emaths := m, eepi := e, asTab := asTab, asCount := k.asets.length, lrTab := lrTab
      lrCount := layoutCount k.layouts, gridX := 0, gridY := 0, gridZ := 0, args := List.replicate 16 0 }
  | _, _, _ => none

/-- All of a list of results, or none. -/
def allSome {α : Type} : List (Option α) → Option (List α)
  | [] => some []
  | x :: xs => match x, allSome xs with
    | some a, some as => some (a :: as)
    | _, _ => none

/-- R112: the relocations of kernel n: of its descriptor's addresses (R29), and of the symbols that its tables name. -/
def NguyxKernel.relocs (k : NguyxKernel) (ss : List Symbol) (n asTab lrTab : Nat) : Option (List Reloc) :=
  let kdesc (off : Nat) (e : Option Nat) : List (Option Reloc) := match e with
    | none => []
    | some l => [relocAt ss .abs64 .kdesc (256 * n + off) ⟨l, 0⟩]
  let table (off count tab : Nat) : List (Option Reloc) :=
    if count = 0 then [] else [some ⟨.abs64, .kdesc, 256 * n + off, .rodata, tab⟩]
  let named (off : Nat) (r : Option NguyxRef) : List (Option Reloc) := match r with
    | none => []
    | some r => [relocAt ss .abs64 .rodata off r]
  allSome (kdesc 0x08 k.copy ++ kdesc 0x10 k.maths ++ kdesc 0x18 k.epilogue ++ table 0x40 k.asets.length asTab
    ++ table 0x50 (layoutCount k.layouts) lrTab
    ++ (List.range k.asets.length).flatMap (fun i => named (asTab + 32 * i) (k.asets[i]?.bind (·.sym)))
    ++ k.layouts.flatMap fun e => named (lrTab + 128 * e.1 + 0x50) e.2.scale ++ named (lrTab + 128 * e.1 + 0x58) e.2.resid)

/-- The tables, the descriptors and the relocations of the kernels from number n on, after the bytes of .rodata so far. -/
def kernelParts (ss : List Symbol) : Nat → List Byte → List NguyxKernel → Option (List Byte × List Desc × List Reloc)
  | _, before, [] => some (before, [], [])
  | n, before, k :: ks =>
    let (a, b1) := emitTable before (k.asets.flatMap NguyxAset.bytes)
    let (l, b2) := emitTable b1 (layoutBytes k.layouts)
    match k.desc ss a l, k.relocs ss n a l, kernelParts ss (n + 1) b2 ks with
    | some d, some rs, some (bs, ds, rs') => some (bs, d :: ds, rs ++ rs')
    | _, _, _ => none

/-! ## NGUYX_FINALISE (R113 to R115) -/

/-- An instruction of a level above 1. -/
def NguyxText.later : NguyxText → Bool
  | .instr level _ _ => decide (1 < level)
  | .label _ | .align _ => false

/-- The native form at level 1: code 0x22 where an instruction belongs to a later level, 0x23 where a symbol or an instruction
cannot be resolved. DESIGN CHOICE, notes/assumptions/153.md: the code of an unresolved symbol, and that 0x22 comes first. -/
def NguyxObject.finalise (o : NguyxObject) : Finalised :=
  let ss := o.symbols
  if o.text.any NguyxText.later then .refused 0x22
  else match textWords ss 0 o.text, dataBytes ss .rodata [] o.rodata, dataBytes ss .data [] o.data with
    | some (ws, r0), some (ro, r1), some (da, r2) =>
      match kernelParts ss 0 ro o.kernels with
      | some (ro, ds, r3) => .native ws ro da ds (r0 ++ r1 ++ r2 ++ r3)
      | none => .refused 0x23
    | _, _, _ => .refused 0x23

/-- R113, step 1: every capability that the object asks for is met. -/
def State.capsMet (s : State) (o : NguyxObject) : Bool :=
  o.caps.all fun c => (BitVec.ofNat 32 ((s.capability c.1).getD 0) &&& BitVec.ofNat 32 c.2) == BitVec.ofNat 32 c.2

/-- NGUYX_FINALISE: the first load of an object in a context whose capabilities are met finalises it; a later load finds the
cached result. -/
def execNguyxFinalise (ctx obj : Nat) (s : State) : Out :=
  match kget? s.nguyx obj with
  | none => .next s
  | some o =>
    let mine (f : Nat × Nat × Finalised) : Bool := f.1 == ctx && f.2.1 == obj
    if s.finalised.any fun f => mine f && f.2.2 != .refused 0x21 then .next s
    else
      let r := if s.capsMet o then o.finalise else .refused 0x21
      .next { s with finalised := (ctx, obj, r) :: s.finalised.filter fun f => !mine f }

end Sys2Proof.Machine
end

