-- ==== Sys2Proof/Machine/Scalar.lean ====
section
/-! DEFINITION. The scalar arithmetic words (R168 to R170). -/

namespace Sys2Proof.Machine

/-- SADD (R168). -/
def execSadd (h : WarpHdr) (sd sa sb : Reg) (s : State) : Out :=
  scalar2 (.sadd h sd sa sb) h sd sa sb (fun a b => (a + b, 0)) s

/-- SSUB (R168). -/
def execSsub (h : WarpHdr) (sd sa sb : Reg) (s : State) : Out :=
  scalar2 (.ssub h sd sa sb) h sd sa sb (fun a b => (a - b, 0)) s

/-- SMUL (R168). -/
def execSmul (h : WarpHdr) (sd sa sb : Reg) (s : State) : Out :=
  scalar2 (.smul h sd sa sb) h sd sa sb (fun a b => (a * b, 0)) s

/-- SMULHI (R168). -/
def execSmulhi (h : WarpHdr) (sd sa sb : Reg) (s : State) : Out :=
  scalar2 (.smulhi h sd sa sb) h sd sa sb (fun a b => (mulhiS a b, 0)) s

/-- SMIN (R168). -/
def execSmin (h : WarpHdr) (sd sa sb : Reg) (s : State) : Out :=
  scalar2 (.smin h sd sa sb) h sd sa sb (fun a b => (sminVal a b, 0)) s

/-- SMAX (R168). -/
def execSmax (h : WarpHdr) (sd sa sb : Reg) (s : State) : Out :=
  scalar2 (.smax h sd sa sb) h sd sa sb (fun a b => (smaxVal a b, 0)) s

/-- SMINN (R168). -/
def execSminn (h : WarpHdr) (sd sa sb : Reg) (s : State) : Out :=
  scalar2 (.sminn h sd sa sb) h sd sa sb (fun a b => (uminVal a b, 0)) s

/-- SMAXN (R168). -/
def execSmaxn (h : WarpHdr) (sd sa sb : Reg) (s : State) : Out :=
  scalar2 (.smaxn h sd sa sb) h sd sa sb (fun a b => (umaxVal a b, 0)) s

/-- SAND (R168). -/
def execSand (h : WarpHdr) (sd sa sb : Reg) (s : State) : Out :=
  scalar2 (.sand h sd sa sb) h sd sa sb (fun a b => (a &&& b, 0)) s

/-- SOR (R168). -/
def execSor (h : WarpHdr) (sd sa sb : Reg) (s : State) : Out :=
  scalar2 (.sor h sd sa sb) h sd sa sb (fun a b => (a ||| b, 0)) s

/-- SXOR (R168). -/
def execSxor (h : WarpHdr) (sd sa sb : Reg) (s : State) : Out :=
  scalar2 (.sxor h sd sa sb) h sd sa sb (fun a b => (a ^^^ b, 0)) s

/-- SSHL (R168). -/
def execSshl (h : WarpHdr) (sd sa sb : Reg) (s : State) : Out :=
  scalar2 (.sshl h sd sa sb) h sd sa sb (fun a b => (shlVal a b, 0)) s

/-- SSHR (R168). -/
def execSshr (h : WarpHdr) (sd sa sb : Reg) (s : State) : Out :=
  scalar2 (.sshr h sd sa sb) h sd sa sb (fun a b => (shrVal a b, 0)) s

/-- SSAR (R168). -/
def execSsar (h : WarpHdr) (sd sa sb : Reg) (s : State) : Out :=
  scalar2 (.ssar h sd sa sb) h sd sa sb (fun a b => (sarVal a b, 0)) s

/-- SDIV (R168). -/
def execSdiv (h : WarpHdr) (sd sa sb : Reg) (s : State) : Out :=
  scalar2 (.sdiv h sd sa sb) h sd sa sb (fun a b => (sdivVal a b, 0)) s

/-- SDIVN (R168). -/
def execSdivn (h : WarpHdr) (sd sa sb : Reg) (s : State) : Out :=
  scalar2 (.sdivn h sd sa sb) h sd sa sb (fun a b => (udivVal a b, 0)) s

/-- SFADD (R168). -/
def execSfadd (h : WarpHdr) (sd sa sb : Reg) (s : State) : Out :=
  scalar2 (.sfadd h sd sa sb) h sd sa sb (f32op2 (fpAdd .f32)) s

/-- SFMUL (R168). -/
def execSfmul (h : WarpHdr) (sd sa sb : Reg) (s : State) : Out :=
  scalar2 (.sfmul h sd sa sb) h sd sa sb (f32op2 (fpMul .f32)) s

/-- SMOV (R168). -/
def execSmov (h : WarpHdr) (sd sa : Reg) (s : State) : Out :=
  scalar1 (.smov h sd sa) h sd sa (fun a => (a, 0)) s

/-- SPOPC (R168). -/
def execSpopc (h : WarpHdr) (sd sa : Reg) (s : State) : Out :=
  scalar1 (.spopc h sd sa) h sd sa (fun a => (popcVal a, 0)) s

/-- SCLZ (R168). -/
def execSclz (h : WarpHdr) (sd sa : Reg) (s : State) : Out :=
  scalar1 (.sclz h sd sa) h sd sa (fun a => (clzVal a, 0)) s

/-- SADDI (R168). -/
def execSaddi (h : WarpHdr) (sd sa : Reg) (imm : W32) (s : State) : Out :=
  scalar1 (.saddi h sd sa imm) h sd sa (fun a => (a + imm, 0)) s

/-- SMOVI (R168). -/
def execSmovi (h : WarpHdr) (sd : Reg) (imm : W32) (s : State) : Out :=
  warpOp (.smovi h sd imm) h none [] anyMode s fun w => .done s (w.setS sd.toNat imm)

/-- SADD64 (R168). -/
def execSadd64 (h : WarpHdr) (sd sa sb : Reg) (s : State) : Out :=
  scalar64 (.sadd64 h sd sa sb) h sd sa sb (fun a b => a + b) s

/-- SSUB64 (R168). -/
def execSsub64 (h : WarpHdr) (sd sa sb : Reg) (s : State) : Out :=
  scalar64 (.ssub64 h sd sa sb) h sd sa sb (fun a b => a - b) s

/-- SBFE (R168). -/
def execSbfe (h : WarpHdr) (sd sa : Reg) (sg : Bool) (len : Reg) (pos : BitVec 5) (s : State) : Out :=
  scalar1 (.sbfe h sd sa sg len pos) h sd sa (fun a => (bfeVal sg len.toNat pos.toNat a, 0)) s

/-- R169: the comparison that T chooses. -/
def scmpVal (t : CmpT) (cond : Cond) (a b : W32) : Bool × Fl :=
  match t with
  | .s32 => (condInt cond a.toInt b.toInt, 0)
  | .n32 => (condInt cond a.toNat b.toNat, 0)
  | .f32 => fpCmp cond a.toNat b.toNat

/-- SCMP (R150, R169). -/
def execScmp (h : WarpHdr) (sa sb : Reg) (t : CmpT) (psn : Bool) (ps : BitVec 3) (bop : Bop) (pdf pdt : BitVec 3)
    (cond : Cond) (s : State) : Out :=
  warpOp (.scmp h sa sb t psn ps bop pdf pdt cond) h none [] anyMode s fun w =>
    let r := scmpVal t cond (w.sr sa.toNat) (w.sr sb.toNat)
    let c := w.qBit ps.toNat != psn
    .done s (((w.setQ pdt.toNat (bopApply bop r.1 c)).setQ pdf.toNat (bopApply bop (!r.1) c)).orFlags r.2)

/-- SSEL (R168). -/
def execSsel (h : WarpHdr) (sd sa sb : Reg) (qsn : Bool) (qs : BitVec 3) (s : State) : Out :=
  warpOp (.ssel h sd sa sb qsn qs) h none [] anyMode s fun w =>
    .done s (w.setS sd.toNat (if w.qBit qs.toNat != qsn then w.sr sa.toNat else w.sr sb.toNat))

/-- QLOP (R168). -/
def execQlop (h : WarpHdr) (qd qa qb qc : BitVec 3) (lut : BitVec 8) (s : State) : Out :=
  warpOp (.qlop h qd qa qb qc lut) h none [] anyMode s fun w =>
    .done s (w.setQ qd.toNat (lutBit lut (w.qBit qa.toNat) (w.qBit qb.toNat) (w.qBit qc.toNat)))

/-- SFFMA (R168). -/
def execSffma (h : WarpHdr) (sd sa sb sc : Reg) (s : State) : Out :=
  warpOp (.sffma h sd sa sb sc) h none [] anyMode s fun w =>
    let r := f32op3 (fpFma .f32) (w.sr sa.toNat) (w.sr sb.toNat) (w.sr sc.toNat)
    .done s ((w.setS sd.toNat r.1).orFlags r.2)

/-- SCVT (R170). -/
def execScvt (h : WarpHdr) (sd sa : Reg) (dt st : Ty) (rmode : Rm) (sat : Bool) (s : State) : Out :=
  let i : Instr := .scvt h sd sa dt st rmode sat
  let n (t : Ty) : Nat := if tyIs64 t then 2 else 1
  warpOp i h none [(sd.toNat, n dt), (sa.toNat, n st)] anyMode s fun w =>
    if tyIsNarrow dt || tyIsNarrow st then .trap (warpTrap .fmt 0 (extWord i))
    else
      let r := cvtVal dt st rmode sat (w.sr64 sa.toNat)
      .done s ((w.setSs sd.toNat (tab (n dt) fun k => r.1.extractLsb' (32 * k) 32)).orFlags r.2)

end Sys2Proof.Machine
end

