-- ==== Sys2Proof/Machine/Dispatch.lean ====
section
/-! DEFINITION. The meaning of every constructor of Instr: one call each. -/

namespace Sys2Proof.Machine

def exec (i : Instr) (s : State) : Host.Outcome State Fault Refusal :=
  match i with
  | .iadd h vd va vb => Sys2Proof.Machine.execIadd h vd va vb s
  | .isub h vd va vb => Sys2Proof.Machine.execIsub h vd va vb s
  | .iaddi h vd va imm => Sys2Proof.Machine.execIaddi h vd va imm s
  | .iabsd h vd va vb => Sys2Proof.Machine.execIabsd h vd va vb s
  | .imin h vd va vb => Sys2Proof.Machine.execImin h vd va vb s
  | .imax h vd va vb => Sys2Proof.Machine.execImax h vd va vb s
  | .umin h vd va vb => Sys2Proof.Machine.execUmin h vd va vb s
  | .umax h vd va vb => Sys2Proof.Machine.execUmax h vd va vb s
  | .imul24 h vd va vb => Sys2Proof.Machine.execImul24 h vd va vb s
  | .umul24 h vd va vb => Sys2Proof.Machine.execUmul24 h vd va vb s
  | .imad24 h vd va vb vc u => Sys2Proof.Machine.execImad24 h vd va vb vc u s
  | .imul h vd va vb => Sys2Proof.Machine.execImul h vd va vb s
  | .imulhi h vd va vb => Sys2Proof.Machine.execImulhi h vd va vb s
  | .umulhi h vd va vb => Sys2Proof.Machine.execUmulhi h vd va vb s
  | .idiv h vd va vb => Sys2Proof.Machine.execIdiv h vd va vb s
  | .udiv h vd va vb => Sys2Proof.Machine.execUdiv h vd va vb s
  | .irem h vd va vb => Sys2Proof.Machine.execIrem h vd va vb s
  | .urem h vd va vb => Sys2Proof.Machine.execUrem h vd va vb s
  | .iadds h vd va vb => Sys2Proof.Machine.execIadds h vd va vb s
  | .isubs h vd va vb => Sys2Proof.Machine.execIsubs h vd va vb s
  | .iadd64 h vd va vb => Sys2Proof.Machine.execIadd64 h vd va vb s
  | .isub64 h vd va vb => Sys2Proof.Machine.execIsub64 h vd va vb s
  | .imad32 h vd va vb vc => Sys2Proof.Machine.execImad32 h vd va vb vc s
  | .and h vd va vb => Sys2Proof.Machine.execAnd h vd va vb s
  | .or h vd va vb => Sys2Proof.Machine.execOr h vd va vb s
  | .xor h vd va vb => Sys2Proof.Machine.execXor h vd va vb s
  | .andn h vd va vb => Sys2Proof.Machine.execAndn h vd va vb s
  | .shl h vd va vb => Sys2Proof.Machine.execShl h vd va vb s
  | .shr h vd va vb => Sys2Proof.Machine.execShr h vd va vb s
  | .sar h vd va vb => Sys2Proof.Machine.execSar h vd va vb s
  | .rotl h vd va vb => Sys2Proof.Machine.execRotl h vd va vb s
  | .bfe h vd va sg len pos => Sys2Proof.Machine.execBfe h vd va sg len pos s
  | .bfi h vd va vb len pos => Sys2Proof.Machine.execBfi h vd va vb len pos s
  | .popc h vd va => Sys2Proof.Machine.execPopc h vd va s
  | .clz h vd va => Sys2Proof.Machine.execClz h vd va s
  | .ctz h vd va => Sys2Proof.Machine.execCtz h vd va s
  | .brev h vd va => Sys2Proof.Machine.execBrev h vd va s
  | .prmt h vd va vb sx zm bsel => Sys2Proof.Machine.execPrmt h vd va vb sx zm bsel s
  | .lop3 h vd va vb vc lut => Sys2Proof.Machine.execLop3 h vd va vb vc lut s
  | .mov h vd va => Sys2Proof.Machine.execMov h vd va s
  | .movi h vd imm => Sys2Proof.Machine.execMovi h vd imm s
  | .sel h vd va vb psn ps => Sys2Proof.Machine.execSel h vd va vb psn ps s
  | .lspec h vd which => Sys2Proof.Machine.execLspec h vd which s
  | .icmp h va vb psn ps bop pdf pdt cond => Sys2Proof.Machine.execIcmp h va vb psn ps bop pdf pdt cond s
  | .ucmp h va vb psn ps bop pdf pdt cond => Sys2Proof.Machine.execUcmp h va vb psn ps bop pdf pdt cond s
  | .fcmp h va vb psn ps bop pdf pdt cond => Sys2Proof.Machine.execFcmp h va vb psn ps bop pdf pdt cond s
  | .plop h pd pa pb pc lut => Sys2Proof.Machine.execPlop h pd pa pb pc lut s
  | .p2v h vd => Sys2Proof.Machine.execP2v h vd s
  | .v2p h va mask => Sys2Proof.Machine.execV2p h va mask s
  | .fadd h vd va vb => Sys2Proof.Machine.execFadd h vd va vb s
  | .fsub h vd va vb => Sys2Proof.Machine.execFsub h vd va vb s
  | .fmul h vd va vb => Sys2Proof.Machine.execFmul h vd va vb s
  | .ffma h vd va vb vc => Sys2Proof.Machine.execFfma h vd va vb vc s
  | .fmin h vd va vb => Sys2Proof.Machine.execFmin h vd va vb s
  | .fmax h vd va vb => Sys2Proof.Machine.execFmax h vd va vb s
  | .fmed3 h vd va vb vc => Sys2Proof.Machine.execFmed3 h vd va vb vc s
  | .fclamp h vd va vb vc => Sys2Proof.Machine.execFclamp h vd va vb vc s
  | .frnd h vd va rmode => Sys2Proof.Machine.execFrnd h vd va rmode s
  | .fabs h vd va => Sys2Proof.Machine.execFabs h vd va s
  | .fneg h vd va => Sys2Proof.Machine.execFneg h vd va s
  | .frcp h vd va => Sys2Proof.Machine.execFrcp h vd va s
  | .frsq h vd va => Sys2Proof.Machine.execFrsq h vd va s
  | .fsqrt h vd va => Sys2Proof.Machine.execFsqrt h vd va s
  | .fdiv h vd va vb => Sys2Proof.Machine.execFdiv h vd va vb s
  | .fexp2 h vd va => Sys2Proof.Machine.execFexp2 h vd va s
  | .flog2 h vd va => Sys2Proof.Machine.execFlog2 h vd va s
  | .fsin h vd va => Sys2Proof.Machine.execFsin h vd va s
  | .fcos h vd va => Sys2Proof.Machine.execFcos h vd va s
  | .ftanh h vd va => Sys2Proof.Machine.execFtanh h vd va s
  | .flut h vd va => Sys2Proof.Machine.execFlut h vd va s
  | .fclass h vd va pd mask => Sys2Proof.Machine.execFclass h vd va pd mask s
  | .hadd2 h vd va vb => Sys2Proof.Machine.execHadd2 h vd va vb s
  | .hsub2 h vd va vb => Sys2Proof.Machine.execHsub2 h vd va vb s
  | .hmul2 h vd va vb => Sys2Proof.Machine.execHmul2 h vd va vb s
  | .hfma2 h vd va vb vc => Sys2Proof.Machine.execHfma2 h vd va vb vc s
  | .hmin2 h vd va vb => Sys2Proof.Machine.execHmin2 h vd va vb s
  | .hmax2 h vd va vb => Sys2Proof.Machine.execHmax2 h vd va vb s
  | .hmed3 h vd va vb vc => Sys2Proof.Machine.execHmed3 h vd va vb vc s
  | .hclamp2 h vd va vb vc => Sys2Proof.Machine.execHclamp2 h vd va vb vc s
  | .badd2 h vd va vb => Sys2Proof.Machine.execBadd2 h vd va vb s
  | .bmul2 h vd va vb => Sys2Proof.Machine.execBmul2 h vd va vb s
  | .bfma2 h vd va vb vc => Sys2Proof.Machine.execBfma2 h vd va vb vc s
  | .bmin2 h vd va vb => Sys2Proof.Machine.execBmin2 h vd va vb s
  | .bmax2 h vd va vb => Sys2Proof.Machine.execBmax2 h vd va vb s
  | .cvt h vd va dt st rmode sat => Sys2Proof.Machine.execCvt h vd va dt st rmode sat s
  | .pack2 h vd va vb dt rmode sat => Sys2Proof.Machine.execPack2 h vd va vb dt rmode sat s
  | .pack4 h vd va dt rmode sat => Sys2Proof.Machine.execPack4 h vd va dt rmode sat s
  | .unpack h vd va idx st => Sys2Proof.Machine.execUnpack h vd va idx st s
  | .qb8 h vd va vb dt => Sys2Proof.Machine.execQb8 h vd va vb dt s
  | .shfl h vd va vb nw imm b5 seg mode => Sys2Proof.Machine.execShfl h vd va vb nw imm b5 seg mode s
  | .vote h vd mode psn ps pd => Sys2Proof.Machine.execVote h vd mode psn ps pd s
  | .reduce h vd va opc => Sys2Proof.Machine.execReduce h vd va opc s
  | .scan h vd va exc opc => Sys2Proof.Machine.execScan h vd va exc opc s
  | .matchAny h vd va => Sys2Proof.Machine.execMatchAny h vd va s
  | .rdlane h sd va sl lsrc lane => Sys2Proof.Machine.execRdlane h sd va sl lsrc lane s
  | .wrlane h vd ss sl lsrc lane => Sys2Proof.Machine.execWrlane h vd ss sl lsrc lane s
  | .vpcget h vd => Sys2Proof.Machine.execVpcget h vd s
  | .vpcset h va => Sys2Proof.Machine.execVpcset h va s
  | .lbra h off => Sys2Proof.Machine.execLbra h off s
  | .lbrx h va => Sys2Proof.Machine.execLbrx h va s
  | .join h k => Sys2Proof.Machine.execJoin h k s
  | .jarr h acc k => Sys2Proof.Machine.execJarr h acc k s
  | .lexit h => Sys2Proof.Machine.execLexit h s
  | .ld h vd va la sx off size scope ord => Sys2Proof.Machine.execLd h vd va la sx off size scope ord s
  | .st h vs va off size scope ord => Sys2Proof.Machine.execSt h vs va off size scope ord s
  | .lds h vd va la sx off size ord => Sys2Proof.Machine.execLds h vd va la sx off size ord s
  | .sts h vs va off size ord => Sys2Proof.Machine.execSts h vs va off size ord s
  | .atom h vd va la vb aop off size scope ord => Sys2Proof.Machine.execAtom h vd va la vb aop off size scope ord s
  | .atoms h vd va la vb aop off size ord => Sys2Proof.Machine.execAtoms h vd va la vb aop off size ord s
  | .cst h vs va off size scope ord => Sys2Proof.Machine.execCst h vs va off size scope ord s
  | .accrd h vd va la off size => Sys2Proof.Machine.execAccrd h vd va la off size s
  | .accwr h vs va off size => Sys2Proof.Machine.execAccwr h vs va off size s
  | .discard h va off => Sys2Proof.Machine.execDiscard h va off s
  | .pref h va off => Sys2Proof.Machine.execPref h va off s
  | .sadd h sd sa sb => Sys2Proof.Machine.execSadd h sd sa sb s
  | .ssub h sd sa sb => Sys2Proof.Machine.execSsub h sd sa sb s
  | .saddi h sd sa imm => Sys2Proof.Machine.execSaddi h sd sa imm s
  | .smul h sd sa sb => Sys2Proof.Machine.execSmul h sd sa sb s
  | .smulhi h sd sa sb => Sys2Proof.Machine.execSmulhi h sd sa sb s
  | .smin h sd sa sb => Sys2Proof.Machine.execSmin h sd sa sb s
  | .smax h sd sa sb => Sys2Proof.Machine.execSmax h sd sa sb s
  | .sminn h sd sa sb => Sys2Proof.Machine.execSminn h sd sa sb s
  | .smaxn h sd sa sb => Sys2Proof.Machine.execSmaxn h sd sa sb s
  | .sand h sd sa sb => Sys2Proof.Machine.execSand h sd sa sb s
  | .sor h sd sa sb => Sys2Proof.Machine.execSor h sd sa sb s
  | .sxor h sd sa sb => Sys2Proof.Machine.execSxor h sd sa sb s
  | .sshl h sd sa sb => Sys2Proof.Machine.execSshl h sd sa sb s
  | .sshr h sd sa sb => Sys2Proof.Machine.execSshr h sd sa sb s
  | .ssar h sd sa sb => Sys2Proof.Machine.execSsar h sd sa sb s
  | .smov h sd sa => Sys2Proof.Machine.execSmov h sd sa s
  | .smovi h sd imm => Sys2Proof.Machine.execSmovi h sd imm s
  | .sadd64 h sd sa sb => Sys2Proof.Machine.execSadd64 h sd sa sb s
  | .ssub64 h sd sa sb => Sys2Proof.Machine.execSsub64 h sd sa sb s
  | .sbfe h sd sa sg len pos => Sys2Proof.Machine.execSbfe h sd sa sg len pos s
  | .spopc h sd sa => Sys2Proof.Machine.execSpopc h sd sa s
  | .sclz h sd sa => Sys2Proof.Machine.execSclz h sd sa s
  | .scmp h sa sb t psn ps bop pdf pdt cond => Sys2Proof.Machine.execScmp h sa sb t psn ps bop pdf pdt cond s
  | .ssel h sd sa sb qsn qs => Sys2Proof.Machine.execSsel h sd sa sb qsn qs s
  | .qlop h qd qa qb qc lut => Sys2Proof.Machine.execQlop h qd qa qb qc lut s
  | .sdiv h sd sa sb => Sys2Proof.Machine.execSdiv h sd sa sb s
  | .sdivn h sd sa sb => Sys2Proof.Machine.execSdivn h sd sa sb s
  | .sfadd h sd sa sb => Sys2Proof.Machine.execSfadd h sd sa sb s
  | .sfmul h sd sa sb => Sys2Proof.Machine.execSfmul h sd sa sb s
  | .sffma h sd sa sb sc => Sys2Proof.Machine.execSffma h sd sa sb sc s
  | .scvt h sd sa dt st rmode sat => Sys2Proof.Machine.execScvt h sd sa dt st rmode sat s
  | .bra h off => Sys2Proof.Machine.execBra h off s
  | .brx h sa sb n => Sys2Proof.Machine.execBrx h sa sb n s
  | .call h off => Sys2Proof.Machine.execCall h off s
  | .ret h => Sys2Proof.Machine.execRet h s
  | .loop h sa lend => Sys2Proof.Machine.execLoop h sa lend s
  | .loopi h count lend => Sys2Proof.Machine.execLoopi h count lend s
  | .lbreak h off => Sys2Proof.Machine.execLbreak h off s
  | .exit h => Sys2Proof.Machine.execExit h s
  | .nop h => Sys2Proof.Machine.execNop h s
  | .trap h code => Sys2Proof.Machine.execTrap h code s
  | .tret h => Sys2Proof.Machine.execTret h s
  | .sleep h sa => Sys2Proof.Machine.execSleep h sa s
  | .bar h sa cnt arv bid => Sys2Proof.Machine.execBar h sa cnt arv bid s
  | .gbar h cls => Sys2Proof.Machine.execGbar h cls s
  | .mbinit h bi sa => Sys2Proof.Machine.execMbinit h bi sa s
  | .mbexp h bi sa => Sys2Proof.Machine.execMbexp h bi sa s
  | .mbarr h bi sa tx => Sys2Proof.Machine.execMbarr h bi sa tx s
  | .mbwait h bi sa sb qd => Sys2Proof.Machine.execMbwait h bi sa sb qd s
  | .fence h scope ord => Sys2Proof.Machine.execFence h scope ord s
  | .fencea h scope ord => Sys2Proof.Machine.execFencea h scope ord s
  | .srd h sd idx => Sys2Proof.Machine.execSrd h sd idx s
  | .swr h idx ss => Sys2Proof.Machine.execSwr h idx ss s
  | .capq h sd la idx qk => Sys2Proof.Machine.execCapq h sd la idx qk s
  | .clk h sd => Sys2Proof.Machine.execClk h sd s
  | .evpost h sa sb => Sys2Proof.Machine.execEvpost h sa sb s
  | .tblld h sa => Sys2Proof.Machine.execTblld h sa s
  | .tblswp h => Sys2Proof.Machine.execTblswp h s
  | .racq h => Sys2Proof.Machine.execRacq h s
  | .rrel h => Sys2Proof.Machine.execRrel h s
  | .tierq h sd sa => Sys2Proof.Machine.execTierq h sd sa s
  | .sld h sd sa la sx off size scope ord => Sys2Proof.Machine.execSld h sd sa la sx off size scope ord s
  | .sst h ss sa off size scope ord => Sys2Proof.Machine.execSst h ss sa off size scope ord s
  | .satom h sd sa la sb aop off size scope ord => Sys2Proof.Machine.execSatom h sd sa la sb aop off size scope ord s
  | .slds h sd sa la sx off size ord => Sys2Proof.Machine.execSlds h sd sa la sx off size ord s
  | .ssts h ss sa off size ord => Sys2Proof.Machine.execSsts h ss sa off size ord s
  | .spref h sa off => Sys2Proof.Machine.execSpref h sa off s
  | .spclr h sa sb => Sys2Proof.Machine.execSpclr h sa sb s
  | .spqry h sd sa kind => Sys2Proof.Machine.execSpqry h sd sa kind s
  | .tcopy h sd sa sb lslot tbar nobar => Sys2Proof.Machine.execTcopy h sd sa sb lslot tbar nobar s
  | .tstore h sd sa sb lslot tbar nobar => Sys2Proof.Machine.execTstore h sd sa sb lslot tbar nobar s
  | .tloadx h sd sa sb lslot tbar nobar chain => Sys2Proof.Machine.execTloadx h sd sa sb lslot tbar nobar chain s
  | .tstorex h sd sa sb lslot tbar nobar chain => Sys2Proof.Machine.execTstorex h sd sa sb lslot tbar nobar chain s
  | .tlrec h sa slot => Sys2Proof.Machine.execTlrec h sa slot s
  | .twait h n => Sys2Proof.Machine.execTwait h n s
  | .xjob h sd sa stream => Sys2Proof.Machine.execXjob h sd sa stream s
  | .xwait h sd sa sb => Sys2Proof.Machine.execXwait h sd sa sb s
  | .qinit h sa pq => Sys2Proof.Machine.execQinit h sa pq s
  | .qpush h sa pq scope ord => Sys2Proof.Machine.execQpush h sa pq scope ord s
  | .qpop h sd qd pq scope ord => Sys2Proof.Machine.execQpop h sd qd pq scope ord s
  | .qtry h sd qd pq scope ord => Sys2Proof.Machine.execQtry h sd qd pq scope ord s
  | .qclose h pq scope ord => Sys2Proof.Machine.execQclose h pq scope ord s
  | .qlen h sd pq => Sys2Proof.Machine.execQlen h sd pq s
  | .mma h sd sa sb fw => Sys2Proof.Machine.execMma h sd sa sb fw s
  | .mmas h sd sa sb fw => Sys2Proof.Machine.execMmas h sd sa sb fw s
  | .mmap h sd sa sb fw => Sys2Proof.Machine.execMmap h sd sa sb fw s
  | .accz h sa sb => Sys2Proof.Machine.execAccz h sa sb s
  | .acccpy h sd sa sb => Sys2Proof.Machine.execAcccpy h sd sa sb s
  | .mwait h n => Sys2Proof.Machine.execMwait h n s
  | .tbegin h sd => Sys2Proof.Machine.execTbegin h sd s
  | .tend h => Sys2Proof.Machine.execTend h s
  | .tabort h leave => Sys2Proof.Machine.execTabort h leave s
  | .tstat h sd => Sys2Proof.Machine.execTstat h sd s
  | .asdecl h sa sb g setn => Sys2Proof.Machine.execAsdecl h sa sb g setn s
  | .asdrop h setn => Sys2Proof.Machine.execAsdrop h setn s
  | .unallocatedOpcode w => Sys2Proof.Machine.execUnallocatedOpcode w s
  | .lateDataArrival warp win lanes => Sys2Proof.Machine.execLateDataArrival warp win lanes s
  | .joinForcedRelease warp => Sys2Proof.Machine.execJoinForcedRelease warp s
  | .racqGrant core => Sys2Proof.Machine.execRacqGrant core s
  | .rrelDrainDone warp => Sys2Proof.Machine.execRrelDrainDone warp s
  | .sleepEnd warp => Sys2Proof.Machine.execSleepEnd warp s
  | .mbwaitTimeout warp => Sys2Proof.Machine.execMbwaitTimeout warp s
  | .pergolaParkedWord team pq => Sys2Proof.Machine.execPergolaParkedWord team pq s
  | .matrixStep core ctx => Sys2Proof.Machine.execMatrixStep core ctx s
  | .matrixOpComplete core ctx => Sys2Proof.Machine.execMatrixOpComplete core ctx s
  | .copyChunk xfer => Sys2Proof.Machine.execCopyChunk xfer s
  | .copyLineDelivery core copy line => Sys2Proof.Machine.execCopyLineDelivery core copy line s
  | .copyComplete core copy => Sys2Proof.Machine.execCopyComplete core copy s
  | .jobStart ctx stream ticket => Sys2Proof.Machine.execJobStart ctx stream ticket s
  | .jobComplete ctx stream ticket => Sys2Proof.Machine.execJobComplete ctx stream ticket s
  | .rdcEviction die line => Sys2Proof.Machine.execRdcEviction die line s
  | .granuleRequest warp gran => Sys2Proof.Machine.execGranuleRequest warp gran s
  | .granuleGrant gran => Sys2Proof.Machine.execGranuleGrant gran s
  | .wound warp => Sys2Proof.Machine.execWound warp s
  | .taskSlotGrant core => Sys2Proof.Machine.execTaskSlotGrant core s
  | .taskCommit warp => Sys2Proof.Machine.execTaskCommit warp s
  | .trapDelivery warp => Sys2Proof.Machine.execTrapDelivery warp s
  | .teamStall team => Sys2Proof.Machine.execTeamStall team s
  | .priResponse req answer => Sys2Proof.Machine.execPriResponse req answer s
  | .atsCompletion req hpa sizeLog2 rd wr => Sys2Proof.Machine.execAtsCompletion req hpa sizeLog2 rd wr s
  | .atsInvalidateRequest pasid va len => Sys2Proof.Machine.execAtsInvalidateRequest pasid va len s
  | .invalidationComplete => Sys2Proof.Machine.execInvalidationComplete s
  | .pageFaultSwapOut team => Sys2Proof.Machine.execPageFaultSwapOut team s
  | .packetBegin ctx queue => Sys2Proof.Machine.execPacketBegin ctx queue s
  | .waitSignalPoll ctx queue => Sys2Proof.Machine.execWaitSignalPoll ctx queue s
  | .teamAdmit launch gang cores => Sys2Proof.Machine.execTeamAdmit launch gang cores s
  | .gangReserve launch gang cores => Sys2Proof.Machine.execGangReserve launch gang cores s
  | .teamRetire team => Sys2Proof.Machine.execTeamRetire team s
  | .launchComplete launch => Sys2Proof.Machine.execLaunchComplete launch s
  | .doorbell ctx queue => Sys2Proof.Machine.execDoorbell ctx queue s
  | .ctxcmdActivate ctx => Sys2Proof.Machine.execCtxcmdActivate ctx s
  | .ctxcmdRetire ctx => Sys2Proof.Machine.execCtxcmdRetire ctx s
  | .invgo => Sys2Proof.Machine.execInvgo s
  | .keycmdLoad => Sys2Proof.Machine.execKeycmdLoad s
  | .keycmdErase => Sys2Proof.Machine.execKeycmdErase s
  | .leasecmdOfferGrant rec => Sys2Proof.Machine.execLeasecmdOfferGrant rec s
  | .leasecmdReclaim rec => Sys2Proof.Machine.execLeasecmdReclaim rec s
  | .leasecmdReturn rec => Sys2Proof.Machine.execLeasecmdReturn rec s
  | .leasecmdRetire rec => Sys2Proof.Machine.execLeasecmdRetire rec s
  | .grantMessage peer leaseid lbase size => Sys2Proof.Machine.execGrantMessage peer leaseid lbase size s
  | .leasePeerTimeout rec => Sys2Proof.Machine.execLeasePeerTimeout rec s
  | .reclaimArrival rec => Sys2Proof.Machine.execReclaimArrival rec s
  | .quiesceMessage rec fb ret => Sys2Proof.Machine.execQuiesceMessage rec fb ret s
  | .chunkMoved rec chunk => Sys2Proof.Machine.execChunkMoved rec chunk s
  | .leaseDemote rec => Sys2Proof.Machine.execLeaseDemote rec s
  | .leaseDeadline rec => Sys2Proof.Machine.execLeaseDeadline rec s
  | .fabricRequest dev req => Sys2Proof.Machine.execFabricRequest dev req s
  | .fabricReply req answer => Sys2Proof.Machine.execFabricReply req answer s
  | .fabricTimeout req => Sys2Proof.Machine.execFabricTimeout req s
  | .planeFailure port => Sys2Proof.Machine.execPlaneFailure port s
  | .planeDrainDone entry => Sys2Proof.Machine.execPlaneDrainDone entry s
  | .pcieLinkDown => Sys2Proof.Machine.execPcieLinkDown s
  | .ucieLinkFailure => Sys2Proof.Machine.execUcieLinkFailure s
  | .patrolScrub unit => Sys2Proof.Machine.execPatrolScrub unit s
  | .peerRequest off req => Sys2Proof.Machine.execPeerRequest off req s
  | .precmdPreempt ctx => Sys2Proof.Machine.execPrecmdPreempt ctx s
  | .precmdResume ctx => Sys2Proof.Machine.execPrecmdResume ctx s
  | .precmdDiscard ctx => Sys2Proof.Machine.execPrecmdDiscard ctx s
  | .frameSave team => Sys2Proof.Machine.execFrameSave team s
  | .frameRestore frame cores => Sys2Proof.Machine.execFrameRestore frame cores s
  | .eventQueueEnable ctx ctl => Sys2Proof.Machine.execEventQueueEnable ctx ctl s
  | .devnumWrite value => Sys2Proof.Machine.execDevnumWrite value s
  | .fwcmdGo => Sys2Proof.Machine.execFwcmdGo s
  | .registerWrite off value => Sys2Proof.Machine.execRegisterWrite off value s
  | .deviceReset => Sys2Proof.Machine.execDeviceReset s
  | .functionReady bit => Sys2Proof.Machine.execFunctionReady bit s
  | .getVersion => Sys2Proof.Machine.execGetVersion s
  | .getCapabilities => Sys2Proof.Machine.execGetCapabilities s
  | .negotiateAlgorithms => Sys2Proof.Machine.execNegotiateAlgorithms s
  | .getDigests => Sys2Proof.Machine.execGetDigests s
  | .getCertificate off len => Sys2Proof.Machine.execGetCertificate off len s
  | .challenge nonce => Sys2Proof.Machine.execChallenge nonce s
  | .getMeasurements index => Sys2Proof.Machine.execGetMeasurements index s
  | .thermalThrottle island mhz => Sys2Proof.Machine.execThermalThrottle island mhz s
  | .moduleFault what => Sys2Proof.Machine.execModuleFault what s
  | .nguyxFinalise ctx obj => Sys2Proof.Machine.execNguyxFinalise ctx obj s
  | .storePerformed warp => Sys2Proof.Machine.execStorePerformed warp s
  | .eventQueueSpace ctx => Sys2Proof.Machine.execEventQueueSpace ctx s
  | .leaseFailed rec => Sys2Proof.Machine.execLeaseFailed rec s
  | .portUp port => Sys2Proof.Machine.execPortUp port s
  | .pcieLinkUp => Sys2Proof.Machine.execPcieLinkUp s
  | .moduleFaultEnd what => Sys2Proof.Machine.execModuleFaultEnd what s
  | .issuePauseEnd core => Sys2Proof.Machine.execIssuePauseEnd core s
  | .corePowerGate core gated => Sys2Proof.Machine.execCorePowerGate core gated s
  | .debuggerHalt core => Sys2Proof.Machine.execDebuggerHalt core s
  | .debuggerResume core => Sys2Proof.Machine.execDebuggerResume core s
  | .controlStateParityError core => Sys2Proof.Machine.execControlStateParityError core s

end Sys2Proof.Machine
end

