-- ==== Sys2Proof/Machine/Sources.lean ====
section
/-! DEFINITION. The registers that an instruction word reads, for SOFT (R392, R403). -/

namespace Sys2Proof.Machine

/-- The registers that a word reads, as (file, first, count); the files are those of `badRegs`. -/
def sourcesOf : Instr → List (Nat × Nat × Nat)
  | .iadd h _ va vb => [(2, h.gp.toNat, 1), (0, va.toNat, 1), (0, vb.toNat, 1)]
  | .isub h _ va vb => [(2, h.gp.toNat, 1), (0, va.toNat, 1), (0, vb.toNat, 1)]
  | .iaddi h _ va _ => [(2, h.gp.toNat, 1), (0, va.toNat, 1)]
  | .iabsd h _ va vb => [(2, h.gp.toNat, 1), (0, va.toNat, 1), (0, vb.toNat, 1)]
  | .imin h _ va vb => [(2, h.gp.toNat, 1), (0, va.toNat, 1), (0, vb.toNat, 1)]
  | .imax h _ va vb => [(2, h.gp.toNat, 1), (0, va.toNat, 1), (0, vb.toNat, 1)]
  | .umin h _ va vb => [(2, h.gp.toNat, 1), (0, va.toNat, 1), (0, vb.toNat, 1)]
  | .umax h _ va vb => [(2, h.gp.toNat, 1), (0, va.toNat, 1), (0, vb.toNat, 1)]
  | .imul24 h _ va vb => [(2, h.gp.toNat, 1), (0, va.toNat, 1), (0, vb.toNat, 1)]
  | .umul24 h _ va vb => [(2, h.gp.toNat, 1), (0, va.toNat, 1), (0, vb.toNat, 1)]
  | .imad24 h _ va vb vc _ => [(2, h.gp.toNat, 1), (0, va.toNat, 1), (0, vb.toNat, 1), (0, vc.toNat, 1)]
  | .imul h _ va vb => [(2, h.gp.toNat, 1), (0, va.toNat, 1), (0, vb.toNat, 1)]
  | .imulhi h _ va vb => [(2, h.gp.toNat, 1), (0, va.toNat, 1), (0, vb.toNat, 1)]
  | .umulhi h _ va vb => [(2, h.gp.toNat, 1), (0, va.toNat, 1), (0, vb.toNat, 1)]
  | .idiv h _ va vb => [(2, h.gp.toNat, 1), (0, va.toNat, 1), (0, vb.toNat, 1)]
  | .udiv h _ va vb => [(2, h.gp.toNat, 1), (0, va.toNat, 1), (0, vb.toNat, 1)]
  | .irem h _ va vb => [(2, h.gp.toNat, 1), (0, va.toNat, 1), (0, vb.toNat, 1)]
  | .urem h _ va vb => [(2, h.gp.toNat, 1), (0, va.toNat, 1), (0, vb.toNat, 1)]
  | .iadds h _ va vb => [(2, h.gp.toNat, 1), (0, va.toNat, 1), (0, vb.toNat, 1)]
  | .isubs h _ va vb => [(2, h.gp.toNat, 1), (0, va.toNat, 1), (0, vb.toNat, 1)]
  | .iadd64 h _ va vb => [(2, h.gp.toNat, 1), (0, va.toNat, 2), (0, vb.toNat, 2)]
  | .isub64 h _ va vb => [(2, h.gp.toNat, 1), (0, va.toNat, 2), (0, vb.toNat, 2)]
  | .imad32 h _ va vb vc => [(2, h.gp.toNat, 1), (0, va.toNat, 1), (0, vb.toNat, 1), (0, vc.toNat, 1)]
  | .and h _ va vb => [(2, h.gp.toNat, 1), (0, va.toNat, 1), (0, vb.toNat, 1)]
  | .or h _ va vb => [(2, h.gp.toNat, 1), (0, va.toNat, 1), (0, vb.toNat, 1)]
  | .xor h _ va vb => [(2, h.gp.toNat, 1), (0, va.toNat, 1), (0, vb.toNat, 1)]
  | .andn h _ va vb => [(2, h.gp.toNat, 1), (0, va.toNat, 1), (0, vb.toNat, 1)]
  | .shl h _ va vb => [(2, h.gp.toNat, 1), (0, va.toNat, 1), (0, vb.toNat, 1)]
  | .shr h _ va vb => [(2, h.gp.toNat, 1), (0, va.toNat, 1), (0, vb.toNat, 1)]
  | .sar h _ va vb => [(2, h.gp.toNat, 1), (0, va.toNat, 1), (0, vb.toNat, 1)]
  | .rotl h _ va vb => [(2, h.gp.toNat, 1), (0, va.toNat, 1), (0, vb.toNat, 1)]
  | .bfe h _ va _ _ _ => [(2, h.gp.toNat, 1), (0, va.toNat, 1)]
  | .bfi h _ va vb _ _ => [(2, h.gp.toNat, 1), (0, va.toNat, 1), (0, vb.toNat, 1)]
  | .popc h _ va => [(2, h.gp.toNat, 1), (0, va.toNat, 1)]
  | .clz h _ va => [(2, h.gp.toNat, 1), (0, va.toNat, 1)]
  | .ctz h _ va => [(2, h.gp.toNat, 1), (0, va.toNat, 1)]
  | .brev h _ va => [(2, h.gp.toNat, 1), (0, va.toNat, 1)]
  | .prmt h _ va vb _ _ _ => [(2, h.gp.toNat, 1), (0, va.toNat, 1), (0, vb.toNat, 1)]
  | .lop3 h _ va vb vc _ => [(2, h.gp.toNat, 1), (0, va.toNat, 1), (0, vb.toNat, 1), (0, vc.toNat, 1)]
  | .mov h _ va => [(2, h.gp.toNat, 1), (0, va.toNat, 1)]
  | .movi h _ _ => [(2, h.gp.toNat, 1)]
  | .sel h _ va vb _ ps => [(2, h.gp.toNat, 1), (0, va.toNat, 1), (0, vb.toNat, 1), (2, ps.toNat, 1)]
  | .lspec h _ _ => [(2, h.gp.toNat, 1)]
  | .icmp h va vb _ ps _ _ _ _ => [(2, h.gp.toNat, 1), (0, va.toNat, 1), (0, vb.toNat, 1), (2, ps.toNat, 1)]
  | .ucmp h va vb _ ps _ _ _ _ => [(2, h.gp.toNat, 1), (0, va.toNat, 1), (0, vb.toNat, 1), (2, ps.toNat, 1)]
  | .fcmp h va vb _ ps _ _ _ _ => [(2, h.gp.toNat, 1), (0, va.toNat, 1), (0, vb.toNat, 1), (2, ps.toNat, 1)]
  | .plop h _ pa pb pc _ => [(2, h.gp.toNat, 1), (2, pa.toNat, 1), (2, pb.toNat, 1), (2, pc.toNat, 1)]
  | .p2v h _ => [(2, h.gp.toNat, 1), (2, 0, 7)]
  | .v2p h va _ => [(2, h.gp.toNat, 1), (0, va.toNat, 1)]
  | .fadd h _ va vb => [(2, h.gp.toNat, 1), (0, va.toNat, 1), (0, vb.toNat, 1)]
  | .fsub h _ va vb => [(2, h.gp.toNat, 1), (0, va.toNat, 1), (0, vb.toNat, 1)]
  | .fmul h _ va vb => [(2, h.gp.toNat, 1), (0, va.toNat, 1), (0, vb.toNat, 1)]
  | .ffma h _ va vb vc => [(2, h.gp.toNat, 1), (0, va.toNat, 1), (0, vb.toNat, 1), (0, vc.toNat, 1)]
  | .fmin h _ va vb => [(2, h.gp.toNat, 1), (0, va.toNat, 1), (0, vb.toNat, 1)]
  | .fmax h _ va vb => [(2, h.gp.toNat, 1), (0, va.toNat, 1), (0, vb.toNat, 1)]
  | .fmed3 h _ va vb vc => [(2, h.gp.toNat, 1), (0, va.toNat, 1), (0, vb.toNat, 1), (0, vc.toNat, 1)]
  | .fclamp h _ va vb vc => [(2, h.gp.toNat, 1), (0, va.toNat, 1), (0, vb.toNat, 1), (0, vc.toNat, 1)]
  | .frnd h _ va _ => [(2, h.gp.toNat, 1), (0, va.toNat, 1)]
  | .fabs h _ va => [(2, h.gp.toNat, 1), (0, va.toNat, 1)]
  | .fneg h _ va => [(2, h.gp.toNat, 1), (0, va.toNat, 1)]
  | .frcp h _ va => [(2, h.gp.toNat, 1), (0, va.toNat, 1)]
  | .frsq h _ va => [(2, h.gp.toNat, 1), (0, va.toNat, 1)]
  | .fsqrt h _ va => [(2, h.gp.toNat, 1), (0, va.toNat, 1)]
  | .fdiv h _ va vb => [(2, h.gp.toNat, 1), (0, va.toNat, 1), (0, vb.toNat, 1)]
  | .fexp2 h _ va => [(2, h.gp.toNat, 1), (0, va.toNat, 1)]
  | .flog2 h _ va => [(2, h.gp.toNat, 1), (0, va.toNat, 1)]
  | .fsin h _ va => [(2, h.gp.toNat, 1), (0, va.toNat, 1)]
  | .fcos h _ va => [(2, h.gp.toNat, 1), (0, va.toNat, 1)]
  | .ftanh h _ va => [(2, h.gp.toNat, 1), (0, va.toNat, 1)]
  | .flut h _ va => [(2, h.gp.toNat, 1), (0, va.toNat, 1)]
  | .fclass h _ va _ _ => [(2, h.gp.toNat, 1), (0, va.toNat, 1)]
  | .hadd2 h _ va vb => [(2, h.gp.toNat, 1), (0, va.toNat, 1), (0, vb.toNat, 1)]
  | .hsub2 h _ va vb => [(2, h.gp.toNat, 1), (0, va.toNat, 1), (0, vb.toNat, 1)]
  | .hmul2 h _ va vb => [(2, h.gp.toNat, 1), (0, va.toNat, 1), (0, vb.toNat, 1)]
  | .hfma2 h _ va vb vc => [(2, h.gp.toNat, 1), (0, va.toNat, 1), (0, vb.toNat, 1), (0, vc.toNat, 1)]
  | .hmin2 h _ va vb => [(2, h.gp.toNat, 1), (0, va.toNat, 1), (0, vb.toNat, 1)]
  | .hmax2 h _ va vb => [(2, h.gp.toNat, 1), (0, va.toNat, 1), (0, vb.toNat, 1)]
  | .hmed3 h _ va vb vc => [(2, h.gp.toNat, 1), (0, va.toNat, 1), (0, vb.toNat, 1), (0, vc.toNat, 1)]
  | .hclamp2 h _ va vb vc => [(2, h.gp.toNat, 1), (0, va.toNat, 1), (0, vb.toNat, 1), (0, vc.toNat, 1)]
  | .badd2 h _ va vb => [(2, h.gp.toNat, 1), (0, va.toNat, 1), (0, vb.toNat, 1)]
  | .bmul2 h _ va vb => [(2, h.gp.toNat, 1), (0, va.toNat, 1), (0, vb.toNat, 1)]
  | .bfma2 h _ va vb vc => [(2, h.gp.toNat, 1), (0, va.toNat, 1), (0, vb.toNat, 1), (0, vc.toNat, 1)]
  | .bmin2 h _ va vb => [(2, h.gp.toNat, 1), (0, va.toNat, 1), (0, vb.toNat, 1)]
  | .bmax2 h _ va vb => [(2, h.gp.toNat, 1), (0, va.toNat, 1), (0, vb.toNat, 1)]
  | .cvt h _ va _ st _ _ => [(2, h.gp.toNat, 1), (0, va.toNat, if tyIs64 st then 2 else 1)]
  | .pack2 h _ va vb _ _ _ => [(2, h.gp.toNat, 1), (0, va.toNat, 1), (0, vb.toNat, 1)]
  | .pack4 h _ va _ _ _ => [(2, h.gp.toNat, 1), (0, va.toNat, 4)]
  | .unpack h _ va _ _ => [(2, h.gp.toNat, 1), (0, va.toNat, 1)]
  | .qb8 h _ va vb _ => [(2, h.gp.toNat, 1), (0, va.toNat, 1), (0, vb.toNat, 1)]
  | .shfl h _ va vb _ imm _ _ _ => [(2, h.gp.toNat, 1), (0, va.toNat, 1), (0, vb.toNat, if imm then 0 else 1)]
  | .vote h _ _ _ ps _ => [(2, h.gp.toNat, 1), (2, ps.toNat, 1)]
  | .reduce h _ va _ => [(2, h.gp.toNat, 1), (0, va.toNat, 1)]
  | .scan h _ va _ _ => [(2, h.gp.toNat, 1), (0, va.toNat, 1)]
  | .matchAny h _ va => [(2, h.gp.toNat, 1), (0, va.toNat, 1)]
  | .rdlane h _ va sl lsrc _ => [(2, h.gp.toNat, 1), (0, va.toNat, 1), (1, sl.toNat, if lsrc then 1 else 0)]
  | .wrlane h _ ss sl lsrc _ => [(2, h.gp.toNat, 1), (1, ss.toNat, 1), (1, sl.toNat, if lsrc then 1 else 0)]
  | .vpcget h _ => [(2, h.gp.toNat, 1)]
  | .vpcset h va => [(2, h.gp.toNat, 1), (0, va.toNat, 2)]
  | .lbra h _ => [(2, h.gp.toNat, 1)]
  | .lbrx h va => [(2, h.gp.toNat, 1), (0, va.toNat, 2)]
  | .join h k => [(2, h.gp.toNat, 1), (4, 0x18 + k.toNat, 1)]
  | .jarr h acc k => [(2, h.gp.toNat, 1), (4, 0x18 + k.toNat, if acc then 1 else 0)]
  | .lexit h => [(2, h.gp.toNat, 1)]
  | .ld h _ va _ _ _ _ _ _ => [(2, h.gp.toNat, 1), (0, va.toNat, 2)]
  | .st h vs va _ size _ _ => [(2, h.gp.toNat, 1), (0, vs.toNat, size.regs), (0, va.toNat, 2)]
  | .lds h _ va _ _ _ _ _ => [(2, h.gp.toNat, 1), (0, va.toNat, 1)]
  | .sts h vs va _ size _ => [(2, h.gp.toNat, 1), (0, vs.toNat, size.regs), (0, va.toNat, 1)]
  | .atom h _ va _ vb aop _ size _ _ => [(2, h.gp.toNat, 1), (0, va.toNat, 2), (0, vb.toNat, atomRegs aop size)]
  | .atoms h _ va _ vb aop _ size _ => [(2, h.gp.toNat, 1), (0, va.toNat, 1), (0, vb.toNat, atomRegs aop size)]
  | .cst h vs va _ size _ _ => [(2, h.gp.toNat, 1), (0, vs.toNat, size.regs), (0, va.toNat, 2)]
  | .accrd h _ va _ _ _ => [(2, h.gp.toNat, 1), (0, va.toNat, 1)]
  | .accwr h vs va _ size => [(2, h.gp.toNat, 1), (0, vs.toNat, size.regs), (0, va.toNat, 1)]
  | .discard h va _ => [(2, h.gp.toNat, 1), (0, va.toNat, 2)]
  | .pref h va _ => [(2, h.gp.toNat, 1), (0, va.toNat, 2)]
  | .sadd h _ sa sb => [(3, h.qg.toNat, 1), (1, sa.toNat, 1), (1, sb.toNat, 1)]
  | .ssub h _ sa sb => [(3, h.qg.toNat, 1), (1, sa.toNat, 1), (1, sb.toNat, 1)]
  | .saddi h _ sa _ => [(3, h.qg.toNat, 1), (1, sa.toNat, 1)]
  | .smul h _ sa sb => [(3, h.qg.toNat, 1), (1, sa.toNat, 1), (1, sb.toNat, 1)]
  | .smulhi h _ sa sb => [(3, h.qg.toNat, 1), (1, sa.toNat, 1), (1, sb.toNat, 1)]
  | .smin h _ sa sb => [(3, h.qg.toNat, 1), (1, sa.toNat, 1), (1, sb.toNat, 1)]
  | .smax h _ sa sb => [(3, h.qg.toNat, 1), (1, sa.toNat, 1), (1, sb.toNat, 1)]
  | .sminn h _ sa sb => [(3, h.qg.toNat, 1), (1, sa.toNat, 1), (1, sb.toNat, 1)]
  | .smaxn h _ sa sb => [(3, h.qg.toNat, 1), (1, sa.toNat, 1), (1, sb.toNat, 1)]
  | .sand h _ sa sb => [(3, h.qg.toNat, 1), (1, sa.toNat, 1), (1, sb.toNat, 1)]
  | .sor h _ sa sb => [(3, h.qg.toNat, 1), (1, sa.toNat, 1), (1, sb.toNat, 1)]
  | .sxor h _ sa sb => [(3, h.qg.toNat, 1), (1, sa.toNat, 1), (1, sb.toNat, 1)]
  | .sshl h _ sa sb => [(3, h.qg.toNat, 1), (1, sa.toNat, 1), (1, sb.toNat, 1)]
  | .sshr h _ sa sb => [(3, h.qg.toNat, 1), (1, sa.toNat, 1), (1, sb.toNat, 1)]
  | .ssar h _ sa sb => [(3, h.qg.toNat, 1), (1, sa.toNat, 1), (1, sb.toNat, 1)]
  | .smov h _ sa => [(3, h.qg.toNat, 1), (1, sa.toNat, 1)]
  | .smovi h _ _ => [(3, h.qg.toNat, 1)]
  | .sadd64 h _ sa sb => [(3, h.qg.toNat, 1), (1, sa.toNat, 2), (1, sb.toNat, 2)]
  | .ssub64 h _ sa sb => [(3, h.qg.toNat, 1), (1, sa.toNat, 2), (1, sb.toNat, 2)]
  | .sbfe h _ sa _ _ _ => [(3, h.qg.toNat, 1), (1, sa.toNat, 1)]
  | .spopc h _ sa => [(3, h.qg.toNat, 1), (1, sa.toNat, 1)]
  | .sclz h _ sa => [(3, h.qg.toNat, 1), (1, sa.toNat, 1)]
  | .scmp h sa sb _ _ ps _ _ _ _ => [(3, h.qg.toNat, 1), (1, sa.toNat, 1), (1, sb.toNat, 1), (3, ps.toNat, 1)]
  | .ssel h _ sa sb _ qs => [(3, h.qg.toNat, 1), (1, sa.toNat, 1), (1, sb.toNat, 1), (3, qs.toNat, 1)]
  | .qlop h _ qa qb qc _ => [(3, h.qg.toNat, 1), (3, qa.toNat, 1), (3, qb.toNat, 1), (3, qc.toNat, 1)]
  | .sdiv h _ sa sb => [(3, h.qg.toNat, 1), (1, sa.toNat, 1), (1, sb.toNat, 1)]
  | .sdivn h _ sa sb => [(3, h.qg.toNat, 1), (1, sa.toNat, 1), (1, sb.toNat, 1)]
  | .sfadd h _ sa sb => [(3, h.qg.toNat, 1), (1, sa.toNat, 1), (1, sb.toNat, 1)]
  | .sfmul h _ sa sb => [(3, h.qg.toNat, 1), (1, sa.toNat, 1), (1, sb.toNat, 1)]
  | .sffma h _ sa sb sc => [(3, h.qg.toNat, 1), (1, sa.toNat, 1), (1, sb.toNat, 1), (1, sc.toNat, 1)]
  | .scvt h _ sa _ st _ _ => [(3, h.qg.toNat, 1), (1, sa.toNat, if tyIs64 st then 2 else 1)]
  | .bra h _ => [(3, h.qg.toNat, 1)]
  | .brx h sa sb _ => [(3, h.qg.toNat, 1), (1, sa.toNat, 2), (1, sb.toNat, 1)]
  | .call h _ => [(3, h.qg.toNat, 1)]
  | .ret h => [(3, h.qg.toNat, 1), (4, 0x20, 1)]
  | .loop h sa _ => [(3, h.qg.toNat, 1), (1, sa.toNat, 1)]
  | .loopi h _ _ => [(3, h.qg.toNat, 1)]
  | .lbreak h _ => [(3, h.qg.toNat, 1)]
  | .exit h => [(3, h.qg.toNat, 1)]
  | .nop h => [(3, h.qg.toNat, 1)]
  | .trap h _ => [(3, h.qg.toNat, 1)]
  | .tret h => [(3, h.qg.toNat, 1), (4, 0x31, 1), (4, 0x33, 1)]
  | .sleep h sa => [(3, h.qg.toNat, 1), (1, sa.toNat, 1)]
  | .bar h sa cnt _ _ => [(3, h.qg.toNat, 1), (1, sa.toNat, if cnt then 1 else 0)]
  | .gbar h _ => [(3, h.qg.toNat, 1)]
  | .mbinit h _ sa => [(3, h.qg.toNat, 1), (1, sa.toNat, 1)]
  | .mbexp h _ sa => [(3, h.qg.toNat, 1), (1, sa.toNat, 1)]
  | .mbarr h _ sa tx => [(3, h.qg.toNat, 1), (1, sa.toNat, if tx then 1 else 0)]
  | .mbwait h _ sa sb _ => [(3, h.qg.toNat, 1), (1, sa.toNat, 1), (1, sb.toNat, 1)]
  | .fence h _ _ => [(3, h.qg.toNat, 1)]
  | .fencea h _ _ => [(3, h.qg.toNat, 1)]
  | .srd h _ idx => [(3, h.qg.toNat, 1), (4, idx.toNat, if srWide idx.toNat then 2 else 1)]
  | .swr h idx ss => [(3, h.qg.toNat, 1), (1, ss.toNat, if srWide idx.toNat then 2 else 1)]
  | .capq h _ _ _ _ => [(3, h.qg.toNat, 1)]
  | .clk h _ => [(3, h.qg.toNat, 1)]
  | .evpost h sa sb => [(3, h.qg.toNat, 1), (1, sa.toNat, 1), (1, sb.toNat, 1)]
  | .tblld h sa => [(3, h.qg.toNat, 1), (1, sa.toNat, 2)]
  | .tblswp h => [(3, h.qg.toNat, 1)]
  | .racq h => [(3, h.qg.toNat, 1)]
  | .rrel h => [(3, h.qg.toNat, 1)]
  | .tierq h _ sa => [(3, h.qg.toNat, 1), (1, sa.toNat, 2)]
  | .sld h _ sa _ _ _ _ _ _ => [(3, h.qg.toNat, 1), (1, sa.toNat, 2)]
  | .sst h ss sa _ size _ _ => [(3, h.qg.toNat, 1), (1, ss.toNat, size.regs), (1, sa.toNat, 2)]
  | .satom h _ sa _ sb aop _ size _ _ => [(3, h.qg.toNat, 1), (1, sa.toNat, 2), (1, sb.toNat, atomRegs aop size)]
  | .slds h _ sa _ _ _ _ _ => [(3, h.qg.toNat, 1), (1, sa.toNat, 1)]
  | .ssts h ss sa _ size _ => [(3, h.qg.toNat, 1), (1, ss.toNat, size.regs), (1, sa.toNat, 1)]
  | .spref h sa _ => [(3, h.qg.toNat, 1), (1, sa.toNat, 2)]
  | .spclr h sa sb => [(3, h.qg.toNat, 1), (1, sa.toNat, 1), (1, sb.toNat, 1)]
  | .spqry h _ sa _ => [(3, h.qg.toNat, 1), (1, sa.toNat, 1)]
  | .tcopy h sd sa sb _ _ _ => [(3, h.qg.toNat, 1), (1, sd.toNat, 1), (1, sa.toNat, 2), (1, sb.toNat, 1)]
  | .tstore h sd sa sb _ _ _ => [(3, h.qg.toNat, 1), (1, sd.toNat, 1), (1, sa.toNat, 2), (1, sb.toNat, 1)]
  | .tloadx h sd sa sb _ _ _ _ => [(3, h.qg.toNat, 1), (1, sd.toNat, 1), (1, sa.toNat, 2), (1, sb.toNat, 1)]
  | .tstorex h sd sa sb _ _ _ _ => [(3, h.qg.toNat, 1), (1, sd.toNat, 1), (1, sa.toNat, 2), (1, sb.toNat, 1)]
  | .tlrec h sa _ => [(3, h.qg.toNat, 1), (1, sa.toNat, 2)]
  | .twait h _ => [(3, h.qg.toNat, 1)]
  | .xjob h _ sa _ => [(3, h.qg.toNat, 1), (1, sa.toNat, 2)]
  | .xwait h _ sa sb => [(3, h.qg.toNat, 1), (1, sa.toNat, 1), (1, sb.toNat, 1)]
  | .qinit h sa _ => [(3, h.qg.toNat, 1), (1, sa.toNat, 1)]
  | .qpush h sa _ _ _ => [(3, h.qg.toNat, 1), (1, sa.toNat, 2)]
  | .qpop h _ _ _ _ _ => [(3, h.qg.toNat, 1)]
  | .qtry h _ _ _ _ _ => [(3, h.qg.toNat, 1)]
  | .qclose h _ _ _ => [(3, h.qg.toNat, 1)]
  | .qlen h _ _ => [(3, h.qg.toNat, 1)]
  | .mma h sd sa sb _ => [(3, h.qg.toNat, 1), (1, sd.toNat, 1), (1, sa.toNat, 4), (1, sb.toNat, 4)]
  | .mmas h sd sa sb _ => [(3, h.qg.toNat, 1), (1, sd.toNat, 1), (1, sa.toNat, 5), (1, sb.toNat, 4)]
  | .mmap h sd sa sb _ => [(3, h.qg.toNat, 1), (1, sd.toNat, 1), (1, sa.toNat, 4), (1, sb.toNat, 4)]
  | .accz h sa sb => [(3, h.qg.toNat, 1), (1, sa.toNat, 1), (1, sb.toNat, 1)]
  | .acccpy h sd sa sb => [(3, h.qg.toNat, 1), (1, sd.toNat, 1), (1, sa.toNat, 1), (1, sb.toNat, 1)]
  | .mwait h _ => [(3, h.qg.toNat, 1)]
  | .tbegin h _ => [(3, h.qg.toNat, 1)]
  | .tend h => [(3, h.qg.toNat, 1)]
  | .tabort h _ => [(3, h.qg.toNat, 1)]
  | .tstat h _ => [(3, h.qg.toNat, 1)]
  | .asdecl h sa sb _ _ => [(3, h.qg.toNat, 1), (1, sa.toNat, 2), (1, sb.toNat, 2)]
  | .asdrop h _ => [(3, h.qg.toNat, 1)]
  | _ => []

end Sys2Proof.Machine
end

