-- ==== Sys2Proof/Machine/Issue.lean ====
section
/-! DEFINITION. How an issue slot works: fetch and decode (R58 to R60, R71, R350), lookahead windows (R43 to R47), runs (R42)
and arbitration (R27, R301, R302); and what the outside world may do between steps. -/

namespace Sys2Proof.Machine

/-! ## Fetch (R58 to R60, R350) -/

/-- What the fetch of one word answers. -/
inductive Fetched where
  | ok (s : State) (x : W32)
  | wait (s : State)
  | fail (s : State) (t : TrapReq)

/-- R28: the word that a fetch returns, when its home holds `now` at a location: where the word has changed since the
launch's first team was admitted, each fetch returns the new word or an old one. DEDUCED, notes/assumptions/30.md: the old
words are the one at that moment and those that fetches of the launch have found since. -/
def fetchChoice (s : State) (launch a : Nat) (l : Loc) (now : W32) : State × W32 :=
  match kget? s.launches launch with
  | none => (s, now)
  | some x =>
    let at' := a % 2 ^ 57
    let seen := kget x.seen at' []
    let first := x.before.toList.map fun m => BitVec.ofNat 32 (leNat ((s.withImage m).homeBytes l 4))
    let olds := ((seen ++ first).eraseDups).filter (· != now)
    if olds.isEmpty then (s, now)
    else
      let s := if seen.contains now then s
        else { s with launches := kput s.launches launch { x with seen := kput x.seen at' (now :: seen) } }
      let (s, b) := s.free 8
      (s, (now :: olds).getD (b.toNat % (olds.length + 1)) now)

/-- Fetches the word at an address, from its home. A fault is one of the instruction itself (R60, R406). -/
def fetchWord (s : State) (wid : Nat) (w : Warp) (a : Nat) : Fetched :=
  let die := Config.dieOfCore w.core
  let launch := ((s.team? w.team).map (·.launch)).getD 0
  let hurt (s : State) (k pa : Nat) : Fetched :=
    .fail (s.reportBad (s.ctxOf w) w.num w.core k pa) ⟨.dataErr, a, allLanes, BitVec.ofNat 32 k⟩
  match translate s (.fetch wid) (s.ctxOf w) (some w.core) die a .fetch with
  | .wait s => .wait s
  | .err s c info => .fail s ⟨c, a, allLanes, info⟩
  | .ok s l _ =>
    let answer (s : State) (bs : List Byte) : Fetched :=
      let (s, x) := fetchChoice s launch a l (BitVec.ofNat 32 (leNat bs))
      .ok s x
    match l with
    | .own _ _ | .host _ =>
      match s.homeBad l 4 with
      | some k => hurt s k l.phys
      | none => answer s (s.homeBytes l 4)
    | .peer dev pa =>
      let take (s : State) (bs : List Byte) : Fetched := if s.rdcHurt die l 4 then hurt s 3 l.phys else answer s bs
      match s.rdcServe die l 4 with
      | some bs => take s bs
      | none =>
        match fabAsk s (.fetch wid) die dev pa a .read with
        | .wait s => .wait s
        | .err s t => .fail s { t with lanes := allLanes }
        | .done s line => take s ((line.drop l.off).take 4)

/-- What the fetch of an instruction answers: its first word, and how it decodes. -/
inductive FetchedInstr where
  | ok (s : State) (w0 : W32) (d : Decoded)
  | wait (s : State)
  | fail (s : State) (t : TrapReq)

/-- R73: the cause that a word raises as the warp would issue it. The warp is first given trap registers that tell a trap
taken now from an older one. -/
def raises (s : State) (wid : Nat) (w : Warp) (i : Instr) : Option W32 :=
  let mark : W64 := ~~~(BitVec.ofNat 64 w.issueAddr)
  match exec i { s.setWarp wid (if w.inh then { w with dcause := 0 } else { w with t0 := mark }) with cur := wid } with
  | .next s' => (s'.warp? wid).bind fun v =>
      if w.inh then (if v.dcause = 0 then none else some v.dcause) else if v.t0 = mark then none else some v.tcause
  | .fault _ | .refused _ => none

/-- Extension words among which every two-word instruction has one that it accepts: sizes, then types, in ascending order. -/
def trialExts : List W32 :=
  ((List.range 5).flatMap fun size => tab 5 fun ord => BitVec.ofNat 32 (32 * size + ord))
    ++ (List.range 16).flatMap fun dt => tab 16 fun st => BitVec.ofNat 32 (256 * dt + 16 * st)

/-- R71, R74: what the first word of an instruction shows by itself, when its extension word cannot be had: that no extension
word makes an instruction of it, or a cause of R71's later steps. -/
def firstWordShows (s : State) (wid : Nat) (w : Warp) (x : W32) : Option Decoded :=
  match trialExts.findSome? fun y => match decodeWords x y with
      | .instr i n => some (i, n)
      | .illegal _ => none with
  | none => some (.illegal x)
  | some (i, n) =>
    if (raises s wid w i).any fun c => [Cause.role, .regRange, .priv].any fun r => r.code == c then some (.instr i n) else none

/-- Fetches and decodes the instruction at the issue address. An extension word past the top, or one whose fetch faults, is a
cause of a later step than those that word 0 shows (R74). DEDUCED, notes/assumptions/118.md. -/
def fetchInstr (s : State) (wid : Nat) (w : Warp) : FetchedInstr :=
  let a := w.issueAddr
  match fetchWord s wid w a with
  | .wait s => .wait s
  | .fail s t => .fail s t
  | .ok s x =>
    let lost (s' : State) (t : TrapReq) : FetchedInstr := match firstWordShows s wid w x with
      | some d => .ok s x d
      | none => .fail s' t
    if !twoWords x then .ok s x (decodeWords x 0)
    else if !inHalf a 8 then lost s ⟨.vaRange, a + 4, allLanes, 0⟩
    else
      match fetchWord s wid w (a + 4) with
      | .wait s => .wait s
      | .fail s t => lost s t
      | .ok s y => .ok s x (decodeWords x y)

/-! ## Windows at an issue (R43 to R47, R388) -/

/-- The instruction counts toward the open windows once; a handler's instructions count toward none. -/
def Warp.countIssue (w : Warp) : Warp :=
  if w.inh || w.counted then w
  else { w with
    counted := true
    windows := w.windows.map fun x => if x.closed || x.handler then x else { x with count := x.count + 1 } }

/-- The windows that close before this instruction, in the order they were opened. -/
def Warp.dueSeqs (w : Warp) : List Nat :=
  (w.windows.filter fun x => !x.closed && x.handler == w.inh && (w.inh || decide (x.la + 1 ≤ x.count))).map (·.acc.seq)

/-- The word opens a window (R43, R45). -/
def opensWindow (w : Warp) (i : Instr) : Bool :=
  match i with
  | .ld .. | .lds .. | .atom .. | .atoms .. | .accrd .. => true
  | .sld h .. | .slds h .. | .satom h .. | .capq h .. => w.qGuard h
  | _ => false

/-- R46: the window that a ninth one closes first. -/
def Warp.ninth (w : Warp) (i : Instr) : List Nat :=
  let openOnes := w.windows.filter fun x => !x.closed
  if opensWindow w i && decide (8 ≤ openOnes.length) then (openOnes.take 1).map (·.acc.seq) else []

/-- Counts the instruction and closes what it closes. -/
def closeDue (s : State) (wid : Nat) (w : Warp) (i : Instr) : Closed :=
  let w := w.countIssue
  match closeList s wid w false w.dueSeqs with
  | .waits s w => .waits s w
  | .shut s w => closeList s wid w false (w.ninth i)

/-! ## SOFT (R392, R403) -/

/-- The words that, with their guard true, leave for another address. -/
def leaves (w : Warp) : Instr → Bool
  | .bra h _ | .call h _ | .ret h | .brx h _ _ _ | .lbreak h _ => w.qGuard h
  | _ => false

/-- R86: the loop counters that the end tests at an address read, by their special-register index. -/
def countersRead (w : Warp) (addr : Nat) : List LoopRec → List Nat
  | [] => []
  | r :: rs =>
    if r.exitAddr = addr then (0x10 + rs.length) :: (if (kget w.lc rs.length 0).toNat ≤ 1 then countersRead w addr rs else [])
    else []

/-- R251: the coordinates of a copy word past its first, as many as its slot's record has dimensions; a slot that is invalid
or damaged shows no rank. -/
def coordsRead (s : State) (w : Warp) : Instr → List (Nat × Nat × Nat)
  | .tcopy _ _ _ sb lslot _ _ | .tstore _ _ _ sb lslot _ _ | .tloadx _ _ _ sb lslot _ _ _ | .tstorex _ _ _ sb lslot _ _ _ =>
    match (s.team? w.team).bind fun t => kget? t.layouts lslot.toNat with
    | none => []
    | some rcd => if s.isBad (7, w.core, layoutUnit w.team lslot.toNat) then [] else [(1, sb.toNat + 1, recRank rcd - 1)]
  | _ => []

/-- The registers that a word reads of a warp: in handler mode its uniform predicates are the handler bank's (R388), and
where it falls through to a loop's end the loop's counter is among them. -/
def State.readsOf (s : State) (w : Warp) (i : Instr) : List (Nat × Nat × Nat) :=
  (sourcesOf i).map (fun r => if r.1 = 3 && w.inh then (5, r.2) else r) ++ coordsRead s w i
    ++ if w.inh || leaves w i then [] else (countersRead w (w.issueAddr + i.len) w.loops).map fun k => (4, k, 1)

/-- A register that the word reads holds a parity error: the storage kind at the lowest lane, and the lanes. A guard is
read in every active lane, the other registers in the executing ones. -/
def softRead (s : State) (w : Warp) (i : Instr) : Option (Nat × LaneMask) :=
  if w.badRegs.isEmpty then none
  else
    let w0 := firstWord i
    let lane := !w0.getLsbD 31
    let x : LaneMask := if lane then w.exec (laneHdr w0) else if w.qGuard (warpHdr w0) then allLanes else 0
    let all : LaneMask := if lane then w.active else allLanes
    let hit (m : LaneMask) (r : Nat × Nat × Nat) : List (Nat × LaneMask) :=
      (w.badRegs.filter fun u => r.1 == u.1 && decide (r.2.1 ≤ u.2.1) && decide (u.2.1 < r.2.1 + r.2.2)).map fun u =>
        if u.1 = 0 then (8, m &&& (1#32 <<< u.2.2)) else (9, m)
    let hits : List (Nat × LaneMask) := (match s.readsOf w i with
      | [] => []
      | g :: rs => hit all g ++ rs.flatMap (hit x)).filter fun h => h.2 != 0
    let m : LaneMask := hits.foldl (fun m h => m ||| h.2) 0
    (hits.find? fun h => laneBit h.2 (lowest m)).map fun h => (h.1, m)

/-- R73: a precise cause that R74 puts before the contained ones. -/
def comesFirst (c : W32) : Bool :=
  [Cause.illegalOp, .role, .regRange, .priv, .align, .vaRange, .spadRange, .accRange, .gangClass, .fmt, .loop, .queue, .mbar,
    .task, .taskCap, .set, .brk].any fun x => x.code == c

/-- R74: the word would raise a cause of an earlier step than SOFT. DESIGN CHOICE, notes/assumptions/136.md: such a cause is
found from the bits that the word's registers hold, the damaged ones among them. -/
def trapsFirst (s : State) (wid : Nat) (w : Warp) (i : Instr) : Bool := (raises s wid w i).any comesFirst

/-! ## One word of a warp -/

/-- What an attempt to issue a warp's next word answers: nothing issued (its fetch waits), or the word's outcome. -/
inductive Attempt where
  | held (s : State)
  | out (o : Out)

def mapOut (f : State → State) (o : Out) : Out :=
  match o with
  | .next s => .next (f s)
  | .fault r => .fault r
  | .refused r => .refused r

/-- The word stands for a lane word: bit 31 is clear (R58). -/
def isLaneWord (w0 : W32) : Bool := !w0.getLsbD 31

/-- TBEGIN, TEND and TRET wait for closes of their own. -/
def closesItself : Instr → Bool
  | .tbegin _ _ | .tend _ | .tret _ => true
  | _ => false

/-- The wait of a word whose close waits for data (R47). -/
def Warp.waitClose (w : Warp) (s : State) (i : Instr) : Warp :=
  let x : Wait := match w.wait with
    | some x => { x with kind := .windowClose }
    | none => ⟨.windowClose, i, w.issueAddr, w.active, s.stamp, s.time.toNat⟩
  { w with wait := some x }

/-- R301: the wait of a warp whose instruction is still being fetched. -/
def Warp.waitFetch (w : Warp) (s : State) : Warp :=
  match w.wait with
  | some _ => w
  | none => { w with wait := some ⟨.fetch, .unallocatedOpcode 0, w.issueAddr, w.active, s.stamp, s.time.toNat⟩ }

/-- The warp waits for its fetch. -/
def Warp.fetching (w : Warp) : Bool := w.wait.any fun x => x.kind == .fetch

/-- The instruction of a warp has been fetched. -/
def Warp.fetched (w : Warp) : Warp :=
  match w.wait with
  | some x => if x.kind == .fetch then { w with wait := none } else w
  | none => w

/-- A warp about to run a word: a wait at another address is over (R40); its word has not issued and counts toward no
window yet (R43). -/
def Warp.fresh (w : Warp) : Warp :=
  match w.wait with
  | none => w
  | some x => if x.pc = w.issueAddr then w else { w.uncount with wait := none }

/-- Issues a decoded word: counting, closes, SOFT, then its meaning. -/
def runWord (s : State) (wid : Nat) (w : Warp) (w0 : W32) (d : Decoded) (late : LaneMask) : Out :=
  let i : Instr := match d with | .instr i _ => i | .illegal x => .unallocatedOpcode x
  let pc := w.issueAddr
  match closeDue s wid w i with
  | .waits s w => .next ((s.setWarp wid (w.waitClose s i)).tick)
  | .shut s w =>
    if w.issueAddr ≠ pc || (!w.inh && w.ready == 0) then .next (s.setWarp wid { w.uncount with wait := none })
    else
      let w := match w.wait with
        | some x => if x.kind == .windowClose && !closesItself i then { w with wait := none } else w
        | none => w
      match d with
      | .illegal x =>
        .next (deliver (s.setWarp wid w) wid w ⟨.illegalOp, 0, if isLaneWord w0 then w.active else allLanes, x⟩ pc w.active)
      | .instr i _ =>
        let s := { s.setWarp wid w with cur := wid, curLate := late }
        match softRead s w i with
        | none => exec i s
        | some (k, m) =>
          if trapsFirst s wid w i then exec i s
          else .next (deliver (s.reportBad (s.ctxOf w) w.num w.core k 0) wid w ⟨.soft, 0, m, BitVec.ofNat 32 k⟩ pc w.active)

/-- R42: the run goes on after a word, at the address that follows it. -/
def runsOn (s : State) (wid : Nat) (before : Warp) (w0 : W32) (d : Decoded) (issued : Nat) : Option Nat :=
  match s.warp? wid, d with
  | some w, .instr i len =>
    let next := before.issueAddr + len
    let stops := match i with
      | .sleep h _ | .fence h _ _ | .fencea h _ _ => w.qGuard h
      | _ => false
    let frozen := (s.team? w.team).all fun t => t.halted.isSome || t.preempting
    if w.exited || w.wait.isSome || stops || w0.getLsbD 30 || 24 ≤ issued || w.inh != before.inh || frozen
        || (!w.inh && w.ready == 0) || w.issueAddr ≠ next then none
    else some next
  | _, _ => none

def State.modSlot (s : State) (core slot : Nat) (f : Slot → Slot) : State :=
  let c := s.core core
  s.setCore core { c with slots := kput c.slots slot (f (kget c.slots slot ⟨none, [], []⟩)) }

/-- The slot's run ends. -/
def State.endRun (s : State) (core slot : Nat) : State := s.modSlot core slot fun x => { x with run := none }

/-- Issues the word at the issue address of a warp, the n-th of its run. -/
def attemptWord (s : State) (core slot wid n : Nat) (w : Warp) (late : LaneMask) : Attempt :=
  match fetchInstr (s.setWarp wid w) wid w with
  | .wait s => .held ((s.setWarp wid (w.waitFetch s)).tick.endRun core slot)
  | .fail s t => .out (.next ((deliver s wid w t w.issueAddr w.active).endRun core slot))
  | .ok s w0 d =>
    let w := w.fetched
    .out (mapOut (fun s' => s'.modSlot core slot fun x =>
      { x with run := (runsOn s' wid w w0 d n).map fun a => (wid, n, a) }) (runWord s wid w w0 d late))

/-- Waits that an event ends; the word of any other wait issues again once it need not wait. -/
def WaitKind.endedByEvent : WaitKind → Bool
  | .pushQ _ _ _ _ | .popQ _ _ _ _ _ | .bar _ | .gbar _ | .mbwait _ _ _ _ _ | .sleep _ _ | .racq | .rrel | .evpost
  | .taskSlot | .commit => true
  | .mbinit | .fence | .windowClose | .mwait | .twait | .xwait | .atIssue | .actStore | .asdrop | .fetch => false

/-- The key under which a trial sets lanes aside; no JOIN names it. -/
def trialKey : Nat := 8

/-- The ready lanes that stand below an address are set aside for a trial, or come back. -/
def Warp.setAside (w : Warp) (pc : Nat) : Warp :=
  let low := maskOf fun l => laneBit w.ready l && decide (canon57 (w.vpcOf l) < pc)
  if low = 0 then w else { w with waitK := kput w.waitK trialKey low }
def Warp.bringBack (w : Warp) : Warp := { w with waitK := kdel w.waitK trialKey }

/-- R301: the state in which a warp that waits at issue goes on waiting, after a trial of its word; none when the wait is
over. Lanes that have become ready below the word in the meantime take no part in it. -/
def stillWaits (s : State) (core slot wid : Nat) : Option State :=
  match s.warp? wid with
  | none => none
  | some w =>
    match w.wait with
    | none => none
    | some x =>
      let v := if w.inh then w else w.setAside x.pc
      if (!w.inh && v.ready == 0) || v.issueAddr != x.pc then none
      else
        let back (s : State) : State := { s with warps := kmod s.warps wid Warp.bringBack }
        match attemptWord s core slot wid 1 v 0 with
        | .held s' => some (back s')
        | .out (.next s') =>
          let waits := !w.fetching && (s'.warp? wid).any fun u => u.wait.any fun y => !y.kind.endedByEvent
          if waits then some (back s') else none
        | .out (.fault _) | .out (.refused _) => none

/-- Issues the next word of a warp, the n-th of its run; a cause that waits is delivered instead (R384). Where lanes have
become ready below the word of a wait, the wait must be over first (R301). -/
def attempt (s : State) (core slot wid n : Nat) (late : LaneMask) : Attempt :=
  match s.warp? wid with
  | none => .held s
  | some w =>
    match deliverNext s wid w with
    | some s => .out (.next (s.endRun core slot))
    | none =>
      match (if w.wait.any fun x => x.pc != w.issueAddr then stillWaits s core slot wid else none) with
      | some s => .held (s.endRun core slot)
      | none => attemptWord s core slot wid n w.fresh late

/-! ## Eligibility and arbitration (R27, R301, R302) -/

/-- R426: the core is paused, for at most 100 µs. -/
def State.pausedNow (s : State) (core : Nat) : Bool :=
  match kget? s.paused core with
  | some t0 => decide (s.elapsed t0 ≤ 100 * microsecond)
  | none => false

/-- R354, R408, R426: nothing issues on the core. -/
def coreStopped (s : State) (core : Nat) : Bool :=
  s.diesStopped || s.gated.contains core || s.dbgHalted.contains core || s.pausedNow core

/-- The warp is not kept from issuing by its core, its team or its own end. -/
def mayIssue (s : State) (w : Warp) : Bool :=
  !w.exited && !w.tretDue && match s.team? w.team with
    | none => false
    | some t => t.halted.isNone && !t.preempting

/-- R301, R384: the warp is eligible, its waits at issue apart. -/
def eligible (s : State) (w : Warp) : Bool :=
  mayIssue s w && ((s.nextCause w).isSome
    || (!w.stallRaised && w.wait.isNone && (w.inh || w.ready != 0) && !((s.team? w.team).any (·.parked))))

/-- The warp waits at issue for something that its word tests again. -/
def retries (s : State) (w : Warp) : Bool :=
  mayIssue s w && (s.nextCause w).isNone && !w.stallRaised && (match w.wait with | some x => !x.kind.endedByEvent | none => false)
    && !((s.team? w.team).any (·.parked))

/-- R302: the order of those that join in one cycle: the team admitted first, then the lower warp number. -/
def joinsBefore (s : State) (a b : Nat × Warp) : Bool :=
  let o (w : Warp) : Nat := (s.team? w.team).elim 0 (·.admitOrder)
  decide (o a.2 < o b.2) || (o a.2 == o b.2 && decide (a.2.num < b.2.num))

/-- A warp joins a queue among those that have joined it in this cycle. -/
def insertJoin (s : State) (x : Nat × Warp) (joined : KMap Nat) : List Nat → List Nat
  | [] => [x.1]
  | k :: ks =>
    if (kget? joined k).any (s.sameCycle x.2.core s.time.toNat) && (s.warp? k).any fun v => joinsBefore s x (k, v) then x.1 :: k :: ks
    else k :: insertJoin s x joined ks

/-- A warp joins its slot's queue (R302): at the tail, but for the age order of one cycle. -/
def joinSlot (s : State) (wid : Nat) (w : Warp) : State :=
  s.modSlot w.core w.slot fun x => { x with queue := insertJoin s (wid, w) x.joined x.queue, joined := kput x.joined wid s.time.toNat }

/-- Warps that have become eligible join their queues; those that no longer are leave them. -/
def settleQueues (s : State) : State :=
  let keeps (wid : Nat) : Bool := match s.warp? wid with
    | some w => eligible s w || retries s w
    | none => false
  let queued (wid : Nat) (w : Warp) : Bool :=
    let x := kget (s.core w.core).slots w.slot ⟨none, [], []⟩
    x.queue.contains wid || (match x.run with | some r => r.1 == wid | none => false)
  let joins := s.warps.filter fun e => eligible s e.2 && !queued e.1 e.2
  let s := { s with cores := kmap (fun _ c => { c with slots := kmap (fun _ x =>
    let q := x.queue.filter keeps
    { x with queue := q, joined := x.joined.filter fun j => q.contains j.1 }) c.slots }) s.cores }
  joins.foldl (fun s e => joinSlot s e.1 e.2) s

/-- The word of a waiting warp is tried: what it asks for is asked; a warp whose word has been fetched, or need not wait
at issue any longer, joins its queue. -/
def pollWarp (s : State) (wid : Nat) : State :=
  match s.warp? wid with
  | none => s
  | some w =>
    let x := kget (s.core w.core).slots w.slot ⟨none, [], []⟩
    if !retries s w || coreStopped s w.core || x.queue.contains wid then s
    else
      match stillWaits s w.core w.slot wid with
      | some s' => s'.modSlot w.core w.slot fun y => { y with run := x.run }
      | none => joinSlot s wid w

/-- All waiting warps are tried. -/
def pollWarps (s : State) : State := s.warps.foldl (fun s e => pollWarp s e.1) s

/-- The warps of a queue in order, until one issues. -/
def issueFrom (core slot : Nat) (late : LaneMask) : List Nat → State → Out
  | [], s => .next s
  | wid :: rest, s =>
    match attempt (s.modSlot core slot fun x => { x with queue := x.queue.filter (· != wid) }) core slot wid 1 late with
    | .held s => issueFrom core slot late rest s
    | .out o => o

/-- One turn of an issue slot: the run that goes on, else the head of the queue. -/
def issueSlot (s : State) (core slot : Nat) (late : LaneMask) : Out :=
  if coreStopped s core then .next s
  else
    let s := (s.warps.filter fun e => e.2.core == core && e.2.slot == slot).foldl (fun s e => pollWarp s e.1) s
    let x := kget (s.core core).slots slot ⟨none, [], []⟩
    let goes : Option (Nat × Nat) := match x.run with
      | none => none
      | some (wid, n, a) => match s.warp? wid with
        | none => none
        | some w => if eligible s w && w.wait.isNone && ((s.nextCause w).isSome || w.issueAddr == a) then some (wid, n + 1) else none
    match goes with
    | some (wid, n) => match attempt s core slot wid n late with
      | .held s => .next s
      | .out o => o
    | none => issueFrom core slot late x.queue (s.modSlot core slot fun x => { x with run := none })

/-! ## Other moves -/

/-- R409: an error has been corrected. -/
def State.countCorrected (s : State) : State := { s with err := { s.err with ceCnt := min (s.err.ceCnt + 1) (2 ^ 64 - 1) } }

/-- Marks a register of a warp. -/
def upsetReg (s : State) (wid : Nat) (u : Nat × Nat × Nat) : State :=
  { s with warps := kmod s.warps wid fun w => { w with badRegs := u :: w.badRegs } }

/-- R403: a unit becomes uncorrectable. What is refetched or walked again is masked, and counted (R404, R409). -/
def upsetUnit (s : State) (kind owner index : Nat) : State :=
  let mark : State := { s with bad := (kind, owner, index) :: s.bad.filter (· != (kind, owner, index)) }
  let soft : State := match s.warp? owner with
    | none => s
    | some w => (s.reportBad (s.ctxOf w) w.num w.core kind 0).setWarp owner
        { w with pending := w.pending ++ [(warpTrap .soft 0 (BitVec.ofNat 32 kind), w.seq)] }
  match kind with
  | 0x01 | 0x05 | 0x06 | 0x10 => mark
  | 0x02 => if (kget s.l2 (index / 8) ⟨[], 0⟩).dirty != 0 then mark else s.countCorrected
  | 0x03 => if ((kget? (s.rdc owner) (index / 8)).elim 0 (·.dirty)).extractLsb' (16 * (index % 8)) 16 != 0 then mark else s.countCorrected
  | 0x04 => (s.dropL1 owner (index / 8)).countCorrected
  | 0x07 =>
    if owner < 1000 then mark
    else
      -- a lock directory: every task that holds a granule of the slice is wounded (R406)
      let held := s.locks.filterMap fun e => if e.2.slice = owner - 1000 then e.2.holder.map (·.1) else none
      let s := s.hostError 0xFF 0xFF 0xFFFF 0x107 0
      { s with warps := kmap (fun k w =>
          if held.contains k then { w with task := w.task.map fun t => { t with wounded := true } } else w) s.warps }
  | 0x08 | 0x09 => upsetReg s owner (regOfUnit kind index)
  | 0x0A | 0x0B => soft
  | 0x0C =>
    -- a running matrix step is contained as R196 gives; another word is replaced by SOFT
    match (s.warp? owner).bind fun w => (s.team? w.team).bind fun t =>
        (t.mats.find? fun m => m.2.warp == owner && !m.2.ops.isEmpty).map fun m => (w, m) with
    | some (w, k, m) => if index = 1 then failMat s w.team k w.core 0x0C 0 m else soft
    | none => soft
  | 0x0D => { s with cores := kmod s.cores owner fun c => { c with tlb := c.tlb.eraseIdx index } }.countCorrected
  | _ => s

/-- R73: a warp that would issue its next word takes BREAK in its place. -/
def hitBreakpoint (s : State) (wid : Nat) : State :=
  match s.warp? wid with
  | none => s
  | some w =>
    if coreStopped s w.core || !eligible s w || (s.nextCause w).isSome then s
    else (deliver s wid w (warpTrap .brk 0 0xFFFFFFFF) w.issueAddr w.active).modSlot w.core w.slot fun x =>
      { x with run := x.run.filter fun r => r.1 != wid }

/-- A move of the outside world or of the caches. -/
def otherMove (s : State) : Move → State
  | .issue _ _ _ | .event _ => s
  | .dropL1 core line => s.dropL1 core line
  | .dropCoreTlb core => { s with cores := kmod s.cores core fun c => { c with tlb := [] } }
  | .dropDieTlb die => s.setDieTlb die []
  | .evictL2 line => evictL2 s line
  | .hostWrite a bs => s.putHomes (.host a) bs
  | .peerWrite dev pa bs => s.putHomes (.peer dev pa) bs
  | .upset kind owner index => upsetUnit s kind owner index
  | .weaken kind owner index => { s with correctable := (kind, owner, index) :: s.correctable.filter (· != (kind, owner, index)) }
  | .corrected kind owner index => if s.correctable.contains (kind, owner, index) then s.countCorrected else s
  | .matFetch core bank unit => if s.diesStopped then s else matFetch s core bank unit
  | .matAdd core bank elem hold => if s.diesStopped then s else matAdd s core bank elem hold
  | .breakpoint wid => hitBreakpoint s wid
  | .firmwareReclaim rec => if s.diesStopped then s else firmwareReclaim s rec
  | .offerObject obj form => { s with nguyx := kput s.nguyx obj form }

/-- R408: what goes on when both dies have stopped. -/
def worksStopped : Instr → Bool
  | .deviceReset | .registerWrite _ _ | .functionReady _ | .getVersion | .getCapabilities | .negotiateAlgorithms | .getDigests
  | .getCertificate _ _ | .challenge _ | .getMeasurements _ | .pcieLinkDown | .pcieLinkUp | .moduleFault _ | .moduleFaultEnd _
  | .issuePauseEnd _ | .thermalThrottle _ _ => true
  | _ => false

/-- R354: the queued accesses of a core that a debugger has halted are withdrawn. -/
def withdrawn (s : State) : Instr → Bool
  | .storePerformed wid | .lateDataArrival wid _ _ => (s.warp? wid).any fun w => s.dbgHalted.contains w.core
  | .copyChunk (.copy core _) => s.dbgHalted.contains core
  | _ => false

/-- The core whose cycles an event takes. -/
def State.eventCore (s : State) : Instr → Option Nat
  | .storePerformed w | .lateDataArrival w _ _ | .joinForcedRelease w | .rrelDrainDone w | .sleepEnd w | .mbwaitTimeout w
  | .granuleRequest w _ | .taskCommit w | .trapDelivery w => (s.warp? w).map (·.core)
  | .pergolaParkedWord team _ => (s.team? team).bind fun t => t.cores.head?
  | .racqGrant core | .matrixStep core _ | .matrixOpComplete core _ | .copyChunk (.copy core _) | .copyLineDelivery core _ _
  | .copyComplete core _ | .taskSlotGrant core => some core
  | _ => none

/-- R426: a paused core runs no cycles. -/
def State.pausedMove (s : State) : Move → Bool
  | .event i => (s.eventCore i).any s.pausedNow
  | .matFetch core .. | .matAdd core .. => s.pausedNow core
  | _ => false

/-- An instruction word: it runs through an issue slot, never as an event. -/
def isWord (i : Instr) : Bool := !(encode i).isEmpty

/-- Carries out one move. -/
def move (s : State) (m : Move) : Out :=
  if s.pausedMove m then .next s
  else match m with
  | .issue core slot late => issueSlot s core slot late
  | .event i => if isWord i || (s.diesStopped && !worksStopped i) || withdrawn s i then .next s else exec i s
  | .dropL1 .. | .dropCoreTlb .. | .dropDieTlb .. | .evictL2 .. | .hostWrite .. | .peerWrite .. | .upset .. | .weaken ..
  | .corrected .. | .matFetch .. | .matAdd .. | .breakpoint .. | .firmwareReclaim .. | .offerObject .. => .next (otherMove s m)

/-- Time passes (R55). -/
def State.advance (s : State) (dt : Nat) : State := { s with time := s.time + BitVec.ofNat 64 dt }

/-! ## Full caches (R14, R15, R18) -/

/-- The line of a cache with the least stamp, among those that pass a test. -/
def leastStamp {α : Type} (m : KMap α) (stamp : α → Nat) (ok : Nat → α → Bool) : Option Nat :=
  ((m.filter fun e => ok e.1 e.2).foldl (fun (b : Option (Nat × α)) e => match b with
    | none => some e
    | some f => if stamp e.2 < stamp f.2 then some e else some f) none).map (·.1)

/-- A line of an RDC leaves: what this device or the host homes is written back; a dirty line of another device is asked for
by `flushPeers` and leaves later. -/
def trimRdc (die : Nat) : Nat → State → State
  | 0, s => s
  | n + 1, s =>
    let ready (t : Nat) (r : RdcLine) : Bool := r.dirty == 0 || match locOfLine t with | .peer _ _ => false | .own _ _ | .host _ => true
    match leastStamp (s.rdc die) (·.stamp) ready with
    | some t => trimRdc die n ((s.writeBackRdc die t).dropRdc die t)
    | none => match leastStamp (s.rdc die) (·.stamp) fun _ _ => true with
      | some t => (flushPeers s die [t]).1
      | none => s

/-- The dirty lines of a slice of L2 beyond its size are written back. -/
def trimL2 : Nat → State → State
  | 0, s => s
  | n + 1, s =>
    let slice (t : Nat) : Nat := Config.homeDie t * 96 + Config.sliceOf t
    match s.l2.find? fun e => decide (Config.sliceLines < s.l2.countP fun f => slice f.1 == slice e.1) with
    | some e => trimL2 n (evictL2 s e.1)
    | none => s

def trimL1 : Nat → Core → Core
  | 0, c => c
  | n + 1, c => match leastStamp c.l1 (·.stamp) fun _ _ => true with
    | some t => trimL1 n { c with l1 := kdel c.l1 t }
    | none => c

/-- No cache holds more lines than it has room for. DESIGN CHOICE, notes/assumptions/128.md: the oldest fill leaves; of a
slice, the lowest line. -/
def trimCaches (s : State) : State :=
  let s := if s.cores.any fun c => decide (Config.l1Lines < c.2.l1.length) then
      { s with cores := kmap (fun _ c => trimL1 (c.l1.length - Config.l1Lines) c) s.cores } else s
  let s := trimRdc 0 (s.rdc0.length - Config.rdcLines) s
  let s := trimRdc 1 (s.rdc1.length - Config.rdcLines) s
  trimL2 (s.l2.length - Config.sliceLines) s

/-! ## One turn -/

/-- What holds without a break is measured (R299, R313), full caches lose lines, and the queues take in who has become
eligible. -/
def settleTurn (s : State) : State := settleQueues (pollWarps (watchHeads (watchStalls (trimCaches s))))

/-- One turn of the agenda: time passes, the move happens, and the machine settles. -/
def takeTurn (s : State) (t : Turn) : Out := mapOut settleTurn (move (settleQueues (s.advance t.dt)) t.move)

/-! ## Placing one instruction (for the host's questions about single words) -/

/-- Where a placed instruction stands: virtual and physical address of its page. -/
def placedAt : Nat := 0x10000

/-- The role whose warps may issue a word (R70). -/
def roleFor (w0 : W32) : Role :=
  let op := w0.toNat / 2 ^ 18 % 2 ^ 9
  if isLaneWord w0 then .epilogue
  else if 0x100 ≤ op && op < 0x120 then .copy
  else if 0x140 ≤ op && op < 0x160 then .maths
  else .epilogue

/-- TRET and VPCSET run in handler mode alone. -/
def handlerWord (w0 : W32) : Bool :=
  if isLaneWord w0 then w0.toNat / 2 ^ 18 % 2 ^ 8 == 0x88 else w0.toNat / 2 ^ 18 % 2 ^ 9 == 0x4A

def placedDesc (r : Role) : Desc :=
  { dver := 1, isalvl := 1, gclass := 0, pairMode := false, ecopy := placedAt, emaths := placedAt, eepi := placedAt
    ncopy := if r = .copy then 1 else 0, nmaths := if r = .maths then 1 else 0, nepi := if r = .epilogue then 1 else 0
    vregs := 64, spro := 0, sfull := 0, orang := 0, gridX := 1, gridY := 1, gridZ := 1, gangX := 1, gangY := 1, gangZ := 1
    privLane := 0, asTab := 0, asCount := 0, lrCount := 0, lrTab := 0, perg := List.replicate 16 0, args := List.replicate 16 0 }

/-- A context that is active, with nothing in its tables. -/
def placedContext : Context :=
  { active := true, retiring := false, dptRoot := 0, pasid := 0, priOff := false, keyMask := 1, pBase := 0, pBack := 0
    pMaxLog2 := 16, nPriv := 0, hwm := 0, thand := 0, fpool := 0, fslot := 0, nslot := 0, fkey := 0, pfTime := 20
    preempted := false, sets := [] }

/-- Stands for a launch: a team of one warp on core 0, ready to issue from a page that holds the bytes of an instruction, and
an agenda that begins with that warp's issue slot. -/
def placeInstr (s : State) (w0 : W32) (bs : List Byte) : State :=
  let r := roleFor w0
  let d := placedDesc r
  let tid := s.nextId
  let wid := tid + 1
  let t : Team :=
    { ctx := 0, launch := 0, desc := d, x := 0, y := 0, z := 0, gangNum := 0
      cores := [0], allot := 0, parked := false, admitOrder := s.stamp
      halted := none, refusedSet := none, spads := [], orangs := []
      mats := if r = .maths then [(0, ⟨0, wid, []⟩)] else [], pergs := [], bars := [], mbars := [], layouts := [], savedAct := []
      preempting := false, swap := false, haltPosted := false, stuckSince := none, pergTurn := [] }
  let w := newWarp tid t 0 0 0
  let w := { w with inh := handlerWord w0, hpc := placedAt, tpc := BitVec.ofNat 64 placedAt }
  let e : TlbEntry :=
    { ctx := 0, va := placedAt, size := 16, tier := 0, dev := 0, frame := placedAt, key := 0, rd := true, wr := true, ex := true }
  let c := s.core 0
  { s with
    contexts := kput s.contexts 0 placedContext
    teams := kput s.teams tid t
    warps := kput s.warps wid w
    nextId := wid + 1
    cores := kput s.cores 0 { c with tlb := [e], slots := kput c.slots w.slot ⟨none, [wid], []⟩ }
    hbm := (List.range bs.length).foldl (fun m i => mput m (placedAt + i) (bs.getD i 0)) s.hbm
    l2 := kdel s.l2 placedAt
    keyTag := kdel s.keyTag (placedAt / 128)
    undef := []
    bad := [], leases := []
    diesStopped := false, gated := s.gated.filter (· != 0), dbgHalted := s.dbgHalted.filter (· != 0), paused := kdel s.paused 0
    agenda := ⟨0, .issue 0 w.slot 0⟩ :: s.agenda }

end Sys2Proof.Machine
end

