-- ==== Sys2Proof/Machine/Step.lean ====
section
/-! DEFINITION. One step of the machine. -/

namespace Sys2Proof.Machine

/-- A step takes the next turn of the agenda; with none, one period of the device time counter passes (R55). -/
def step (s : State) : Host.Outcome State Fault Refusal :=
  match s.agenda with
  | [] => .next (s.advance 1)
  | t :: ts => takeTurn { s with agenda := ts } t

/-- The state with an instruction where the next step fetches and runs it; the bits above nbits are zero. -/
def State.withFetchWord (s : State) (nbits w : Nat) : State :=
  let v := w % 2 ^ nbits
  placeInstr s (BitVec.ofNat 32 v) (bytesOfWord (BitVec.ofNat 32 v) ++ bytesOfWord (BitVec.ofNat 32 (v / 2 ^ 32)))

end Sys2Proof.Machine
end

