-- ==== Sys2Proof/Safety.lean ====
section
/-! DEFINITION. What counts as a safe run, in the terms that claims use. -/

namespace Sys2Proof.Machine

/-- Every memory of the state is in canonical form. -/
def State.memOk (s : State) : Prop :=
  Memory.wf s.hbm = true ∧ Memory.wf s.hostMem = true ∧ Memory.wf s.fabMem = true

/-- An outcome that neither stops nor refuses. -/
def completes (o : Out) : Prop := ∃ t, o = .next t

/-- A run of k steps is safe: none of them stops or is refused. -/
def safeRun (k : Nat) (s : State) : Prop := ∃ t, Host.Core.run Sys2Proof.core k s = .next t

end Sys2Proof.Machine
end

