-- ==== Sys2Proof/Certificates/Slice0/Obligations.lean ====
section
/-! DEFINITION. The statements for the provers. First the terms they use, then one definition per statement. A row names
an instruction word with what its rule says it does; a statement says that exec does so for every row. -/

namespace Sys2Proof.Claims

open Sys2Proof.Machine

/-! ## A word that completes -/

/-- The innermost open loop ends at the address after a word (R86). -/
def EndsLoop (w : Warp) (i : Instr) : Prop :=
  ∃ r, (if w.inh then w.hloops else w.loops).head? = some r ∧ r.exitAddr = w.issueAddr + i.len

/-- R86: in an epilogue warp a word may end a loop when all live lanes are active. -/
def MayEndHere (w : Warp) (i : Instr) : Prop :=
  EndsLoop w i → w.role = .epilogue → w.inh = false → w.active = w.live

/-- R41, R388: the active lanes, or HPC in handler mode, stand at an address; no other lane has moved and no loop record
has changed. -/
def MovedTo (w w' : Warp) (a : Nat → Nat) : Prop :=
  w'.loops = w.loops ∧ w'.lc = w.lc ∧ w'.hloops = w.hloops ∧
    if w.inh then w'.hpc = a 0 ∧ w'.vpc = w.vpc
    else w'.hpc = w.hpc ∧ ∀ l < 32, w'.vpcOf l = if laneBit w.active l then a l % 2 ^ 57 else w.vpcOf l

/-- The warp goes on past a word. Where an open loop ends there, its end test moves the active lanes (R86); the lanes that
are not active stay, and so does the mode that is not current. -/
def GoesPast (w w' : Warp) (i : Instr) : Prop :=
  (¬ EndsLoop w i → MovedTo w w' fun _ => w.issueAddr + i.len) ∧
    (w.inh = true → w'.vpc = w.vpc ∧ w'.loops = w.loops ∧ w'.lc = w.lc) ∧
    (w.inh = false → w'.hpc = w.hpc ∧ w'.hloops = w.hloops ∧
      ∀ l < 32, laneBit w.active l = false → w'.vpcOf l = w.vpcOf l)

/-- The place of a warp in its program, and what issuing a word always settles. -/
def placedAs (w w' : Warp) : Warp :=
  { w with
    vpc := w'.vpc, lc := w'.lc, loops := w'.loops, hpc := w'.hpc, hloops := w'.hloops
    wait := none, counted := w.inh && w.counted }

/-- Registers that hold a parity error lose it when they are written (R392); no other gains one. -/
def SoundAfter (w w' : Warp) : Prop := ∀ u ∈ w'.badRegs, u ∈ w.badRegs

/-! ## Lane words -/

/-- A lane word: the vector groups that REG_RANGE checks, and what it gives in an executing lane. The functions take the
warp as it was, the executing set X and the lane; `reg` and `prd` answer none where a register or predicate keeps its
value. `flags` is what the whole word raises, and `sreg` what it writes to the scalar registers. -/
structure LaneRow where
  word : Instr
  hdr : LaneHdr
  groups : List (Nat × Nat)
  reg : Warp → LaneMask → Nat → Nat → Option W32 := fun _ _ _ _ => none
  prd : Warp → LaneMask → Nat → Nat → Option Bool := fun _ _ _ _ => none
  flags : Warp → LaneMask → Fl := fun _ _ => 0
  sreg : Warp → LaneMask → Nat → Option W32 := fun _ _ _ => none

/-- An epilogue warp that may complete the word (R70, R71, R86). -/
def LaneRow.Ready (row : LaneRow) (s : State) (w : Warp) : Prop :=
  s.warp? s.cur = some w ∧ w.role = .epilogue ∧ (∀ g ∈ row.groups, g.1 + g.2 ≤ w.vregs) ∧ MayEndHere w row.word

/-- The word completes with its row's results, and changes nothing else. -/
def LaneRow.Runs (row : LaneRow) (s : State) (w : Warp) : Prop :=
  ∃ w', exec row.word s = .next (s.setWarp s.cur w') ∧ GoesPast w w' row.word ∧ SoundAfter w w' ∧
    w' = { placedAs w w' with v := w'.v, p := w'.p, s := w'.s, fpflags := w'.fpflags, badRegs := w'.badRegs } ∧
    (∀ l < 32, ∀ r, w'.vr l r =
      if laneBit (w.exec row.hdr) l then (row.reg w (w.exec row.hdr) l r).getD (w.vr l r) else w.vr l r) ∧
    (∀ l < 32, ∀ n < 7, w'.pred l n =
      if laneBit (w.exec row.hdr) l then (row.prd w (w.exec row.hdr) l n).getD (w.pred l n) else w.pred l n) ∧
    (∀ r, w'.sr r = (row.sreg w (w.exec row.hdr) r).getD (w.sr r)) ∧
    w'.fpflags = w.fpflags ||| (row.flags w (w.exec row.hdr)).zeroExtend 32

/-- Register d takes a value. -/
def put (d : Reg) (f : Warp → LaneMask → Nat → W32) : Warp → LaneMask → Nat → Nat → Option W32 :=
  fun w x l r => if r = d.toNat then some (f w x l) else none

/-- The pair d:d+1 takes a value. -/
def putPair (d : Reg) (f : Warp → LaneMask → Nat → W64) : Warp → LaneMask → Nat → Nat → Option W32 :=
  fun w x l r => if r = d.toNat then some (f w x l).lo else if r = d.toNat + 1 then some (f w x l).hi else none

/-- Predicate d takes a value; p7 discards it (R51). -/
def putPred (d : BitVec 3) (f : Warp → LaneMask → Nat → Bool) : Warp → LaneMask → Nat → Nat → Option Bool :=
  fun w x l n => if n = d.toNat then some (f w x l) else none

/-- vd from an integer function of va and vb, modulo 2^32 (R144). -/
def intRow2 (i : Instr) (h : LaneHdr) (d a b : Reg) (f : W32 → W32 → Int) : LaneRow :=
  { word := i, hdr := h, groups := [(d.toNat, 1), (a.toNat, 1), (b.toNat, 1)]
    reg := put d fun w _ l => BitVec.ofInt 32 (f (w.vr l a.toNat) (w.vr l b.toNat)) }

/-- vd from an integer function of va, modulo 2^32. -/
def intRow1 (i : Instr) (h : LaneHdr) (d a : Reg) (f : W32 → Int) : LaneRow :=
  { word := i, hdr := h, groups := [(d.toNat, 1), (a.toNat, 1)]
    reg := put d fun w _ l => BitVec.ofInt 32 (f (w.vr l a.toNat)) }

/-- vd from an integer function of va, vb and vc, modulo 2^32. -/
def intRow3 (i : Instr) (h : LaneHdr) (d a b c : Reg) (f : W32 → W32 → W32 → Int) : LaneRow :=
  { word := i, hdr := h, groups := [(d.toNat, 1), (a.toNat, 1), (b.toNat, 1), (c.toNat, 1)]
    reg := put d fun w _ l => BitVec.ofInt 32 (f (w.vr l a.toNat) (w.vr l b.toNat) (w.vr l c.toNat)) }

/-- A code of vd and flags from codes of the sources. -/
def fpRow1 (i : Instr) (h : LaneHdr) (d a : Reg) (f : Nat → Nat × Fl) : LaneRow :=
  { word := i, hdr := h, groups := [(d.toNat, 1), (a.toNat, 1)]
    reg := put d fun w _ l => BitVec.ofNat 32 (f (w.vr l a.toNat).toNat).1
    flags := fun w x => flagsOver x fun l => (f (w.vr l a.toNat).toNat).2 }

def fpRow2 (i : Instr) (h : LaneHdr) (d a b : Reg) (f : Nat → Nat → Nat × Fl) : LaneRow :=
  { word := i, hdr := h, groups := [(d.toNat, 1), (a.toNat, 1), (b.toNat, 1)]
    reg := put d fun w _ l => BitVec.ofNat 32 (f (w.vr l a.toNat).toNat (w.vr l b.toNat).toNat).1
    flags := fun w x => flagsOver x fun l => (f (w.vr l a.toNat).toNat (w.vr l b.toNat).toNat).2 }

def fpRow3 (i : Instr) (h : LaneHdr) (d a b c : Reg) (f : Nat → Nat → Nat → Nat × Fl) : LaneRow :=
  { word := i, hdr := h, groups := [(d.toNat, 1), (a.toNat, 1), (b.toNat, 1), (c.toNat, 1)]
    reg := put d fun w _ l =>
      BitVec.ofNat 32 (f (w.vr l a.toNat).toNat (w.vr l b.toNat).toNat (w.vr l c.toNat).toNat).1
    flags := fun w x => flagsOver x fun l =>
      (f (w.vr l a.toNat).toNat (w.vr l b.toNat).toNat (w.vr l c.toNat).toNat).2 }

/-- Element k of a packed register (R123). -/
def elem (a : W32) (k : Nat) : Nat := a.toNat / 2 ^ (16 * k) % 2 ^ 16

/-- R158: both elements of vd, each from the elements of the sources in the same place. -/
def packRow2 (i : Instr) (h : LaneHdr) (d a b : Reg) (f : Nat → Nat → Nat × Fl) : LaneRow :=
  let r (w : Warp) (l k : Nat) := f (elem (w.vr l a.toNat) k) (elem (w.vr l b.toNat) k)
  { word := i, hdr := h, groups := [(d.toNat, 1), (a.toNat, 1), (b.toNat, 1)]
    reg := put d fun w _ l => BitVec.ofNat 32 ((r w l 0).1 % 2 ^ 16 + 2 ^ 16 * ((r w l 1).1 % 2 ^ 16))
    flags := fun w x => flagsOver x fun l => (r w l 0).2 ||| (r w l 1).2 }

def packRow3 (i : Instr) (h : LaneHdr) (d a b c : Reg) (f : Nat → Nat → Nat → Nat × Fl) : LaneRow :=
  let r (w : Warp) (l k : Nat) := f (elem (w.vr l a.toNat) k) (elem (w.vr l b.toNat) k) (elem (w.vr l c.toNat) k)
  { word := i, hdr := h, groups := [(d.toNat, 1), (a.toNat, 1), (b.toNat, 1), (c.toNat, 1)]
    reg := put d fun w _ l => BitVec.ofNat 32 ((r w l 0).1 % 2 ^ 16 + 2 ^ 16 * ((r w l 1).1 % 2 ^ 16))
    flags := fun w x => flagsOver x fun l => (r w l 0).2 ||| (r w l 1).2 }

/-! ## Scalar words -/

/-- A warp word: its role class, the scalar groups that REG_RANGE checks, and what it gives when its guard is true. -/
structure WarpRow where
  word : Instr
  hdr : WarpHdr
  cls : Option Role := none
  groups : List (Nat × Nat) := []
  reg : Warp → Nat → Option W32 := fun _ _ => none
  prd : Warp → Nat → Option Bool := fun _ _ => none
  flags : Warp → Fl := fun _ => 0

/-- A warp that may complete the word, in either mode. -/
def WarpRow.Ready (row : WarpRow) (s : State) (w : Warp) : Prop :=
  s.warp? s.cur = some w ∧ (∀ c, row.cls = some c → w.role = c) ∧ (∀ g ∈ row.groups, g.1 + g.2 ≤ 64) ∧
    MayEndHere w row.word

/-- The word completes with its row's results, or with none when its guard is false, and changes nothing else. -/
def WarpRow.Runs (row : WarpRow) (s : State) (w : Warp) : Prop :=
  ∃ w', exec row.word s = .next (s.setWarp s.cur w') ∧ GoesPast w w' row.word ∧ SoundAfter w w' ∧
    w' = { placedAs w w' with s := w'.s, q := w'.q, hq := w'.hq, fpflags := w'.fpflags, badRegs := w'.badRegs } ∧
    (w.inh = true → w'.q = w.q) ∧ (w.inh = false → w'.hq = w.hq) ∧
    (∀ r, w'.sr r = if w.qGuard row.hdr then (row.reg w r).getD (w.sr r) else w.sr r) ∧
    (∀ n < 7, w'.qBit n = if w.qGuard row.hdr then (row.prd w n).getD (w.qBit n) else w.qBit n) ∧
    w'.fpflags = w.fpflags ||| (if w.qGuard row.hdr then row.flags w else 0).zeroExtend 32

def putS (d : Reg) (f : Warp → W32) : Warp → Nat → Option W32 := fun w r => if r = d.toNat then some (f w) else none

def putSPair (d : Reg) (f : Warp → W64) : Warp → Nat → Option W32 := fun w r =>
  if r = d.toNat then some (f w).lo else if r = d.toNat + 1 then some (f w).hi else none

def putQ (d : BitVec 3) (f : Warp → Bool) : Warp → Nat → Option Bool := fun w n => if n = d.toNat then some (f w) else none

/-- sd from an integer function of sa and sb, modulo 2^32. -/
def sIntRow2 (i : Instr) (h : WarpHdr) (d a b : Reg) (f : W32 → W32 → Int) : WarpRow :=
  { word := i, hdr := h, reg := putS d fun w => BitVec.ofInt 32 (f (w.sr a.toNat) (w.sr b.toNat)) }

def sIntRow1 (i : Instr) (h : WarpHdr) (d a : Reg) (f : W32 → Int) : WarpRow :=
  { word := i, hdr := h, reg := putS d fun w => BitVec.ofInt 32 (f (w.sr a.toNat)) }

def sFpRow2 (i : Instr) (h : WarpHdr) (d a b : Reg) (f : Nat → Nat → Nat × Fl) : WarpRow :=
  { word := i, hdr := h
    reg := putS d fun w => BitVec.ofNat 32 (f (w.sr a.toNat).toNat (w.sr b.toNat).toNat).1
    flags := fun w => (f (w.sr a.toNat).toNat (w.sr b.toNat).toNat).2 }

/-! ## Integer values, as R144 to R147 give them -/

/-- sext24. -/
def s24 (a : W32) : Int := if a.toNat % 2 ^ 24 < 2 ^ 23 then a.toNat % 2 ^ 24 else (a.toNat % 2 ^ 24 : Int) - 2 ^ 24
/-- Bits [23:0]. -/
def n24 (a : W32) : Int := a.toNat % 2 ^ 24
/-- Bits [63:32] of a 64-bit product. -/
def upper (i : Int) : Int := i / 2 ^ 32
/-- R144, R145: the signed quotient, truncated toward zero. -/
def quotS (a b : W32) : Int :=
  if b = 0 then (if 0 ≤ a.toInt then 2 ^ 31 - 1 else -(2 ^ 31)) else a.toInt.tdiv b.toInt
/-- R144, R145: the unsigned quotient. -/
def quotN (a b : W32) : Int := if b = 0 then 2 ^ 32 - 1 else (a.toNat / b.toNat : Nat)
/-- R144, R145: the remainders. -/
def remS (a b : W32) : Int := if b = 0 then a.toInt else a.toInt - b.toInt * a.toInt.tdiv b.toInt
def remN (a b : W32) : Int := if b = 0 then a.toNat else (a.toNat : Int) - b.toNat * (a.toNat / b.toNat : Nat)
/-- R144: clamp to a signed word. -/
def clampWord (i : Int) : Int := if i < -(2 ^ 31) then -(2 ^ 31) else if 2 ^ 31 - 1 < i then 2 ^ 31 - 1 else i
/-- A number from its bits. -/
def fromBits (f : Nat → Bool) : W32 := BitVec.ofNat 32 (lsum (tab 32 fun i => if f i then 2 ^ i else 0))
/-- R147: BFE. -/
def extractField (sg : Bool) (len pos : Nat) (a : W32) : Int :=
  let n := min len (32 - pos)
  let f := a.toNat / 2 ^ pos % 2 ^ n
  if sg ∧ 0 < n ∧ 2 ^ n ≤ 2 * f then (f : Int) - 2 ^ n else f
/-- R147: BFI: bit i of the result. -/
def insertField (len pos : Nat) (a b : W32) : W32 :=
  fromBits fun i => if pos ≤ i ∧ i < pos + len then a.getLsbD (i - pos) else b.getLsbD i
/-- R148: byte k of PRMT's result, counting down to byte 0 for the sign fills. -/
def gatherByte (sx : BitVec 3) (zm : BitVec 4) (bsel : BitVec 12) (a b : W32) : Nat → Nat
  | 0 => if zm.getLsbD 0 then 0 else sourceByte 0
  | k + 1 =>
    if zm.getLsbD (k + 1) then 0
    else if sx.getLsbD k then (if 128 ≤ gatherByte sx zm bsel a b k then 255 else 0)
    else sourceByte (k + 1)
where
  sourceByte (k : Nat) : Nat :=
    let n := bsel.toNat / 2 ^ (3 * k) % 8
    if n < 4 then a.toNat / 2 ^ (8 * n) % 256 else b.toNat / 2 ^ (8 * (n - 4)) % 256
/-- R146, R152: bit (a + 2b + 4c) of a table. -/
def tableBit (lut : BitVec 8) (a b c : Bool) : Bool := lut.getLsbD (a.toNat + 2 * b.toNat + 4 * c.toNat)
/-- R150: the conditions on integers. -/
def Holds (c : Cond) (a b : Int) : Bool :=
  match c with
  | .eq => decide (a = b) | .ne => decide (a ≠ b) | .lt => decide (a < b) | .le => decide (a ≤ b)
  | .gt => decide (a > b) | .ge => decide (a ≥ b) | .num => true | .nan => false
/-- R150: BOP. -/
def joinBy (b : Bop) (r s : Bool) : Bool := match b with | .and => r && s | .or => r || s | .xor => xor r s

/-! ## The rows of 07_lane_arithmetic -/

/-- R144, R145. -/
def integerRows (h : LaneHdr) (d a b c : Reg) (imm : W32) (u : Bool) : List LaneRow :=
  [ intRow2 (.iadd h d a b) h d a b fun x y => x.toInt + y.toInt,
    intRow2 (.isub h d a b) h d a b fun x y => x.toInt - y.toInt,
    intRow1 (.iaddi h d a imm) h d a fun x => x.toInt + imm.toInt,
    intRow2 (.iabsd h d a b) h d a b fun x y => (x.toInt - y.toInt).natAbs,
    intRow2 (.imin h d a b) h d a b fun x y => min x.toInt y.toInt,
    intRow2 (.imax h d a b) h d a b fun x y => max x.toInt y.toInt,
    intRow2 (.umin h d a b) h d a b fun x y => min (x.toNat : Int) y.toNat,
    intRow2 (.umax h d a b) h d a b fun x y => max (x.toNat : Int) y.toNat,
    intRow2 (.imul24 h d a b) h d a b fun x y => s24 x * s24 y,
    intRow2 (.umul24 h d a b) h d a b fun x y => n24 x * n24 y,
    intRow3 (.imad24 h d a b c u) h d a b c fun x y z => (if u then n24 x * n24 y else s24 x * s24 y) + z.toNat,
    intRow2 (.imul h d a b) h d a b fun x y => (x.toNat : Int) * y.toNat,
    intRow2 (.imulhi h d a b) h d a b fun x y => upper (x.toInt * y.toInt),
    intRow2 (.umulhi h d a b) h d a b fun x y => upper ((x.toNat : Int) * y.toNat),
    intRow2 (.idiv h d a b) h d a b quotS,
    intRow2 (.udiv h d a b) h d a b quotN,
    intRow2 (.irem h d a b) h d a b remS,
    intRow2 (.urem h d a b) h d a b remN,
    intRow2 (.iadds h d a b) h d a b fun x y => clampWord (x.toInt + y.toInt),
    intRow2 (.isubs h d a b) h d a b fun x y => clampWord (x.toInt - y.toInt),
    intRow3 (.imad32 h d a b c) h d a b c fun x y z => (x.toNat : Int) * y.toNat + z.toNat,
    { word := .iadd64 h d a b, hdr := h, groups := [(d.toNat, 2), (a.toNat, 2), (b.toNat, 2)]
      reg := putPair d fun w _ l =>
        BitVec.ofInt 64 (((w.vr64 l a.toNat).toNat : Int) + (w.vr64 l b.toNat).toNat) },
    { word := .isub64 h d a b, hdr := h, groups := [(d.toNat, 2), (a.toNat, 2), (b.toNat, 2)]
      reg := putPair d fun w _ l =>
        BitVec.ofInt 64 (((w.vr64 l a.toNat).toNat : Int) - (w.vr64 l b.toNat).toNat) } ]

/-- R146 to R149, and P2V and SEL. -/
def logicRows (h : LaneHdr) (d a b c len : Reg) (pos : BitVec 5) (sg : Bool) (imm : W32) (lut : BitVec 8)
    (sx : BitVec 3) (zm : BitVec 4) (bsel : BitVec 12) (ps : BitVec 3) : List LaneRow :=
  let bits (i : Instr) (f : Bool → Bool → Bool) : LaneRow :=
    { word := i, hdr := h, groups := [(d.toNat, 1), (a.toNat, 1), (b.toNat, 1)]
      reg := put d fun w _ l => fromBits fun k => f ((w.vr l a.toNat).getLsbD k) ((w.vr l b.toNat).getLsbD k) }
  [ bits (.and h d a b) fun x y => x && y,
    bits (.or h d a b) fun x y => x || y,
    bits (.xor h d a b) fun x y => x != y,
    bits (.andn h d a b) fun x y => x && !y,
    intRow2 (.shl h d a b) h d a b fun x y => if 32 ≤ y.toNat then 0 else (x.toNat : Int) * 2 ^ y.toNat,
    intRow2 (.shr h d a b) h d a b fun x y => if 32 ≤ y.toNat then 0 else (x.toNat / 2 ^ y.toNat : Nat),
    intRow2 (.sar h d a b) h d a b fun x y => x.toInt / 2 ^ (min y.toNat 31),
    { word := .rotl h d a b, hdr := h, groups := [(d.toNat, 1), (a.toNat, 1), (b.toNat, 1)]
      reg := put d fun w _ l => fromBits fun k =>
        (w.vr l a.toNat).getLsbD ((k + 32 - (w.vr l b.toNat).toNat % 32) % 32) },
    intRow1 (.bfe h d a sg len pos) h d a (extractField sg len.toNat pos.toNat),
    { word := .bfi h d a b len pos, hdr := h, groups := [(d.toNat, 1), (a.toNat, 1), (b.toNat, 1)]
      reg := put d fun w _ l => insertField len.toNat pos.toNat (w.vr l a.toNat) (w.vr l b.toNat) },
    intRow1 (.popc h d a) h d a fun x => ((List.range 32).filter fun k => x.getLsbD k).length,
    intRow1 (.clz h d a) h d a fun x => ((List.range 32).takeWhile fun k => !x.getLsbD (31 - k)).length,
    intRow1 (.ctz h d a) h d a fun x => ((List.range 32).takeWhile fun k => !x.getLsbD k).length,
    { word := .brev h d a, hdr := h, groups := [(d.toNat, 1), (a.toNat, 1)]
      reg := put d fun w _ l => fromBits fun k => (w.vr l a.toNat).getLsbD (31 - k) },
    intRow2 (.prmt h d a b sx zm bsel) h d a b fun x y =>
      let g := gatherByte sx zm bsel x y
      (g 0 + 2 ^ 8 * g 1 + 2 ^ 16 * g 2 + 2 ^ 24 * g 3 : Nat),
    { word := .lop3 h d a b c lut, hdr := h, groups := [(d.toNat, 1), (a.toNat, 1), (b.toNat, 1), (c.toNat, 1)]
      reg := put d fun w _ l => fromBits fun k =>
        tableBit lut ((w.vr l a.toNat).getLsbD k) ((w.vr l b.toNat).getLsbD k) ((w.vr l c.toNat).getLsbD k) },
    { word := .mov h d a, hdr := h, groups := [(d.toNat, 1), (a.toNat, 1)], reg := put d fun w _ l => w.vr l a.toNat },
    { word := .movi h d imm, hdr := h, groups := [(d.toNat, 1)], reg := put d fun _ _ _ => imm },
    { word := .sel h d a b sg ps, hdr := h, groups := [(d.toNat, 1), (a.toNat, 1), (b.toNat, 1)]
      reg := put d fun w _ l => if xor (w.pred l ps.toNat) sg then w.vr l a.toNat else w.vr l b.toNat },
    { word := .p2v h d, hdr := h, groups := [(d.toNat, 1)]
      reg := put d fun w _ l => fromBits fun k => decide (k < 8) && w.pred l k } ]

/-- R149: the selectors of LSPEC. -/
def lspecRow (h : LaneHdr) (d which : Reg) : LaneRow :=
  { word := .lspec h d which, hdr := h, groups := [(d.toNat, 1)]
    reg := put d fun w _ l =>
      if which = 0 then BitVec.ofNat 32 l
      else if which = 1 then fromBits fun k => decide (k = l)
      else if which = 2 then fromBits fun k => decide (k < l)
      else if which = 3 then fromBits fun k => decide (k ≤ l)
      else if which = 4 then fromBits fun k => decide (l < k)
      else if which = 5 then fromBits fun k => decide (l ≤ k)
      else BitVec.ofNat 32 w.pipe }

/-- R153 to R157. FMED3 and FCLAMP are the compositions of R153. -/
def floatRows (h : LaneHdr) (d a b c : Reg) (rmode : Rm) : List LaneRow :=
  [ fpRow2 (.fadd h d a b) h d a b (fpAdd .f32), fpRow2 (.fsub h d a b) h d a b (fpSub .f32),
    fpRow2 (.fmul h d a b) h d a b (fpMul .f32), fpRow3 (.ffma h d a b c) h d a b c (fpFma .f32),
    fpRow2 (.fmin h d a b) h d a b (fpMin .f32), fpRow2 (.fmax h d a b) h d a b (fpMax .f32),
    fpRow3 (.fmed3 h d a b c) h d a b c fun x y z =>
      let lo := fpMin .f32 x y
      let hi := fpMax .f32 x y
      let top := fpMin .f32 hi.1 z
      let r := fpMax .f32 lo.1 top.1
      (r.1, lo.2 ||| hi.2 ||| top.2 ||| r.2),
    fpRow3 (.fclamp h d a b c) h d a b c fun x y z =>
      let m := fpMax .f32 x y
      let r := fpMin .f32 m.1 z
      (r.1, m.2 ||| r.2),
    fpRow1 (.frnd h d a rmode) h d a (fpRound rmode),
    intRow1 (.fabs h d a) h d a fun x => if 0x7F800000 < x.toNat % 2 ^ 31 then 0x7FC00000 else (x.toNat % 2 ^ 31 : Nat),
    intRow1 (.fneg h d a) h d a fun x =>
      if 0x7F800000 < x.toNat % 2 ^ 31 then 0x7FC00000 else (x.toNat : Int) + 2 ^ 31,
    fpRow1 (.frcp h d a) h d a fpRcp, fpRow1 (.frsq h d a) h d a fpRsq, fpRow1 (.fsqrt h d a) h d a fpSqrt,
    fpRow2 (.fdiv h d a b) h d a b fpDiv, fpRow1 (.fexp2 h d a) h d a fpExp2, fpRow1 (.flog2 h d a) h d a fpLog2,
    fpRow1 (.fsin h d a) h d a (fpTrig false), fpRow1 (.fcos h d a) h d a (fpTrig true),
    fpRow1 (.ftanh h d a) h d a fpTanh ]

/-- R158. -/
def packedRows (h : LaneHdr) (d a b c : Reg) : List LaneRow :=
  [ packRow2 (.hadd2 h d a b) h d a b (fpAdd .f16), packRow2 (.hsub2 h d a b) h d a b (fpSub .f16),
    packRow2 (.hmul2 h d a b) h d a b (fpMul .f16), packRow3 (.hfma2 h d a b c) h d a b c (fpFma .f16),
    packRow2 (.hmin2 h d a b) h d a b (fpMin .f16), packRow2 (.hmax2 h d a b) h d a b (fpMax .f16),
    packRow3 (.hmed3 h d a b c) h d a b c (fpMed3 .f16), packRow3 (.hclamp2 h d a b c) h d a b c (fpClamp .f16),
    packRow2 (.badd2 h d a b) h d a b (fpAdd .bf16), packRow2 (.bmul2 h d a b) h d a b (fpMul .bf16),
    packRow3 (.bfma2 h d a b c) h d a b c (fpFma .bf16), packRow2 (.bmin2 h d a b) h d a b (fpMin .bf16),
    packRow2 (.bmax2 h d a b) h d a b (fpMax .bf16) ]

/-- The number of registers of a type's element (R140). -/
def regsOf (t : Ty) : Nat := if t = .s64 ∨ t = .n64 then 2 else 1

/-- R159: the element of a source, in the low bits of 64. -/
def cvtSource (w : Warp) (l a : Nat) (st : Ty) : W64 :=
  if regsOf st = 2 then w.vr64 l a else BitVec.ofNat 64 (w.vr l a).toNat

/-- The bits of a result that word k of a destination takes. -/
def wordOf (x : W64) (k : Nat) : W32 := BitVec.ofNat 32 (x.toNat / 2 ^ (32 * k))

/-- R159: CVT. -/
def cvtRow (h : LaneHdr) (d a : Reg) (dt st : Ty) (rmode : Rm) (sat : Bool) : LaneRow :=
  { word := .cvt h d a dt st rmode sat, hdr := h, groups := [(d.toNat, regsOf dt), (a.toNat, regsOf st)]
    reg := fun w _ l r =>
      if d.toNat ≤ r ∧ r < d.toNat + regsOf dt then
        some (wordOf (cvtVal dt st rmode sat (cvtSource w l a.toNat st)).1 (r - d.toNat))
      else none
    flags := fun w x => flagsOver x fun l => (cvtVal dt st rmode sat (cvtSource w l a.toNat st)).2 }

/-- R160: an element that PACK2 or PACK4 converts: from f32 into a floating-point type, from s32 or n32 into an integer. -/
def packedElem (dt : Ty) (rmode : Rm) (sat : Bool) (a : W32) : W64 × Fl :=
  cvtVal dt (match dt with
    | .s64 | .s32 | .s16 | .s8 => .s32
    | .n64 | .n32 | .n16 | .n8 => .n32
    | .f32 | .f16 | .bf16 | .e5m2 | .e4m3 | .e3m2 | .e2m3 | .e2m1 => .f32) rmode sat (BitVec.ofNat 64 a.toNat)

/-- R161: element I of a register, widened: into f32 from a floating-point type, to 32 bits from an integer. -/
def widened (st : Ty) (idx : Nat) (a : W32) : W32 × Fl :=
  let bits := if st = .s16 ∨ st = .n16 ∨ st = .f16 ∨ st = .bf16 then 16 else 8
  let e := a.toNat / 2 ^ (bits * idx) % 2 ^ bits
  match tyFmt st with
  | some f => (BitVec.ofNat 32 (roundNE .f32 (valOf f (e % 2 ^ f.width))).1, (roundNE .f32 (valOf f (e % 2 ^ f.width))).2)
  | none => (if (st = .s16 ∨ st = .s8) ∧ 2 ^ bits ≤ 2 * e then BitVec.ofInt 32 ((e : Int) - 2 ^ bits) else BitVec.ofNat 32 e, 0)

def unpackRow (h : LaneHdr) (d a : Reg) (idx : BitVec 2) (st : Ty) : LaneRow :=
  { word := .unpack h d a idx st, hdr := h, groups := [(d.toNat, 1), (a.toNat, 1)]
    reg := put d fun w _ l => (widened st idx.toNat (w.vr l a.toNat)).1
    flags := fun w x => flagsOver x fun l => (widened st idx.toNat (w.vr l a.toNat)).2 }

/-- R160, R161: the packing words for the types of 16 bits. -/
def halfRows (h : LaneHdr) (d a b : Reg) (dt : Ty) (rmode : Rm) (sat : Bool) (idx : BitVec 1) : List LaneRow :=
  [ { word := .pack2 h d a b dt rmode sat, hdr := h, groups := [(d.toNat, 1), (a.toNat, 1), (b.toNat, 1)]
      reg := put d fun w _ l => BitVec.ofNat 32
        ((packedElem dt rmode sat (w.vr l a.toNat)).1.toNat % 2 ^ 16
          + 2 ^ 16 * ((packedElem dt rmode sat (w.vr l b.toNat)).1.toNat % 2 ^ 16))
      flags := fun w x => flagsOver x fun l =>
        (packedElem dt rmode sat (w.vr l a.toNat)).2 ||| (packedElem dt rmode sat (w.vr l b.toNat)).2 },
    unpackRow h d a (idx.zeroExtend 2) dt ]

/-- R160, R161: the packing words for the types of 8 bits or fewer. -/
def byteRows (h : LaneHdr) (d a : Reg) (dt : Ty) (rmode : Rm) (sat : Bool) (idx : BitVec 2) : List LaneRow :=
  let e (w : Warp) (l k : Nat) := packedElem dt rmode sat (w.vr l (a.toNat + k))
  [ { word := .pack4 h d a dt rmode sat, hdr := h, groups := [(d.toNat, 1), (a.toNat, 4)]
      reg := put d fun w _ l => BitVec.ofNat 32 (lsum (tab 4 fun k => 2 ^ (8 * k) * ((e w l k).1.toNat % 2 ^ 8)))
      flags := fun w x => flagsOver x fun l => (e w l 0).2 ||| (e w l 1).2 ||| (e w l 2).2 ||| (e w l 3).2 },
    unpackRow h d a idx dt ]

/-- The formats of QB8 (R162). -/
def narrowFmt : Ty → Option Fmt
  | .e5m2 => some .e5m2 | .e4m3 => some .e4m3 | .e3m2 => some .e3m2 | .e2m3 => some .e2m3 | .e2m1 => some .e2m1
  | .s64 | .s32 | .s16 | .s8 | .n64 | .n32 | .n16 | .n8 | .f32 | .f16 | .bf16 => none

/-- R130, R162: the executing lanes of the group of eight that holds lane l, ascending. -/
def groupLanes (x : LaneMask) (l : Nat) : List Nat :=
  (tab 8 fun k => l / 8 * 8 + k).filter fun j => laneBit x j

/-- R130, R162: QB8. The scale is the low byte of VB in the lowest executing lane of the group. -/
def qb8Row (h : LaneHdr) (d a b : Reg) (dt : Ty) (f : Fmt) : LaneRow :=
  let base (w : Warp) (x : LaneMask) (l : Nat) : Int :=
    ((w.vr ((groupLanes x l).headD 0) b.toNat).extractLsb' 0 8).toInt
  let delta (w : Warp) (x : LaneMask) (l : Nat) : Nat :=
    groupDelta f (base w x l) ((groupLanes x l).map fun j => valOf .f32 (w.vr j a.toNat).toNat)
  let r (w : Warp) (x : LaneMask) (l : Nat) : Nat × Fl :=
    convert f .rn true ((valOf .f32 (w.vr l a.toNat).toNat).scale (-(base w x l + delta w x l)))
  { word := .qb8 h d a b dt, hdr := h, groups := [(d.toNat, 1), (a.toNat, 1), (b.toNat, 1)]
    reg := put d fun w x l => BitVec.ofNat 32 ((r w x l).1 + 2 ^ 8 * delta w x l)
    flags := fun w x => flagsOver x fun l => (r w x l).2 }

/-! ### Cross-lane words -/

/-- R135: node i of level k of the tree over the executing lanes' values. -/
def treeNode (op : RedOp) (x : LaneMask) (v : Nat → W32) : Nat → Nat → W32
  | 0, i => if laneBit x i then v i else redId op
  | k + 1, i => (redOp op (treeNode op x v k (2 * i)) (treeNode op x v k (2 * i + 1))).1

/-- R163: the flags of every node. -/
def treeFlags (op : RedOp) (x : LaneMask) (v : Nat → W32) : Fl :=
  ((List.range 5).flatMap fun k => tab (2 ^ (4 - k)) fun i =>
    (redOp op (treeNode op x v k (2 * i)) (treeNode op x v k (2 * i + 1))).2).foldl (· ||| ·) 0

/-- R136: the inclusive prefix at lane l, with the flags of the applications that form it. -/
def prefixAt (op : RedOp) (x : LaneMask) (v : Nat → W32) (l : Nat) : W32 × Fl :=
  let r := [5, 4, 3, 2, 1, 0].foldl (fun (acc : Option W32 × Nat × Fl) k =>
    if (l + 1).testBit k then
      let b := treeNode op x v k (acc.2.1 / 2 ^ k)
      match acc.1 with
      | none => (some b, acc.2.1 + 2 ^ k, acc.2.2)
      | some a => (some (redOp op a b).1, acc.2.1 + 2 ^ k, acc.2.2 ||| (redOp op a b).2)
    else acc) (none, 0, 0)
  (r.1.getD 0, r.2.2)

/-- R88: the source lane of SHFL, or none where the lane keeps its own value. -/
def shuffleFrom (x : LaneMask) (mode : ShflMode) (nw : Bool) (seg b l : Nat) : Option Nat :=
  let n := 2 ^ seg
  let base := l / n * n
  let o := l % n
  let at' (j : Nat) : Option Nat := if laneBit x j then some j else none
  match mode with
  | .pick => at' (base + b % n)
  | .bfly => at' (base + (o ^^^ b) % n)
  | .rotd => if nw ∧ n ≤ o + b then none else at' (base + (o + b) % n)
  | .rotu => if nw ∧ o < b then none else at' (base + (o + 32 - b % n) % n)

/-- R88, R89, R135, R136, R163. -/
def crossLaneRows (h : LaneHdr) (d a b : Reg) (nw imm : Bool) (b5 : BitVec 5) (seg : BitVec 3) (mode : ShflMode)
    (psn : Bool) (ps : BitVec 3) (op : RedOp) : List LaneRow :=
  let votes (w : Warp) (x : LaneMask) : LaneMask := fromBits fun l => laneBit x l && xor (w.pred l ps.toNat) psn
  let val (w : Warp) (l : Nat) : W32 := w.vr l a.toNat
  [ { word := .shfl h d a b nw imm b5 seg mode, hdr := h, groups := [(d.toNat, 1), (a.toNat, 1), (b.toNat, 1)]
      reg := put d fun w x l =>
        match shuffleFrom x mode nw seg.toNat (if imm then b5.toNat else (w.vr l b.toNat).toNat % 32) l with
        | some j => w.vr j a.toNat
        | none => w.vr l a.toNat },
    { word := .vote h d .mask psn ps 0, hdr := h, groups := [(d.toNat, 1)], reg := put d fun w x _ => votes w x },
    { word := .vote h d .count psn ps 0, hdr := h, groups := [(d.toNat, 1)]
      reg := put d fun w x _ => BitVec.ofNat 32 ((List.range 32).filter fun l => (votes w x).getLsbD l).length },
    { word := .matchAny h d a, hdr := h, groups := [(d.toNat, 1), (a.toNat, 1)]
      reg := put d fun w x l => fromBits fun j => laneBit x j && decide (w.vr j a.toNat = w.vr l a.toNat) },
    { word := .reduce h d a op, hdr := h, groups := [(d.toNat, 1), (a.toNat, 1)]
      reg := put d fun w x _ => treeNode op x (val w) 5 0
      flags := fun w x => treeFlags op x (val w) },
    { word := .scan h d a false op, hdr := h, groups := [(d.toNat, 1), (a.toNat, 1)]
      reg := put d fun w x l => (prefixAt op x (val w) l).1
      flags := fun w x => treeFlags op x (val w) ||| flagsOver x fun l => (prefixAt op x (val w) l).2 },
    { word := .scan h d a true op, hdr := h, groups := [(d.toNat, 1), (a.toNat, 1)]
      reg := put d fun w x l => if l = 0 then redId op else (prefixAt op x (val w) (l - 1)).1
      flags := fun w x => treeFlags op x (val w) ||| flagsOver x fun l =>
        (prefixAt op x (val w) l).2 ||| (if l = 0 then 0 else (prefixAt op x (val w) (l - 1)).2) } ]

/-- R90, R91, R92: the cross-lane words that handler mode allows. -/
def laneMoveRows (h : LaneHdr) (d a sl : Reg) (lsrc : Bool) (lane : BitVec 5) : List LaneRow :=
  let pick (w : Warp) : Nat := if lsrc then (w.sr sl.toNat).toNat % 32 else lane.toNat
  [ { word := .rdlane h d a sl lsrc lane, hdr := h, groups := [(a.toNat, 1)]
      sreg := fun w x r => if r = d.toNat then some (if laneBit x (pick w) then w.vr (pick w) a.toNat else 0) else none },
    { word := .wrlane h d a sl lsrc lane, hdr := h, groups := [(d.toNat, 1)]
      reg := fun w _ l r => if l = pick w ∧ r = d.toNat then some (w.sr a.toNat) else none },
    { word := .vpcget h d, hdr := h, groups := [(d.toNat, 2)]
      reg := putPair d fun w _ l => BitVec.ofInt 64 (BitVec.ofNat 57 (w.vpcOf l)).toInt } ]

/-! ### Predicate words -/

/-- R150: the two results of a compare; PDF is written second. -/
def comparePreds (pdt pdf : BitVec 3) (psn : Bool) (ps : BitVec 3) (bop : Bop) (r : Warp → Nat → Bool) :
    Warp → LaneMask → Nat → Nat → Option Bool := fun w _ l n =>
  let s := xor (w.pred l ps.toNat) psn
  if n = pdf.toNat then some (joinBy bop (!(r w l)) s) else if n = pdt.toNat then some (joinBy bop (r w l) s) else none

/-- R89, R150 to R152, R156. -/
def predicateRows (h : LaneHdr) (d a b : Reg) (psn : Bool) (ps pdf pdt pa pb pc : BitVec 3) (bop : Bop) (cond : Cond)
    (lut : BitVec 8) (m7 : BitVec 7) (m10 : BitVec 10) : List LaneRow :=
  let votes (w : Warp) (x : LaneMask) (l : Nat) : Bool := laneBit x l && xor (w.pred l ps.toNat) psn
  [ { word := .fcmp h a b psn ps bop pdf pdt cond, hdr := h, groups := [(a.toNat, 1), (b.toNat, 1)]
      prd := comparePreds pdt pdf psn ps bop fun w l => (fpCmp cond (w.vr l a.toNat).toNat (w.vr l b.toNat).toNat).1
      flags := fun w x => flagsOver x fun l => (fpCmp cond (w.vr l a.toNat).toNat (w.vr l b.toNat).toNat).2 },
    { word := .plop h pdt pa pb pc lut, hdr := h, groups := []
      prd := putPred pdt fun w _ l => tableBit lut (w.pred l pa.toNat) (w.pred l pb.toNat) (w.pred l pc.toNat) },
    { word := .v2p h a m7, hdr := h, groups := [(a.toNat, 1)]
      prd := fun w _ l n => if m7.getLsbD n then some ((w.vr l a.toNat).getLsbD n) else none },
    { word := .vote h 0 .all psn ps pdt, hdr := h, groups := []
      prd := putPred pdt fun w x _ => (List.range 32).all fun j => !laneBit x j || votes w x j },
    { word := .vote h 0 .any psn ps pdt, hdr := h, groups := []
      prd := putPred pdt fun w x _ => (List.range 32).any fun j => votes w x j },
    { word := .vote h 0 .unif psn ps pdt, hdr := h, groups := []
      prd := putPred pdt fun w x _ => !((List.range 32).any fun j => votes w x j) ||
        (List.range 32).all fun j => !laneBit x j || votes w x j },
    { word := .fclass h d a pdt m10, hdr := h, groups := [(d.toNat, 1), (a.toNat, 1)]
      reg := put d fun w _ l => BitVec.ofNat 32 (2 ^ fpClass (w.vr l a.toNat).toNat)
      prd := putPred pdt fun w _ l => m10.getLsbD (fpClass (w.vr l a.toNat).toNat) } ] ++
  if cond = .num ∨ cond = .nan then []
  else
    [ { word := .icmp h a b psn ps bop pdf pdt cond, hdr := h, groups := [(a.toNat, 1), (b.toNat, 1)]
        prd := comparePreds pdt pdf psn ps bop fun w l => Holds cond (w.vr l a.toNat).toInt (w.vr l b.toNat).toInt },
      { word := .ucmp h a b psn ps bop pdf pdt cond, hdr := h, groups := [(a.toNat, 1), (b.toNat, 1)]
        prd := comparePreds pdt pdf psn ps bop fun w l => Holds cond (w.vr l a.toNat).toNat (w.vr l b.toNat).toNat } ]

/-! ### Scalar words -/

/-- R168: the integer and logic words. -/
def scalarRows (h : WarpHdr) (d a b : Reg) (imm : W32) (sg : Bool) (len : Reg) (pos : BitVec 5) : List WarpRow :=
  let bits (i : Instr) (f : Bool → Bool → Bool) : WarpRow :=
    { word := i, hdr := h
      reg := putS d fun w => fromBits fun k => f ((w.sr a.toNat).getLsbD k) ((w.sr b.toNat).getLsbD k) }
  [ sIntRow2 (.sadd h d a b) h d a b fun x y => x.toInt + y.toInt,
    sIntRow2 (.ssub h d a b) h d a b fun x y => x.toInt - y.toInt,
    sIntRow1 (.saddi h d a imm) h d a fun x => x.toInt + imm.toInt,
    sIntRow2 (.smul h d a b) h d a b fun x y => (x.toNat : Int) * y.toNat,
    sIntRow2 (.smulhi h d a b) h d a b fun x y => upper (x.toInt * y.toInt),
    sIntRow2 (.smin h d a b) h d a b fun x y => min x.toInt y.toInt,
    sIntRow2 (.smax h d a b) h d a b fun x y => max x.toInt y.toInt,
    sIntRow2 (.sminn h d a b) h d a b fun x y => min (x.toNat : Int) y.toNat,
    sIntRow2 (.smaxn h d a b) h d a b fun x y => max (x.toNat : Int) y.toNat,
    bits (.sand h d a b) fun x y => x && y,
    bits (.sor h d a b) fun x y => x || y,
    bits (.sxor h d a b) fun x y => x != y,
    sIntRow2 (.sshl h d a b) h d a b fun x y => if 32 ≤ y.toNat then 0 else (x.toNat : Int) * 2 ^ y.toNat,
    sIntRow2 (.sshr h d a b) h d a b fun x y => if 32 ≤ y.toNat then 0 else (x.toNat / 2 ^ y.toNat : Nat),
    sIntRow2 (.ssar h d a b) h d a b fun x y => x.toInt / 2 ^ (min y.toNat 31),
    { word := .smov h d a, hdr := h, reg := putS d fun w => w.sr a.toNat },
    { word := .smovi h d imm, hdr := h, reg := putS d fun _ => imm },
    { word := .sadd64 h d a b, hdr := h, groups := [(d.toNat, 2), (a.toNat, 2), (b.toNat, 2)]
      reg := putSPair d fun w => BitVec.ofInt 64 (((w.sr64 a.toNat).toNat : Int) + (w.sr64 b.toNat).toNat) },
    { word := .ssub64 h d a b, hdr := h, groups := [(d.toNat, 2), (a.toNat, 2), (b.toNat, 2)]
      reg := putSPair d fun w => BitVec.ofInt 64 (((w.sr64 a.toNat).toNat : Int) - (w.sr64 b.toNat).toNat) },
    sIntRow1 (.sbfe h d a sg len pos) h d a (extractField sg len.toNat pos.toNat),
    sIntRow1 (.spopc h d a) h d a fun x => ((List.range 32).filter fun k => x.getLsbD k).length,
    sIntRow1 (.sclz h d a) h d a fun x => ((List.range 32).takeWhile fun k => !x.getLsbD (31 - k)).length,
    sIntRow2 (.sdiv h d a b) h d a b quotS,
    sIntRow2 (.sdivn h d a b) h d a b quotN ]

/-- R168 to R170: the scalar floating-point words and those of the uniform predicates. -/
def scalarFloatRows (h : WarpHdr) (d a b c : Reg) (dt st : Ty) (rmode : Rm) (sat : Bool) : List WarpRow :=
  [ sFpRow2 (.sfadd h d a b) h d a b (fpAdd .f32), sFpRow2 (.sfmul h d a b) h d a b (fpMul .f32),
    { word := .sffma h d a b c, hdr := h
      reg := putS d fun w =>
        BitVec.ofNat 32 (fpFma .f32 (w.sr a.toNat).toNat (w.sr b.toNat).toNat (w.sr c.toNat).toNat).1
      flags := fun w => (fpFma .f32 (w.sr a.toNat).toNat (w.sr b.toNat).toNat (w.sr c.toNat).toNat).2 } ] ++
  if narrowFmt dt = none ∧ narrowFmt st = none then
    let src (w : Warp) : W64 := if regsOf st = 2 then w.sr64 a.toNat else BitVec.ofNat 64 (w.sr a.toNat).toNat
    [ { word := .scvt h d a dt st rmode sat, hdr := h, groups := [(d.toNat, regsOf dt), (a.toNat, regsOf st)]
        reg := fun w r =>
          if d.toNat ≤ r ∧ r < d.toNat + regsOf dt then some (wordOf (cvtVal dt st rmode sat (src w)).1 (r - d.toNat))
          else none
        flags := fun w => (cvtVal dt st rmode sat (src w)).2 } ]
  else []

/-- R168, R169. -/
def uniformRows (h : WarpHdr) (d a b : Reg) (psn : Bool) (ps pdf pdt qa qb qc : BitVec 3) (bop : Bop) (cond : Cond)
    (lut : BitVec 8) : List WarpRow :=
  let compare (t : CmpT) (r : W32 → W32 → Bool) (f : W32 → W32 → Fl) : WarpRow :=
    { word := .scmp h a b t psn ps bop pdf pdt cond, hdr := h
      prd := fun w n =>
        let s := xor (w.qBit ps.toNat) psn
        let x := r (w.sr a.toNat) (w.sr b.toNat)
        if n = pdf.toNat then some (joinBy bop (!x) s) else if n = pdt.toNat then some (joinBy bop x s) else none
      flags := fun w => f (w.sr a.toNat) (w.sr b.toNat) }
  [ { word := .ssel h d a b psn ps, hdr := h
      reg := putS d fun w => if xor (w.qBit ps.toNat) psn then w.sr a.toNat else w.sr b.toNat },
    { word := .qlop h pdt qa qb qc lut, hdr := h
      prd := putQ pdt fun w => tableBit lut (w.qBit qa.toNat) (w.qBit qb.toNat) (w.qBit qc.toNat) },
    compare .f32 (fun x y => (fpCmp cond x.toNat y.toNat).1) fun x y => (fpCmp cond x.toNat y.toNat).2 ] ++
  if cond = .num ∨ cond = .nan then []
  else
    [ compare .s32 (fun x y => Holds cond x.toInt y.toInt) fun _ _ => 0,
      compare .n32 (fun x y => Holds cond x.toNat y.toNat) fun _ _ => 0 ]


/-! ## Rounding (R118, R119, R125), from the tables of 06 -/

/-- R118: the widths of the exponent and the mantissa, the bias, and the magnitude code of the largest finite value. -/
def formatRow : Fmt → Nat × Nat × Nat × Nat
  | .f32 => (8, 23, 127, 0x7F7FFFFF) | .f16 => (5, 10, 15, 0x7BFF) | .bf16 => (8, 7, 127, 0x7F7F) | .e5m2 => (5, 2, 15, 0x7B)
  | .e4m3 => (4, 3, 7, 0x7E) | .e3m2 => (3, 2, 3, 0x1F) | .e2m3 => (2, 3, 1, 0x1F) | .e2m1 => (2, 1, 1, 7)

/-- R119, R125: the magnitude of code n, times 2^K: the codes go on past the largest with the spacing that their exponents
give, so this is the n-th value of Grid. -/
def gridValue (f : Fmt) (K n : Nat) : Nat :=
  let (_, mb, bias, _) := formatRow f
  if n < 2 ^ mb then n * 2 ^ (K + 1 - bias - mb) else (2 ^ mb + n % 2 ^ mb) * 2 ^ (K + n / 2 ^ mb - bias - mb)

/-- R118: a signed code; the code of infinity; the canonical NaN. -/
def signedCode (f : Fmt) (neg : Bool) (n : Nat) : Nat :=
  if neg then 2 ^ ((formatRow f).1 + (formatRow f).2.1) + n else n
def infiniteCode (f : Fmt) : Nat := (2 ^ (formatRow f).1 - 1) * 2 ^ (formatRow f).2.1
def nanCode (f : Fmt) : Nat := if f = .e4m3 then 0x7F else infiniteCode f + 2 ^ ((formatRow f).2.1 - 1)

/-- A finite value m × 2^e with its sign, times 2^K. -/
def scaledBy (K : Nat) (neg : Bool) (m : Nat) (e : Int) : Int := (if neg then -1 else 1) * (m * 2 ^ (e + K).toNat : Nat)

/-- R125: n is the place in the grid to which a mode rounds the magnitude x, scaled by 2^K, of a value with this sign. -/
def RoundsTo (f : Fmt) (md : Rm) (neg : Bool) (K x n : Nat) : Prop :=
  let far (k : Nat) : Nat := ((gridValue f K k : Int) - x).natAbs
  let up : Prop := (md = .rp ∧ neg = false) ∨ (md = .rm ∧ neg = true)
  (md = .rn → ∀ k, far n ≤ far k ∧ (k ≠ n → far n = far k → n % 2 = 0)) ∧
    (md ≠ .rn → ¬ up → gridValue f K n ≤ x ∧ x < gridValue f K (n + 1)) ∧
    (up → x ≤ gridValue f K n ∧ ∀ k < n, gridValue f K k < x)

/-! ## Words with other effects -/

/-- The word completes: `w1` and `s1` are the warp and the state with its effect, and the warp goes on past it. -/
def Completes (i : Instr) (s s1 : State) (w w1 : Warp) : Prop :=
  ∃ w', exec i s = .next (s1.setWarp s.cur w') ∧ GoesPast w w' i ∧ w' = placedAs w1 w'

/-- A word that sends its lanes elsewhere completes: lane l goes to `a l`, and `w1` is the warp with its other effects. -/
def Branches (i : Instr) (s : State) (w w1 : Warp) (a : Nat → Nat) : Prop :=
  ∃ w', exec i s = .next (s.setWarp s.cur w') ∧ MovedTo w w' a ∧ w' = placedAs w1 w'

/-- The word waits: the state with its effect so far, in which the warp stands at the word with a wait of this kind. A word
that is tried again for the same keeps the order and the start of its wait. -/
def WaitsAt (i : Instr) (s s1 : State) (w w1 : Warp) (k : WaitKind) : Prop :=
  ∃ t w' x, exec i s = .next t ∧ t.warp? s.cur = some w' ∧ w'.wait = some x ∧ x.kind = k ∧
    (w.wait = none → x.word = i ∧ x.pc = w.issueAddr ∧ x.act = w.active ∧ x.since = s.time.toNat) ∧
    w' = { w1 with wait := w'.wait, counted := w'.counted, prologue := w'.prologue } ∧
    t = { s1.setWarp s.cur w' with stamp := t.stamp }

/-- A warp that runs a word afresh, with the guard of a warp word true. -/
def Issues (s : State) (w : Warp) (h : WarpHdr) : Prop := s.warp? s.cur = some w ∧ w.wait = none ∧ w.qGuard h = true

/-- An epilogue warp that runs a lane word afresh, outside handler mode. -/
def IssuesLane (s : State) (w : Warp) : Prop :=
  s.warp? s.cur = some w ∧ w.wait = none ∧ w.role = .epilogue ∧ w.inh = false

/-- The warp's team. -/
def InTeam (s : State) (w : Warp) (t : Team) : Prop := s.team? w.team = some t

/-! ## Taking a trap (R384, R385) -/

/-- The trap is taken outside handler mode, in a context with a trap handler at `n`. -/
def HasHandler (s : State) (w : Warp) (n : Nat) : Prop :=
  w.inh = false ∧ w.wait = none ∧ n ≠ 0 ∧
    ∃ t c, s.team? w.team = some t ∧ kget? s.contexts t.ctx = some c ∧ c.thand = n

/-- R73: the OP field of a warp word and of a lane word: TINFO of TASK. -/
def warpOpcode (i : Instr) : W32 := ((firstWord i).extractLsb' 18 9).zeroExtend 32
def laneOpcode (i : Instr) : W32 := ((firstWord i).extractLsb' 18 8).zeroExtend 32

/-- R73: the codes of the causes. -/
def causeCode : Cause → W32
  | .illegalOp => 1 | .role => 2 | .regRange => 3 | .priv => 4 | .align => 5 | .vaRange => 6 | .page => 7 | .protect => 8
  | .spadRange => 9 | .accRange => 10 | .gangClass => 11 | .fmt => 12 | .loop => 13 | .queue => 14 | .mbar => 15
  | .task => 16 | .taskCap => 17 | .set => 18 | .dataErr => 19 | .fabric => 20 | .lease => 21 | .teamStall => 22
  | .soft => 23 | .brk => 24 | .double => 25

/-- R43: the windows of a warp whose word at the issue address has not issued after all: none that is open counts it. -/
def uncounted (w : Warp) : List Window :=
  if w.counted then w.windows.map fun x => if x.closed || x.handler then x else { x with count := x.count - 1 } else w.windows

/-- R386: what is left of a state once the page requests, fetches and fabric reads of a warp's word have been withdrawn. -/
abbrev withdrawnWord (s : State) : State := s.dropWaiters (Waiter.ofWord s.cur)

/-- R53, R384, R385: the warp in handler mode: the word at the issue address has no effect. -/
def entered (w : Warp) (thand : Nat) (c : Cause) (addr : Nat) (lanes : LaneMask) (info : W32) : Warp :=
  { w with
    tcause := causeCode c, tpc := BitVec.ofNat 64 w.issueAddr, t0 := BitVec.ofNat 64 w.issueAddr, tact := w.active
    taddr := BitVec.ofNat 64 addr, tlanes := lanes, tinfo := info
    inh := true, hpc := thand, hq := 0, hloops := [], hseq := w.seq
    badRegs := (w.soundTraps true).filter fun u => u.1 != 5 }

/-- The word traps into the handler and has no other effect; what it had asked for is withdrawn. -/
def Traps (i : Instr) (s : State) (w : Warp) (c : Cause) (addr : Nat) (lanes : LaneMask) (info : W32) : Prop :=
  ∀ n, HasHandler s w n → exec i s = .next ((withdrawnWord s).setWarp s.cur (entered w n c addr lanes info))

/-! ## Targets (R76) -/

/-- The address of the word plus 4 × OFF. -/
def relative (w : Warp) (off : BitVec 18) : Nat := (((w.issueAddr : Int) + 4 * off.toInt) % 2 ^ 64).toNat

/-- R60: the address of the word plus 4 × OFF is canonical and does not pass the top of the address space. -/
def Reaches (w : Warp) (off : BitVec 18) : Prop :=
  let t := (w.issueAddr : Int) + 4 * off.toInt
  (0 ≤ t ∧ t < 2 ^ 56) ∨ (2 ^ 64 - 2 ^ 56 ≤ t ∧ t < 2 ^ 64)

/-- R340: bits [63:57] all equal bit 56. -/
abbrev Canonical (a : Nat) : Prop := a < 2 ^ 56 ∨ (2 ^ 64 - 2 ^ 56 ≤ a ∧ a < 2 ^ 64)

/-- R76: a target that a branch may take from a register. -/
abbrev GoodTarget (a : Nat) : Prop := a % 4 = 0 ∧ Canonical a

/-- The lanes of X with a property, as a mask. -/
def lanesWith (x : LaneMask) (p : Nat → Bool) : LaneMask := fromBits fun l => laneBit x l && p l

/-- A lane is the lowest of a mask. -/
def IsLowest (x : LaneMask) (l : Nat) : Prop := l < 32 ∧ laneBit x l = true ∧ ∀ k < l, laneBit x k = false

/-! ## Loops (R85 to R87) -/

/-- LOOP raises its cause with the depth. -/
def loopDepth (w : Warp) : Nat := (if w.inh then w.hloops else w.loops).length

/-- R85: the words that open a loop, with the count that each takes. -/
def loopWords (h : WarpHdr) (sa : Reg) (count : BitVec 16) (lend : BitVec 14) (w : Warp) : List (Instr × W32) :=
  [(.loop h sa lend, w.sr sa.toNat), (.loopi h count lend, count.zeroExtend 32)]

/-! ## Rejoin masks (R80 to R82) -/

/-- The lanes that wait at a JOIN on mask K after the lanes of X that JM[K] names have stopped there. -/
def joinWaiters (w : Warp) (x : LaneMask) (k : Nat) : LaneMask := kget w.waitK k 0 ||| (x &&& kget w.jm k 0)

/-! ## Special registers (R54) -/

/-- What SRD reads at each index. -/
def specialValues (s : State) (w : Warp) (t : Team) : List (Nat × W64) :=
  let n (x : Nat) : W64 := BitVec.ofNat 64 x
  let e (x : W32) : W64 := BitVec.ofNat 64 x.toNat
  [ (0x00, n w.num), (0x01, n (match w.role with | .copy => 0 | .maths => 1 | .epilogue => 2)),
    (0x02, n t.x), (0x03, n t.y), (0x04, n t.z), (0x05, n t.gangNum),
    (0x06, n t.desc.gridX), (0x07, n t.desc.gridY), (0x08, n t.desc.gridZ),
    (0x09, n w.core), (0x0A, n (w.core / 192)),
    (0x0B, n (if s.devnum.getLsbD 31 then s.devnum.toNat % 2 ^ 10 else 0)),
    (0x0C, n (s.time.toNat % 2 ^ 32)), (0x0D, n (s.time.toNat / 2 ^ 32)),
    (0x20, w.link), (0x21, e w.fpflags), (0x22, n (w.age.toNat % 2 ^ 32)), (0x23, n (w.age.toNat / 2 ^ 32)),
    (0x24, e w.trc), (0x25, if w.taskst then 1 else 0), (0x28, e w.ready), (0x29, e w.live),
    (0x30, e w.tcause), (0x31, w.tpc), (0x32, w.taddr), (0x33, e w.tlanes), (0x34, e w.tinfo),
    (0x35, if w.inh then 1 else 0) ]
  ++ tab 3 (fun d => (0x10 + d, e (kget w.lc d 0))) ++ tab 8 (fun k => (0x18 + k, e (kget w.jm k 0)))
  ++ tab 8 fun k => (0x38 + k, e (kget w.hs k 0))

/-- R54: indices of register pairs. -/
abbrev isPairIndex (i : Nat) : Prop := i = 0x20 ∨ i = 0x31 ∨ i = 0x32

/-- R52 to R54: the indices that SWR may write in a mode, with the bits of the value that are kept. -/
def WritableMask (w : Warp) (i : Nat) (m : Nat) : Prop :=
  ((0x10 ≤ i ∧ i ≤ 0x12 ∨ 0x18 ≤ i ∧ i ≤ 0x1F) ∧ m = 2 ^ 32 - 1) ∨ (i = 0x20 ∧ m = 2 ^ 64 - 1) ∨ (i = 0x21 ∧ m = 0x1F) ∨
    (w.inh = true ∧ ((i = 0x30 ∧ m = 0x3F) ∨ (i = 0x32 ∧ m = 2 ^ 64 - 1) ∨
      ((i = 0x33 ∨ i = 0x34 ∨ 0x38 ≤ i ∧ i ≤ 0x3F) ∧ m = 2 ^ 32 - 1)))

/-- The special registers that SWR reaches are all that may differ. -/
def OnlySpecials (w w' : Warp) : Prop :=
  w' = { placedAs w w' with
    jm := w'.jm, link := w'.link, fpflags := w'.fpflags, tcause := w'.tcause, tpc := w'.tpc
    taddr := w'.taddr, tlanes := w'.tlanes, tinfo := w'.tinfo, hs := w'.hs, badRegs := w'.badRegs }

/-- R306: a team word or a scalar word moves through its pair. -/
def srPair (w : Warp) (r : Reg) : Nat := (w.sr r.toNat).toNat + 2 ^ 32 * (w.sr (r.toNat + 1)).toNat


/-! ## Decode causes (R71) and DOUBLE (R385, R398) -/

/-- A cause in handler mode: DOUBLE keeps TPC and TACT of the first trap, records the new cause's code as DCAUSE, and halts
the team. -/
def Doubles (i : Instr) (s : State) (w : Warp) (c : Cause) (addr : Nat) (lanes : LaneMask) (info : W32) : Prop :=
  ∀ t, w.inh = true → w.wait = none → s.team? w.team = some t → ∃ s',
    exec i s = .next s' ∧
    s'.warp? s.cur = some { w with
      tcause := 25, dcause := causeCode c, taddr := BitVec.ofNat 64 addr, tlanes := lanes, tinfo := info
      badRegs := w.soundTraps false } ∧
    s'.team? w.team = some { t with halted := some w.num } ∧
    (∀ k, k ≠ s.cur → s'.warp? k = s.warp? k) ∧ ∀ k, k ≠ w.team → s'.team? k = s.team? k

/-- A row of lane words that name d, a, b and c. -/
def someLaneRows (h : LaneHdr) (d a b c : Reg) (imm : W32) (u : Bool) (rmode : Rm) : List LaneRow :=
  integerRows h d a b c imm u ++ floatRows h d a b c rmode ++ packedRows h d a b c

/-- Warp words that one role alone may issue (R70). -/
def roleWords (h : WarpHdr) (d a b : Reg) (n : BitVec 5) (slot : BitVec 4) (nobar : Bool) : List (Role × Instr) :=
  [ (.copy, .tcopy h d a b slot n nobar), (.copy, .tstore h d a b slot n nobar), (.maths, .mma h d a b 0),
    (.maths, .accz h a b), (.maths, .acccpy h d a b) ]

/-- The types that a conversion word accepts. -/
def sixteenBits (t : Ty) : Prop := t = .s16 ∨ t = .n16 ∨ t = .f16 ∨ t = .bf16
def eightBits (t : Ty) : Prop := t = .s8 ∨ t = .n8 ∨ narrowFmt t ≠ none

/-! ## Memory words (09, 10) -/

/-- R222: the address of a lane: a register of the scratchpad, else a pair, plus a signed offset. -/
def laneAt (w : Warp) (sp : Space) (a : Reg) (off : Int) (l : Nat) : Int :=
  (match sp with | .spad => ((w.vr l a.toNat).toNat : Int) | .glob | .orang => (w.vr64 l a.toNat).toNat) + off

/-- R222: the address of a scalar word. -/
def scalarAt (w : Warp) (sp : Space) (a : Reg) (off : Int) : Int :=
  (match sp with | .spad => ((w.sr a.toNat).toNat : Int) | .glob | .orang => srPair w a) + off

/-- Registers of an address operand. -/
def pointerRegs (sp : Space) : Nat := match sp with | .spad => 1 | .glob | .orang => 2

/-- R176, R222: [a, a + n) lies in a space. -/
def InSpace (t : Team) (sp : Space) (a : Int) (n : Nat) : Prop :=
  0 ≤ a ∧
    match sp with
    | .glob => a + n ≤ 2 ^ 56 ∨ (2 ^ 64 - 2 ^ 56 ≤ a ∧ a + n ≤ 2 ^ 64)
    | .spad => a + n ≤ t.allot ∧ t.desc.inPergola a.toNat n = false
    | .orang => a < 2 ^ 19 ∧ (a / 2 ^ 18).toNat < t.desc.nmaths ∧ (a % 2 ^ 18).toNat + n ≤ t.desc.orang

/-- R222, R361: a lane's address that lies in its context's private window reaches a backing address in range. -/
def BackingInRange (s : State) (w : Warp) (l : Nat) (a : Int) (n : Nat) : Prop :=
  ∀ t c, s.team? w.team = some t → kget? s.contexts t.ctx = some c → c.nPriv ≠ 0 → (c.pBase : Int) ≤ a →
    a < (c.pBase : Int) + 2 ^ c.pMaxLog2 →
    let b := c.pBack + (32 * w.privIndex + l) * 2 ^ c.pMaxLog2 + (a.toNat - c.pBase)
    b + n ≤ 2 ^ 56 ∨ (2 ^ 64 - 2 ^ 56 ≤ b ∧ b + n ≤ 2 ^ 64)

/-- R222, R361: a lane's access lies in its space. -/
def LaneInSpace (s : State) (w : Warp) (t : Team) (sp : Space) (l : Nat) (a : Int) (n : Nat) : Prop :=
  InSpace t sp a n ∧ (sp = .glob → BackingInRange s w l a n)

/-- R222: the access is aligned and in range. -/
def Accessible (t : Team) (sp : Space) (a : Int) (size : Size) : Prop :=
  a % size.bytes = 0 ∧ InSpace t sp a size.bytes

/-- R222, R361: the lane's access is aligned and in range. -/
def LaneAccessible (s : State) (w : Warp) (t : Team) (sp : Space) (l : Nat) (a : Int) (size : Size) : Prop :=
  a % size.bytes = 0 ∧ LaneInSpace s w t sp l a size.bytes

/-- A memory word, with the space, the extension of a loaded unit, the scope and the order that it carries. -/
structure MemForm where
  word : Instr
  sp : Space
  sx : Bool := false
  scope : Scope := .core
  ord : Ord := .plain

/-- R193, R225: the lane loads. -/
def laneLoads (h : LaneHdr) (d a : Reg) (la : BitVec 4) (sx : Bool) (off : BitVec 24) (size : Size) (scope : Scope)
    (ord : Ord) : List MemForm :=
  [ { word := .ld h d a la sx off size scope ord, sp := .glob, sx := sx, scope := scope, ord := ord },
    { word := .lds h d a la sx off size ord, sp := .spad, sx := sx, ord := ord },
    { word := .accrd h d a la off size, sp := .orang } ]

/-- R225: the scalar loads. -/
def scalarLoads (h : WarpHdr) (d a : Reg) (la : BitVec 4) (sx : Bool) (off : BitVec 24) (size : Size) (scope : Scope)
    (ord : Ord) : List MemForm :=
  [ { word := .sld h d a la sx off size scope ord, sp := .glob, sx := sx, scope := scope, ord := ord },
    { word := .slds h d a la sx off size ord, sp := .spad, sx := sx, ord := ord } ]

/-- R193, R226: the lane stores. -/
def laneStores (h : LaneHdr) (d a : Reg) (off : BitVec 24) (size : Size) (scope : Scope) (ord : Ord) : List MemForm :=
  [ { word := .st h d a off size scope ord, sp := .glob, scope := scope, ord := ord },
    { word := .sts h d a off size ord, sp := .spad, ord := ord },
    { word := .accwr h d a off size, sp := .orang } ]

/-- R226: the scalar stores. -/
def scalarStores (h : WarpHdr) (d a : Reg) (off : BitVec 24) (size : Size) (scope : Scope) (ord : Ord) : List MemForm :=
  [ { word := .sst h d a off size scope ord, sp := .glob, scope := scope, ord := ord },
    { word := .ssts h d a off size ord, sp := .spad, ord := ord } ]

/-- R229: the lane atomics. -/
def laneAtomics (h : LaneHdr) (d a : Reg) (la : BitVec 4) (b : Reg) (op : Aop) (off : BitVec 14) (size : Size)
    (scope : Scope) (ord : Ord) : List MemForm :=
  [ { word := .atom h d a la b op off size scope ord, sp := .glob, scope := scope, ord := ord },
    { word := .atoms h d a la b op off size ord, sp := .spad, ord := ord } ]

/-- The lanes of X, ascending, each with its access. -/
def partsOf (x : LaneMask) (p : Nat → Part) : List Part := ((List.range 32).filter fun l => laneBit x l).map p

/-- The accesses of a memory word as it issues. -/
def accessOf (f : MemForm) (w : Warp) (k : AccKind) (scalar : Bool) (size : Size) (seq : Nat)
    (ps : List Part) : Acc :=
  { kind := k, space := f.sp, scalar := scalar, size := size, sx := f.sx, scope := f.scope, ord := f.ord, seq := seq
    pc := w.issueAddr, w0 := firstWord f.word, w1 := extWord f.word, parts := ps }

/-- R228: registers of an atomic's operand. -/
def operandRegs (op : Aop) (size : Size) : Nat := if op = .cas then 2 * size.regs else size.regs

/-- The warp after a word that queues a store. -/
def queueing (w : Warp) (x : Acc) : Warp :=
  { w with seq := w.seq + 1, storeQ := w.storeQ ++ [x], prologue := false }

/-- R43: the word opens a window: its access and destination, no instruction counted yet, none of its results written. The
older windows, the registers, the predicates and the store queue stay as they are. -/
def OpensWindow (w w' : Warp) (acc : Nat → Acc) (dest : Dest) (la : Nat) (lanes : LaneMask) : Prop :=
  w'.v = w.v ∧ w'.s = w.s ∧ w'.p = w.p ∧ w'.q = w.q ∧ w'.hq = w.hq ∧ w'.fpflags = w.fpflags ∧ w'.storeQ = w.storeQ ∧
    w'.live = w.live ∧ w'.waitK = w.waitK ∧
    ∃ x, w'.windows = w.windows ++ [x] ∧ x.acc = acc x.acc.seq ∧ x.dest = dest ∧ x.la = la ∧ x.count = 0 ∧
      x.handler = w.inh ∧ x.closed = false ∧ x.lanes = lanes ∧ w.seq ≤ x.acc.seq ∧ x.acc.seq < w'.seq ∧
      ∀ y ∈ w.windows, y.acc.seq < x.acc.seq

/-- What a load that finds no damaged unit may change besides its warp: copies of memory and the requests for what it
waits for; of a lease, the chunks that are reported as awaited. -/
def LoadKeeps (s t : State) : Prop :=
  t = { s with
    warps := t.warps, cores := t.cores, rdc0 := t.rdc0, rdc1 := t.rdc1, stamp := t.stamp, tlb0 := t.tlb0, tlb1 := t.tlb1
    pri := t.pri, priDenied := t.priDenied, priTries := t.priTries, priGranted := t.priGranted, ats := t.ats
    fab := t.fab, leases := t.leases } ∧
  (∀ k, (kget? t.leases k).map (fun r => { r with awaited := [] }) =
    (kget? s.leases k).map fun r => { r with awaited := [] }) ∧
  ∀ k, k ≠ s.cur → t.warp? k = s.warp? k

/-- R221: the registers that a loaded unit fills, from its bytes. -/
def loaded (size : Size) (sx : Bool) (f : Nat → Byte) : List W32 :=
  let word (k : Nat) : W32 := f (4 * k + 3) ++ f (4 * k + 2) ++ f (4 * k + 1) ++ f (4 * k)
  match size with
  | .b8 => [if sx then (f 0).signExtend 32 else (f 0).zeroExtend 32]
  | .b16 => [if sx then (f 1 ++ f 0).signExtend 32 else (f 1 ++ f 0).zeroExtend 32]
  | .b32 => [word 0]
  | .b64 => [word 0, word 1]
  | .b128 => [word 0, word 1, word 2, word 3]

/-- A byte of a space of the warp's core, by its address there. -/
def localByte (t : Team) (w : Warp) (sp : Space) (a : Nat) : Byte :=
  match sp with
  | .orang => kget (kget t.orangs (2 * w.part + a / 2 ^ 18 % 2) []) (a % 2 ^ 18) 0
  | .spad | .glob => kget (kget t.spads w.part ⟨[], [], []⟩).cells a 0

/-- R224: the lines of [a, a + n) are present. -/
def LinesPresent (t : Team) (w : Warp) (a n : Nat) : Prop :=
  ∀ k < n, (a + k) / 128 ∉ (kget t.spads w.part ⟨[], [], []⟩).absent

/-- Nothing stands before an access of the warp: no queued store, no logged access, and every load has its value. -/
def NothingBefore (w : Warp) : Prop :=
  w.storeQ = [] ∧ w.opLog = [] ∧
    ∀ x ∈ w.windows, x.lanes &&& ~~~x.ready = 0 ∧ x.dead = 0 ∧ (x.closed = true → x.lanes ≠ 0)

/-- The byte of a queued word's data. -/
def dataByte (d : List W32) (i : Nat) : Byte := ((d.getD (i / 4) 0) >>> (8 * (i % 4))).setWidth 8

/-- Two states hold the same bytes at every home: HBM under every key slot, other devices and the host. -/
def SameMemory (s t : State) : Prop := ∀ l, t.homeByte l = s.homeByte l

/-- Copies of lines, in the L1 caches and in the RDCs, only go; what an RDC holds that its home has not is kept. -/
def CopiesShrink (s t : State) : Prop :=
  (∀ c, t.core c = { s.core c with l1 := (t.core c).l1 } ∧ ∀ e ∈ (t.core c).l1, e ∈ (s.core c).l1) ∧
    ∀ die ≤ 1,
      (∀ e ∈ t.rdc die, e ∈ s.rdc die ∨ ∃ r, (e.1, r) ∈ s.rdc die ∧ r.dirty ≠ 0 ∧ e.2 = { r with full := false }) ∧
      ∀ e ∈ s.rdc die, e.2.dirty ≠ 0 → ∃ f ∈ t.rdc die, f.1 = e.1 ∧ f.2 = { e.2 with full := f.2.full }

/-- R212: after an acquire at a scope by a warp of a core: the core's L1 holds no copy but for core scope; at device scope the
die's RDC holds no clean bytes of the lines that the sibling die homes, at system scope of none that its own die does not. -/
def Dropped (t : State) (core : Nat) (sc : Scope) : Prop :=
  let die := core / 192
  (sc ≠ .core → (t.core core).l1 = []) ∧
    (sc = .device → ∀ e ∈ t.rdc die, (locOfLine e.1).reach die = .sibling → e.2.full = false) ∧
    (sc = .system → ∀ e ∈ t.rdc die, (locOfLine e.1).reach die ≠ .ownDie → e.2.full = false)

/-- R212: an acquire by a warp of a core, and nothing else. -/
def Acquired (s t : State) (core : Nat) (sc : Scope) : Prop :=
  t = { s with cores := t.cores, rdc0 := t.rdc0, rdc1 := t.rdc1 } ∧ CopiesShrink s t ∧ Dropped t core sc ∧
    (sc = .core → t = s) ∧ (sc = .core ∨ sc = .die → t.rdc0 = s.rdc0 ∧ t.rdc1 = s.rdc1) ∧
    (∀ c, c ≠ core → t.core c = s.core c) ∧ t.rdc (1 - core / 192) = s.rdc (1 - core / 192)

/-- R212: a release at a scope finds nothing to write back: its scope does not reach past the die, or its die's RDC holds no
dirty byte. -/
def NothingToWriteBack (s : State) (w : Warp) (sc : Scope) : Prop :=
  sc = .core ∨ sc = .die ∨ ∀ e ∈ s.rdc (w.core / 192), e.2.dirty = 0


/-- An access to an aligned unit whose address translates to a line of HBM on the warp's own die, under a key slot. -/
def OwnUnit (s s1 : State) (w : Warp) (t : Team) (who : Waiter) (kind : AccessKind) (ad : Nat) (size : Size)
    (pa key : Nat) : Prop :=
  (∃ tier, translate s who t.ctx (some w.core) (w.core / 192) ad kind = .ok s1 (.own pa key) tier) ∧
    Config.homeDie pa = w.core / 192 ∧ pa % size.bytes = 0 ∧ pa + 16 ≤ 2 ^ 63 ∧ key < 128

/-- Every byte of HBM under a key slot, of other devices and of the host, but for a run of bytes. -/
def SameElsewhere (s t : State) (pa n key : Nat) : Prop :=
  (∀ q k, k < 128 → (k ≠ key ∨ q < pa ∨ pa + n ≤ q) → t.homeByte (.own q k) = s.homeByte (.own q k)) ∧
    (∀ d q, t.homeByte (.peer d q) = s.homeByte (.peer d q)) ∧ ∀ q, t.homeByte (.host q) = s.homeByte (.host q)

/-- R65: the new value of a unit of an integer operation, as a number below 2^bits; x is the operand and x2 what follows
it. -/
def atomicNew (op : Aop) (bits m x x2 : Nat) : Nat :=
  let sg (a : Nat) : Int := if 2 * a < 2 ^ bits then a else (a : Int) - 2 ^ bits
  match op with
  | .add => (m + x) % 2 ^ bits
  | .min => if sg x < sg m then x else m
  | .max => if sg m < sg x then x else m
  | .minn => min m x
  | .maxn => max m x
  | .and => m &&& x
  | .or => m ||| x
  | .xor => m ^^^ x
  | .exch => x
  | .cas => if m = x then x2 else m
  | .fadd => (fpAdd .f32 m x).1
  | .fmin => (fpMin .f32 m x).1
  | .fmax => (fpMax .f32 m x).1
  | .incwrap => if x ≤ m then 0 else m + 1
  | .decwrap => if m = 0 ∨ x < m then x else m - 1

/-- R65: the sizes of an operation. -/
def atomicSize (op : Aop) (size : Size) : Prop :=
  match op with
  | .add | .min | .max | .minn | .maxn | .and | .or | .xor | .cas => size = .b32 ∨ size = .b64
  | .exch => size = .b32 ∨ size = .b64 ∨ size = .b128
  | .fadd | .fmin | .fmax | .incwrap | .decwrap => size = .b32

/-- A number from bytes, the lowest first, and from words. -/
def unitOf (f : Nat → Byte) (n : Nat) : Nat := lsum (tab n fun i => (f i).toNat * 256 ^ i)
def wordsOf (f : Nat → W32) (n : Nat) : Nat := lsum (tab n fun i => (f i).toNat * 2 ^ (32 * i))

/-- R229: the lanes of an atomic, one after the other: the bytes that they leave, and the old value of each. -/
def atomicsInOrder (op : Aop) (n : Nat) (ad x x2 : Nat → Nat) : List Nat → (Nat → Byte) → (Nat → Byte) × (Nat → Nat)
  | [], f => (f, fun _ => 0)
  | l :: ls, f =>
    let m := unitOf (fun i => f (ad l + i)) n
    let new := atomicNew op (8 * n) m (x l) (x2 l)
    let r := atomicsInOrder op n ad x x2 ls fun q =>
      if ad l ≤ q ∧ q < ad l + n then BitVec.ofNat 8 (new / 256 ^ (q - ad l)) else f q
    (r.1, fun k => if k = l then m else r.2 k)

/-- The value in registers. -/
def asWords (n m : Nat) : List W32 := tab n fun k => BitVec.ofNat 32 (m / 2 ^ (32 * k))

/-- A word at which the warp is the only one to run: nothing stands before its accesses. -/
def StoreAtHead (s : State) (w : Warp) (wid : Nat) (x : Acc) (rest : List Acc) : Prop :=
  s.warp? wid = some w ∧ w.storeQ = x :: rest ∧ w.opLog = [] ∧ x.kind = .store ∧ x.ord = .plain ∧ s.bad = [] ∧
    ∀ y ∈ w.windows, y.lanes &&& ~~~y.ready = 0 ∧ y.dead = 0


/-! ## Held words -/

/-- A held word completes: the lanes that it holds, or HPC in handler mode, stand past it where no loop ends there, and `w1`
is the warp with the word's other effects. -/
def Resumes (w w' w1 : Warp) (x : Wait) : Prop :=
  let a := x.pc + x.word.len
  w' = placedAs w1 w' ∧
    ((∀ r, (if w.inh then w.hloops else w.loops).head? = some r → r.exitAddr ≠ a) →
      w'.loops = w.loops ∧ w'.lc = w.lc ∧ w'.hloops = w.hloops ∧
        if w.inh then w'.hpc = a ∧ w'.vpc = w.vpc
        else w'.hpc = w.hpc ∧ ∀ l < 32, w'.vpcOf l = if laneBit x.act l then a % 2 ^ 57 else w.vpcOf l)

/-- A warp holds a word. -/
def Holding (s : State) (wid : Nat) (w : Warp) (x : Wait) : Prop := s.warp? wid = some w ∧ w.wait = some x

/-- Every load and atomic of the warp has its value; a window that has closed still holds a lane. -/
def LoadsDone (w : Warp) : Prop :=
  ∀ x ∈ w.windows, x.lanes &&& ~~~x.ready = 0 ∧ x.dead = 0 ∧ (x.closed = true → x.lanes ≠ 0)

/-- The warp has no copy and no engine job that is not complete. -/
def NoAsyncLeft (s : State) (w : Warp) : Prop :=
  (∀ c ∈ (s.core w.core).copies, c.2.warp ≠ s.cur) ∧
    ∀ e ∈ s.streams, ∀ j ∈ e.2.jobs, j.warp = s.cur → j.complete = true

/-- R209, R236: the fence's conditions hold, with no copy to write back. -/
def FenceHolds (s : State) (w : Warp) (sc : Scope) (ord : Ord) : Prop :=
  LoadsDone w ∧ (ord = .rel ∨ ord = .acqrel → w.storeQ = [] ∧ NothingToWriteBack s w sc)

/-- What an acquiring word does to the copies of its scope. -/
def Fenced (s t : State) (w : Warp) (sc : Scope) (ord : Ord) : Prop :=
  if ord = .acq ∨ ord = .acqrel then Acquired s t w.core sc else t = s

/-- R218: an acquiring FENCEA leaves no copy from before of a line that its warp's asynchronous operations have written, in
the core's L1 nor, clean, in the die's RDC. No other copy and no memory changes. -/
def TakesGained (s t : State) (w : Warp) (ord : Ord) : Prop :=
  let gone (line : Nat) : Prop := (ord = .acq ∨ ord = .acqrel) ∧ line ∈ w.gained
  let die := w.core / 192
  t = { s with cores := t.cores, rdc0 := t.rdc0, rdc1 := t.rdc1 } ∧ SameMemory s t ∧
    (∀ line, gone line → kget? (t.core w.core).l1 line = none ∧
      ∀ r, kget? (t.rdc die) line = some r → r.full = false) ∧
    ∀ line, ¬ gone line → kget? (t.core w.core).l1 line = kget? (s.core w.core).l1 line ∧
      kget? (t.rdc die) line = kget? (s.rdc die) line


/-! ## Global accesses of lanes (10) -/

/-- Each lane's access is to an aligned unit whose address translates, with nothing changed, to a place in HBM on the warp's
own die, under a key slot. -/
def OwnUnits (s : State) (w : Warp) (t : Team) (who : Nat → Waiter) (kind : AccessKind) (ls : List Nat) (ad : Nat → Nat)
    (size : Size) (place : Nat → Nat × Nat) : Prop :=
  ∀ l ∈ ls, (∃ tier, translateLane s (who l) t.ctx w l (ad l) size.bytes kind = .ok s (.own (place l).1 (place l).2) tier) ∧
    Config.homeDie (place l).1 = w.core / 192 ∧ (place l).1 % size.bytes = 0 ∧ (place l).1 + 16 ≤ 2 ^ 63 ∧ (place l).2 < 128

/-- The lanes of a mask, ascending. -/
def lanesUp (x : LaneMask) : List Nat := (List.range 32).filter fun l => laneBit x l

/-- A place in HBM as one number: the key slot above the address. -/
def placeNum (p : Nat × Nat) : Nat := p.1 + 2 ^ 64 * p.2


/-! ## Teams, barriers and stalls (01, 13) -/

/-- R305: a named barrier of a team. -/
def barOf (t : Team) (b : Nat) : Bar := kget t.bars b ⟨0, 0⟩

/-- Warps of a team that have not exited. -/
def warpsLeft (s : State) (tid : Nat) : Nat := (s.warps.filter fun e => e.2.team == tid && !e.2.exited).length

/-- R305: BAR completes its generation with this arrival; a mode of 0 stands for ALL. -/
def generationDone (s : State) (w : Warp) (t : Team) (b m : Nat) : Prop :=
  (if m = 0 then warpsLeft s w.team else m) ≤ (barOf t b).arr + 1

/-- R307: the team scope. -/
def teamScope (t : Team) : Scope := if t.desc.pairMode then .die else .core

/-- Nothing of the warp is left to perform. -/
def AllPerformed (w : Warp) : Prop := LoadsDone w ∧ w.storeQ = []

/-- R22: two teams belong to one gang. -/
def SameGang (t u : Team) : Prop := u.launch = t.launch ∧ u.gangNum = t.gangNum

/-- R298: the scope of GBAR, and the class as a number. -/
def gangScope : GbarCls → Scope | .pavilion => .die | .die => .die | .device => .device
def gangClass : GbarCls → Nat | .pavilion => 0 | .die => 1 | .device => 2

/-- R310: a warp has arrived at GBAR, or has exited. -/
def AtGangBarrier (w : Warp) : Prop := w.exited = true ∨ ∃ x c, w.wait = some x ∧ x.kind = .gbar c

/-- R310: every other warp of every team of the gang, saved ones included, has arrived. -/
def GangArrived (s : State) (t : Team) : Prop :=
  (∀ e ∈ s.warps, e.1 ≠ s.cur → (∃ u, (e.2.team, u) ∈ s.teams ∧ SameGang t u) → AtGangBarrier e.2) ∧
    ∀ f ∈ s.frames, SameGang t f.2.team → ∀ e ∈ f.2.warps,
      e.2.exited = true ∨ (AtGangBarrier e.2 ∧ e.1 ∉ f.2.released)

/-- Scratchpad bytes of a core that teams hold (R34). -/
def spadHeld (s : State) (core : Nat) : Nat :=
  lsum (s.teams.map fun t => if t.2.cores.contains core then t.2.allot else 0)

/-- R313: the parking kinds of the waits that need nothing but the team's own warps. -/
def parkedKind : WaitKind → Option W32
  | .pushQ _ _ _ _ | .popQ _ _ _ _ _ => some 1
  | .bar _ => some 2
  | .mbinit => some 5
  | .actStore => some 6
  | .gbar _ | .mbwait _ _ _ _ _ | .sleep _ _ | .racq | .rrel | .fence | .windowClose | .mwait | .twait | .xwait | .atIssue
  | .evpost | .asdrop | .taskSlot | .commit | .fetch => none

/-- Nothing that a warp has issued is left: no window, no queued store, no request. -/
def NothingIssued (s : State) (wid : Nat) (w : Warp) : Prop :=
  w.windows = [] ∧ w.storeQ = [] ∧ (∀ r ∈ s.pri, ∀ v ∈ r.2.waiters, Waiter.ofWarp wid v = false) ∧
    ∀ r ∈ s.fab, Waiter.ofWarp wid r.2.who = false

/-- R313: every warp of a team has exited or is parked, with no copy and no matrix operation of the team, no cause to be
delivered, and the team neither halted nor being pre-empted. -/
def Parked (s : State) (tid : Nat) (t : Team) : Prop :=
  t.preempting = false ∧ t.halted = none ∧ (∀ m ∈ t.mats, m.2.ops = []) ∧
    (∀ c ∈ t.cores, ∀ k ∈ (s.core c).copies, k.2.team ≠ tid) ∧
    ∀ e ∈ s.warps, e.2.team = tid → NothingIssued s e.1 e.2 ∧ (e.2.exited = true ∨
      (e.2.pending = [] ∧ e.2.opLog = [] ∧ ∃ x, e.2.wait = some x ∧ (parkedKind x.kind).isSome))

/-- R313, R426: the condition has held for 1 ms, and no core of the team has its issue paused. -/
def ParkedForGood (s : State) (tid : Nat) (t : Team) : Prop :=
  Parked s tid t ∧ (∀ c ∈ t.cores, kget? s.paused c = none) ∧
    ∃ start, t.stuckSince = some start ∧ 1400000 ≤ (s.time - BitVec.ofNat 64 start).toNat


/-! ## Transaction barriers and system words (10, 03) -/

/-- The bound record that a warp names (R238). -/
def recordOf (t : Team) (w : Warp) (b : Nat) : Option Mbar := kget? t.mbars (w.part * 32 + b)

/-- The team with a record. -/
def withRecord (t : Team) (w : Warp) (b : Nat) (x : Mbar) : Team := { t with mbars := kput t.mbars (w.part * 32 + b) x }

/-- R239: the record after an arrival or a delivery. -/
def phased (x : Mbar) : Mbar :=
  if x.arrive = 0 ∧ x.pend = 0 then { x with phase := x.phase + 1, arrive := x.expect } else x

/-- A uniform predicate of the current mode takes a value; q7 discards it. -/
def SetsQ (w w' : Warp) (n : Nat) (b : Bool) : Prop :=
  (∀ j < 7, w'.qBit j = if j = n then b else w.qBit j) ∧ (w.inh = true → w'.q = w.q) ∧ (w.inh = false → w'.hq = w.hq) ∧
    SoundAfter w w'

/-- A warp is `w1` with only its uniform predicates changed. -/
def ButQ (w1 w' : Warp) : Prop := w' = { w1 with q := w'.q, hq := w'.hq, badRegs := w'.badRegs }

/-- R241, R242: what the other warps do when a record takes a value: one that waits on an older phase goes on with true, its
core's copies dropped by an acquire at device scope. -/
def WakesOn (s s' : State) (w : Warp) (b : Nat) (phase : W32) (completed : Prop) : Prop :=
  ∀ k v, k ≠ s.cur → s.warp? k = some v → ∃ v', s'.warp? k = some v' ∧
    ((∃ y ph qd st lim v1, completed ∧ v.team = w.team ∧ v.core = w.core ∧ v.wait = some y ∧
        y.kind = .mbwait b ph qd st lim ∧ ph ≠ phase ∧ ButQ v v1 ∧
        SetsQ v v1 qd true ∧ Resumes v v' v1 y ∧ Dropped s' v.core .device) ∨
      (v' = v ∧ ¬ ∃ y ph qd st lim, completed ∧ v.team = w.team ∧ v.core = w.core ∧ v.wait = some y ∧
        y.kind = .mbwait b ph qd st lim ∧ ph ≠ phase))

/-- R241: a word that gives a record a value: the record, the waiting warps when `wakes` holds, and nothing else of the
team. -/
def RecordBecomes (i : Instr) (s : State) (w : Warp) (t : Team) (b : Nat) (x : Mbar) (wakes : Prop) : Prop :=
  ∃ s' w', exec i s = .next s' ∧ s'.warp? s.cur = some w' ∧ GoesPast w w' i ∧
    w' = placedAs { w with prologue := false } w' ∧ s'.team? w.team = some (withRecord t w b x) ∧
    (∀ k, k ≠ w.team → s'.team? k = s.team? k) ∧ SameMemory s s' ∧ CopiesShrink s s' ∧ WakesOn s s' w b x.phase wakes

/-- R239, R241: a word that changes a record, which completes its phase when nothing is missing. -/
def ChangesRecord (i : Instr) (s : State) (w : Warp) (t : Team) (b : Nat) (x : Mbar) : Prop :=
  RecordBecomes i s w t b (phased x) (x.arrive = 0 ∧ x.pend = 0)

/-- R238: an idle barrier. -/
def Idle (s : State) (w : Warp) (b : Nat) (x : Mbar) : Prop :=
  x.arrive = x.expect ∧ x.pend = 0 ∧ x.err = false ∧
    ∀ c ∈ (s.core w.core).copies, c.2.team = w.team → c.2.bar ≠ some b

/-- R413: an event queue that is enabled, and whether it is full; one whose RIDX cannot be corrected counts as full (the
model's choice, notes/assumptions/137.md). -/
def QueueOn (q : EventQ) : Prop := q.enabled = true ∧ 4 ≤ q.logn ∧ q.logn ≤ 16
def QueueFull (s : State) (q : EventQ) : Prop :=
  s.homeBad (.own (q.base + 8) 0) 8 ≠ none ∨ (q.count + 2 ^ 64 - unitOf (fun k => s.homeByte (.own (q.base + 8 + k) 0)) 8) % 2 ^ 64 = 2 ^ q.logn
def queueOf (s : State) (n : Nat) : EventQ := kget s.events n ⟨0, false, 0, 0, false⟩

/-- R412, R413: the record of an event, and the queue after it. -/
def Posted (s s' : State) (n kind warp core : Nat) (code datum : W32) : Prop :=
  let q := queueOf s n
  let at_ := q.base + 64 + 32 * (q.count % 2 ^ q.logn)
  let fields : List (Nat × Nat × Nat) :=
    [(0, 1, kind), (1, 1, if q.lost then 1 else 0), (2, 1, warp), (3, 1, 0), (4, 4, q.count), (8, 8, s.time.toNat),
      (16, 4, code.toNat), (20, 4, datum.toNat), (24, 2, core), (26, 6, 0)]
  (∀ f ∈ fields, ∀ k < f.2.1, s'.homeByte (.own (at_ + f.1 + k) 0) = BitVec.ofNat 8 (f.2.2 / 256 ^ k)) ∧
    (∀ k < 8, s'.homeByte (.own (q.base + k) 0) = BitVec.ofNat 8 ((q.count + 1) / 256 ^ k)) ∧
    queueOf s' n = { q with count := q.count + 1, lost := false } ∧ (∀ m, m ≠ n → queueOf s' m = queueOf s m) ∧
    s' = { s with warps := s'.warps, l2 := s'.l2, bad := s'.bad, events := s'.events, regs := { s.regs with msix := s'.regs.msix } }

/-- R356: n bytes of HBM under key slot 0, as the device reads them at their home. -/
def homeNat (s : State) (a n : Nat) : Nat := unitOf (fun i => s.homeByte (.own (a + i) 0)) n

/-- R404, R409: the host error log takes a record, or counts it lost where it is disabled or full. -/
def HostLogged (s s' : State) (ctx warp core code datum : Nat) : Prop :=
  let e := s.err
  let logn := e.ctl.toNat % 32
  let room : Prop := e.ctl.getLsbD 31 = true ∧ 4 ≤ logn ∧ logn ≤ 16 ∧ e.widx < e.ridx + 2 ^ logn
  let a := e.log + 32 * (e.widx % 2 ^ logn)
  (room →
    s' = { s with
      l2 := s'.l2, bad := s'.bad, err := { e with widx := e.widx + 1 }
      regs := { s.regs with msix := kput s.regs.msix 0 (kget s.regs.msix 0 0 + 1) } } ∧
    (a + 32 ≤ 2 ^ 63 → SameElsewhere s s' a 32 0 ∧ homeNat s' a 1 = 4 ∧ homeNat s' (a + 2) 1 = warp ∧
      homeNat s' (a + 3) 1 = ctx ∧ homeNat s' (a + 4) 4 = e.widx % 2 ^ 32 ∧ homeNat s' (a + 8) 8 = s.time.toNat ∧
      homeNat s' (a + 16) 4 = code ∧ homeNat s' (a + 20) 4 = datum ∧ homeNat s' (a + 24) 2 = core)) ∧
    (¬ room → s' = { s with err := { e with lost := min (e.lost + 1) (2 ^ 32 - 1) } })


/-! ## Activation tables, BRX and TIERQ (04, 07, 16) -/

/-- A page of a core's TLB through which a context reads [a, a + n) at home, on the core's own die, under a key slot. -/
def MappedOn (s : State) (core ctx a n pa key : Nat) : Prop :=
  ∃ c e, kget? s.contexts ctx = some c ∧ c.active = true ∧ s.priDenied = [] ∧ s.fab = [] ∧ s.leases = [] ∧
    (∀ k < n, (s.core core).tlb.find? (fun e => e.covers ctx (a + k)) = some e) ∧ e.tier < 2 ∧ e.rd = true ∧
    e.key = key ∧ e.frame + (a % 2 ^ 57 - e.va) = pa ∧ e.va ≤ a % 2 ^ 57 ∧ a % 2 ^ 57 + n ≤ 2 ^ 57 ∧ key < 128 ∧
    pa % 16 = a % 16 ∧ pa + n ≤ 2 ^ 63 ∧ ∀ k < n, Config.homeDie (pa + k) = core / 192

/-- Such a page, of which the core's L1 holds no copy. -/
def MappedAtHome (s : State) (w : Warp) (t : Team) (a n pa key : Nat) : Prop :=
  MappedOn s w.core t.ctx a n pa key ∧ ∀ k < n, kget? (s.core w.core).l1 ((pa + k) / 128 * 128 + key) = none

/-- The activation store of the warp's core. -/
def storeOf (s : State) (w : Warp) : ActStore := (s.core w.core).act

/-- The bank of a number. -/
def bankOf (a : ActStore) (k : Nat) : KMap (List W32) := if k = 0 then a.bank0 else a.bank1

/-- R164 to R166: no other warp of the team on the core is loading a table. -/
def NobodyLoads (s : State) (w : Warp) : Prop :=
  ∀ e ∈ s.warps, e.1 ≠ s.cur → e.2.team = w.team → e.2.core = w.core → ∀ x, e.2.wait = some x → x.kind ≠ .atIssue

/-- R167: the segment of a number. -/
def segmentOf (v : Val) : Nat :=
  match v with
  | .nan _ _ => 0
  | .inf neg => if neg then 0 else 255
  | .fin neg m e =>
    let x : Int := (if neg then -1 else 1) * m
    (max 0 (min 255 (128 + x * 2 ^ (e + 4).toNat / 2 ^ (-(e + 4)).toNat))).toNat

/-- R381: the PSIZE of a leaf. -/
def pageCode (size : Nat) : Nat := if size = 16 then 0 else if size = 21 then 1 else if size = 30 then 2 else 3


/-! ## Tasks (14) -/

/-- The task slot of a warp. -/
def SlotOf (s : State) (w : Warp) (t : Task) (k : TaskSlot) : Prop :=
  w.task = some t ∧ kget? (s.core w.core).tasks t.slot = some k

/-- R315: a declaration that slot k may take beside the sets that a context holds. -/
def ValidSet (d : SetDecl) (sets : KMap SetDecl) (k : Nat) : Prop :=
  8 ≤ d.g ∧ d.g ≤ 20 ∧ d.base % 2 ^ d.g = 0 ∧ d.len % 2 ^ d.g = 0 ∧ d.len ≠ 0 ∧
    (d.base + d.len ≤ 2 ^ 56 ∨ (2 ^ 64 - 2 ^ 56 ≤ d.base ∧ d.base + d.len ≤ 2 ^ 64)) ∧
    ∀ e ∈ sets, e.1 ≠ k → d.base + d.len ≤ e.2.base ∨ e.2.base + e.2.len ≤ d.base

/-- No window of the current mode is open. -/
def NoOpenWindow (w : Warp) : Prop := ∀ x ∈ w.windows, x.closed = true ∨ x.handler ≠ w.inh

/-- R321: the snapshot of a warp. -/
def snapshotOf (w : Warp) : Snapshot :=
  { v := w.v, s := w.s, p := w.p, q := w.q, vpc := w.vpc, lc := w.lc, loops := w.loops, jm := w.jm, link := w.link
    fpflags := w.fpflags }

/-- The task of a warp holds no granule and no slot any more; other tasks keep theirs. -/
def TaskFreed (s s' : State) (wid : Nat) (w : Warp) (t : Task) : Prop :=
  kget? (s'.core w.core).tasks t.slot = none ∧
    (∀ j, j ≠ t.slot → kget? (s'.core w.core).tasks j = kget? (s.core w.core).tasks j) ∧
    (∀ e ∈ s'.locks, (∀ a, e.2.holder ≠ some (wid, a)) ∧ ∀ x ∈ e.2.waiters, x.1 ≠ wid) ∧
    (∀ x ∈ s'.lockWait, x.2.1 ≠ wid) ∧
    ∀ g e h a, kget? s.locks g = some e → e.holder = some (h, a) → h ≠ wid →
      ∃ e', kget? s'.locks g = some e' ∧ e'.holder = e.holder

/-- R79, R331: the windows that a rollback leaves: those that closed before the task began and owe an exited lane its
atomic. -/
def owed (w : Warp) : List Window := (w.windows.filter fun x => x.closed && x.dead != 0).map fun x => { x with lanes := 0 }

/-- R331: the warp after a rollback: the snapshot's registers, its live lanes at the TBEGIN, no window but those owed, no late
lane or JOIN wait, a restart counted and pending. -/
def RolledBack (w w' : Warp) (t : Task) (x : Snapshot) : Prop :=
  w' = { w with
    v := x.v, s := x.s, p := x.p, q := x.q, lc := x.lc, loops := x.loops, jm := x.jm, link := x.link, fpflags := x.fpflags
    windows := owed w, waitK := [], wait := none, trc := w.trc + 1, taskst := false, taskPending := true, task := none
    counted := false, vpc := w'.vpc, opLog := w'.opLog, badRegs := w'.badRegs } ∧ SoundAfter w w' ∧
    (∀ l < 32, w'.vpcOf l = if laneBit w.live l then t.beginPc % 2 ^ 57 else (x.vpc.getD l 0).toNat) ∧
    ∀ e ∈ w'.opLog, e ∈ w.opLog

/-- R318: a stamp, and R319: when one is older than another. -/
def ageStamp (time : W64) (core : Nat) : W64 := BitVec.ofNat 64 (time.toNat % 2 ^ 55 * 2 ^ 9 + core % 2 ^ 9)
def OlderStamp (a b : W64) : Prop :=
  let d := ((a.toNat / 2 ^ 9 : Int) - b.toNat / 2 ^ 9) % 2 ^ 55
  2 ^ 54 ≤ d ∨ (d = 0 ∧ a.toNat % 2 ^ 9 < b.toNat % 2 ^ 9)

/-- R320, R321, R323: the warp and the slot of a task that begins at an address. -/
def begun (s : State) (w : Warp) (wid pc k : Nat) : State × Warp :=
  let w1 := if w.taskPending then w else { w with age := ageStamp s.time w.core, trc := 0 }
  let c := s.core w.core
  (s.setCore w.core { c with
    tasks := kput c.tasks k { warp := wid, snap := snapshotOf w1, buf := [], held := [], asked := [], unsent := [] }
    lastStamp := if w.taskPending then c.lastStamp else some s.time.toNat },
   { w1 with taskst := true, taskPending := false, task := some ⟨pc, k, false⟩ })

/-- A warp is `w1` with a scalar register written. -/
def WithScalar (w1 w' : Warp) (d : Reg) (x : W32) : Prop :=
  w' = { w1 with s := w'.s, badRegs := w'.badRegs } ∧ SoundAfter w1 w' ∧
    ∀ r, w'.sr r = if r = d.toNat then x else w1.sr r

/-- R318, R320: slot k is the lowest free one, no other warp of the core waits for a slot, and a stamp can be had: the
core has handed out none in this cycle of its clock, and no lower pipe has a warp that could ask for one. -/
def SlotFree (s : State) (w : Warp) (wid k : Nat) : Prop :=
  k < 8 ∧ kget? (s.core w.core).tasks k = none ∧ (∀ j < k, kget? (s.core w.core).tasks j ≠ none) ∧
    (∀ e ∈ s.warps, e.1 ≠ wid → e.2.core = w.core → ∀ x, e.2.wait = some x → x.kind ≠ .taskSlot) ∧
    (w.taskPending = true ∨
      ((∀ t, (s.core w.core).lastStamp = some t → s.sameCycle w.core t s.time.toNat = false) ∧
        ∀ e ∈ s.warps, e.2.core = w.core → e.2.role = .epilogue → w.pipe ≤ e.2.pipe ∨ e.2.exited = true))

/-- R324: every granule of a task has been granted and the warp's accesses are performed. -/
def CommitReady (s : State) (w : Warp) (k : TaskSlot) : Prop :=
  k.asked = [] ∧ k.unsent = [] ∧ AllPerformed w ∧ s.bad = [] ∧ NothingToWriteBack s w .device

/-- R330: a granule has been granted to a warp's task: its core's copies, and its die's of the sibling die, are dropped. -/
def Granted (s s' : State) (wid : Nat) (w : Warp) (t : Task) (k : TaskSlot) (g : Nat) (waiters : List (Nat × W64)) : Prop :=
  (∃ e, kget? s'.locks g = some e ∧ e.holder = some (wid, w.age) ∧ e.waiters = waiters) ∧
    (∀ h, h ≠ g → kget? s'.locks h = kget? s.locks h) ∧
    (∃ k', kget? (s'.core w.core).tasks t.slot = some k' ∧ g ∈ k'.held ∧ (∀ h ∈ k.held, h ∈ k'.held) ∧ g ∉ k'.asked ∧
      g ∉ k'.unsent ∧ k'.buf = k.buf ∧ k'.snap = k.snap) ∧
    s'.warp? wid = some w ∧ Dropped s' w.core .device

/-- R329: the warp holds the youngest of a slice's granules that are held: with this stamp. -/
def Youngest (s : State) (slice o : Nat) (a : W64) : Prop :=
  (∃ e ∈ s.locks, e.2.slice = slice ∧ e.2.holder = some (o, a)) ∧
    ∀ e ∈ s.locks, e.2.slice = slice → ∀ p b, e.2.holder = some (p, b) → (p, b) = (o, a) ∨ (OlderStamp b a ∧ ¬ OlderStamp a b)


/-! ## Accesses inside a task (R235, R328) -/

/-- R315, R328: a byte lies in set k of the team's context, in granule g (numbered by context, set and place in the set). -/
def InSet (s : State) (t : Team) (a k g : Nat) : Prop :=
  ∃ c d, kget? s.contexts t.ctx = some c ∧ k < 16 ∧ kget? c.sets k = some d ∧ ValidSet d c.sets k ∧ d.base ≤ a ∧
    a < d.base + d.len ∧ g = granuleCode t.ctx k ((a - d.base) / 2 ^ d.g)

/-- A byte lies in no set of the team's context. -/
def InNoSet (s : State) (t : Team) (a : Nat) : Prop :=
  ∃ c, kget? s.contexts t.ctx = some c ∧ ∀ e ∈ c.sets, a < e.2.base ∨ e.2.base + e.2.len ≤ a

/-- R361: the address whose bytes a lane's access reaches: the backing address in the private window. -/
def reached (s : State) (w : Warp) (t : Team) (l a : Nat) : Nat :=
  match kget? s.contexts t.ctx with
  | some c =>
    if c.nPriv ≠ 0 ∧ c.pBase ≤ a ∧ a < c.pBase + 2 ^ c.pMaxLog2 then
      c.pBack + (32 * w.privIndex + l) * 2 ^ c.pMaxLog2 + (a - c.pBase)
    else a
  | none => a

/-- R328: the byte that a write buffer holds for an address. -/
def bufferByte (k : TaskSlot) (a : Nat) : Option Byte :=
  match kget? k.buf (a / 16) with
  | some u => if u.mask.getLsbD (a % 16) then some (u.bytes.getD (a % 16) 0) else none
  | none => none

/-- Nothing but the write buffer and the requests to be sent of one task slot of the warp's core changes. -/
def SlotBecomes (s s' : State) (w : Warp) (tk : Task) (k k' : TaskSlot) : Prop :=
  s' = { s with cores := s'.cores } ∧ (∀ c, c ≠ w.core → s'.core c = s.core c) ∧
    s'.core w.core = { s.core w.core with tasks := (s'.core w.core).tasks } ∧
    kget? (s'.core w.core).tasks tk.slot = some k' ∧
    (∀ j, j ≠ tk.slot → kget? (s'.core w.core).tasks j = kget? (s.core w.core).tasks j) ∧
    k' = { k with buf := k'.buf, unsent := k'.unsent }

/-- R328: the granules that a word touches are to be requested, each once, in ascending address, but for those that the task
holds or requests already. -/
def Requests (s : State) (t : Team) (k k' : TaskSlot) (touched : Nat → Prop) : Prop :=
  ∃ new, k'.unsent = k.unsent ++ new ∧ new.Nodup ∧
    (∀ g, g ∈ new ↔ touched g ∧ g ∉ k.held ∧ g ∉ k.asked ∧ g ∉ k.unsent) ∧
    new.Pairwise fun g h => ∃ a j b n, InSet s t a j g ∧ InSet s t b n h ∧ a < b

/-- Each of some lanes gets its translation in turn, to a tier. -/
def TranslatesEach (tr : State → Nat → Tr) (tier : Nat → Prop) : List Nat → State → State → Prop
  | [], s, s' => s' = s
  | l :: ls, s, s' => ∃ s1 loc n, tr s l = .ok s1 loc n ∧ tier n ∧ TranslatesEach tr tier ls s1 s'

/-- R235, R328: what a store of lanes X does in a task: each lane has its address, the address that it reaches, its data, and
its translation; `marks` gives TLANES. -/
def StoresInTask (i : Instr) (size : Size) (x : LaneMask) (ad ea : Nat → Nat) (data : Nat → List W32)
    (tr : State → Nat → Tr) (marks : LaneMask → LaneMask) (opcode : W32) (s : State) (w : Warp) (t : Team) (tk : Task)
    (k : TaskSlot) : Prop :=
  let ls := (List.range 32).filter fun l => laneBit x l
  let n := size.bytes
  (∀ out, out ≠ 0 → (∀ l < 32, laneBit out l = true ↔ laneBit x l = true ∧ InNoSet s t (ad l)) →
    (∀ l ∈ ls, InNoSet s t (ad l) ∨ ∃ j g, InSet s t (ad l) j g) → Traps i s w .task 0 (marks out) opcode) ∧
  ∀ set gran : Nat → Nat, (∀ l ∈ ls, InSet s t (ad l) (set l) (gran l)) →
    (∀ far l, IsLowest far l → (∀ j < 32, laneBit far j = true → laneBit x j = true) →
      (∀ j ∈ ls, ∃ loc m, tr s j = .ok s loc m ∧ (laneBit far j = true ↔ 2 ≤ m)) →
      Traps i s w .set (ad l) (marks far) (BitVec.ofNat 32 (set l))) ∧
    ∀ s1, TranslatesEach tr (· < 2) ls s s1 →
      (∀ full l, k.buf.length = 512 → IsLowest full l →
        (∀ j < 32, laneBit full j = true ↔ laneBit x j = true ∧
          (kget? k.buf (ea j / 16) = none ∨ kget? k.buf ((ea j + n - 1) / 16) = none)) →
        Traps i s w .taskCap (ad l) (marks full) 0) ∧
      ((∀ us : List Nat, us.Nodup →
          (∀ u ∈ us, kget? k.buf u = none ∧ ∃ l ∈ ls, ∃ j < n, u = (ea l + j) / 16) → k.buf.length + us.length ≤ 512) →
        ∃ s2 k', Completes i s s2 w { w with seq := w.seq + 1, prologue := false } ∧ SlotBecomes s1 s2 w tk k k' ∧
          Requests s t k k' (fun g => ∃ l ∈ ls, gran l = g) ∧
          (∀ u, kget? k'.buf u ≠ none ↔ kget? k.buf u ≠ none ∨ ∃ l ∈ ls, ∃ j < n, u = (ea l + j) / 16) ∧
          (∀ a, (∀ l ∈ ls, a < ea l ∨ ea l + n ≤ a) → bufferByte k' a = bufferByte k a) ∧
          ∀ l ∈ ls, ∀ j < n, (∀ m ∈ ls, l < m → ea l + j < ea m ∨ ea m + n ≤ ea l + j) →
            bufferByte k' (ea l + j) = some (dataByte (data l) j))

/-- R225, R328: what a load of one lane does in a task, at an address in set `set` and granule `g`. -/
def ReadsInTask (i : Instr) (size : Size) (sx : Bool) (l ad ea : Nat) (tr : Tr) (marks : LaneMask) (set g : Nat) (s : State)
    (w : Warp) (t : Team) (tk : Task) (k : TaskSlot) : Prop :=
  let opens (s' : State) (x : Window) (w' : Warp) : Prop :=
    exec i s = .next s' ∧ s'.warp? s.cur = some w' ∧ w'.windows = w.windows ++ [x] ∧ SameMemory s s' ∧ w'.v = w.v ∧ w'.s = w.s
  (g ∉ k.held → ∃ s' x w' k', opens s' x w' ∧ x.ready = 0 ∧ w'.opLog = [] ∧
    kget? (s'.core w.core).tasks tk.slot = some k' ∧ k' = { k with unsent := k'.unsent } ∧
    Requests s t k k' (fun h => h = g)) ∧
  ∀ s1 loc tier, g ∈ k.held → tr = .ok s1 loc tier →
    (∀ pa key, tier < 2 → loc = .own pa key →
      (Config.homeDie pa = w.core / 192 ∨ kget? (s.rdc (w.core / 192)) (pa / 128 * 128 + key) = none) → pa % size.bytes = 0 →
      pa + 16 ≤ 2 ^ 63 → key < 128 → ∃ s' x w', opens s' x w' ∧ laneBit x.ready l = true ∧ w'.opLog = [] ∧
      kget? (s'.core w.core).l1 (pa / 128 * 128 + key) = none ∧
      kget x.vals l [] = loaded size sx fun j => (bufferByte k (ea + j)).getD (s.homeByte (.own (pa + j) key))) ∧
    (2 ≤ tier → ∃ s' x w', opens s' x w' ∧ x.ready = 0 ∧ x.vals = [] ∧ ∃ e, w'.opLog = [e] ∧ e.source = .window x.acc.seq ∧
      e.delivered = false ∧ e.trap = ⟨.set, ad, marks, BitVec.ofNat 32 set⟩)


/-! ## Copies and jobs (11) -/

/-- R250: the copy words, each with its direction (a load or not) and its chain. -/
def copyForms (h : WarpHdr) (sd sa sb : Reg) (slot : BitVec 4) (bar : BitVec 5) (nobar : Bool) (chain : BitVec 3) :
    List (Instr × Bool × Nat) :=
  [ (.tcopy h sd sa sb slot bar nobar, true, 0), (.tstore h sd sa sb slot bar nobar, false, 0),
    (.tloadx h sd sa sb slot bar nobar chain, true, chain.toNat),
    (.tstorex h sd sa sb slot bar nobar chain, false, chain.toNat) ]

/-- R248, R251: what a copy latches at its issue. -/
def latched (w : Warp) (load : Bool) (chain : Nat) (rcd : List Byte) (sd sa sb : Reg) : Xf :=
  { load := load, chain := chain, rcd := rcd, img := (w.sr sd.toNat).toNat, tbase := srPair w sa
    c := tab (recRank rcd) fun k => (w.sr (sb.toNat + k)).toInt }

/-- R251, R256: a scratchpad line holds a byte of an image row that a load writes. -/
def touches (x : Xf) (line : Nat) : Prop :=
  ∃ r < x.rows, ∃ j < x.rb, (x.img + r * recSpitch x.rcd + j) / 128 = line

/-- R251, steps 1 to 5: nothing refuses the copy. -/
def CopyAccepted (t : Team) (w : Warp) (x : Xf) (sb : Reg) (bar : BitVec 5) (nobar : Bool) : Prop :=
  sb.toNat + recRank x.rcd ≤ 64 ∧ x.img % 16 = 0 ∧ x.tbase % 16 = 0 ∧ x.vaBad = none ∧ x.spadBad t = none ∧ x.fmtBad = none ∧
    (nobar = false → ∃ m, recordOf t w bar.toNat = some m ∧ m.err = false)

/-- R188, R251: P is cleared on lines of a part's scratchpad; operations forget what they have latched of them, and nothing
else of the team changes. -/
def Clears (t t' : Team) (part : Nat) (lines : List Nat) : Prop :=
  t' = { t with spads := t'.spads, mats := t'.mats } ∧
    (t'.mats.map fun m : Nat × MatCtx => (m.1, { m.2 with ops := m.2.ops.map fun o : MatOp => { o with latched := [] } })) =
      (t.mats.map fun m : Nat × MatCtx => (m.1, { m.2 with ops := m.2.ops.map fun o : MatOp => { o with latched := [] } })) ∧
    ∀ line, line ∈ (kget t'.spads part ⟨[], [], []⟩).absent ↔ line ∈ (kget t.spads part ⟨[], [], []⟩).absent ∨ line ∈ lines

/-- R251: the new entry of an accepted copy. -/
def Entered (w : Warp) (wid : Nat) (x : Xf) (bar : BitVec 5) (nobar : Bool) (e : Copy) : Prop :=
  e.team = w.team ∧ e.warp = wid ∧ e.part = w.part ∧ e.xf = x ∧ e.chunk = 0 ∧ e.work = Chunk.fresh ∧ e.stopped = false ∧
    e.pc = w.issueAddr ∧ e.bar = (if nobar then none else some bar.toNat) ∧
    ∀ line, line ∈ e.left ↔ x.load = true ∧ touches x line

/-- R16: an engine that runs jobs of a kind, and one of them that no job holds. -/
def EngineFree (s : State) (kind e : Nat) : Prop :=
  e < (match kind with | 1 => 16 | 2 => 8 | _ => 4) ∧
    ∀ x ∈ s.streams, ∀ i ∈ x.2.jobs, i.kind = kind → i.engine = some e → i.complete = true

/-- Copies of the warp that have not completed. -/
def copiesLeft (s : State) (w : Warp) : Nat := ((s.core w.core).copies.filter fun c => c.2.warp == s.cur).length

/-- R256: a barrier that a copy reports to takes bytes off its pending ones; the phase may complete. -/
def Credited (t t' : Team) (part : Nat) (bar : Option Nat) (n : Nat) : Prop :=
  match bar with
  | none => t'.mbars = t.mbars
  | some b => ∀ m, kget? t.mbars (part * 32 + b) = some m → -(2 ^ 23) ≤ m.pend - n →
      kget? t'.mbars (part * 32 + b) = some (phased { m with pend := m.pend - n }) ∧
      ∀ k, k ≠ part * 32 + b → kget? t'.mbars k = kget? t.mbars k

/-- R267: an earlier job and a later one that must wait for it. -/
def MustFollow (later earlier : Job) : Prop :=
  let meet (a b : List (Nat × Nat)) : Prop := ∃ x ∈ a, ∃ y ∈ b, 0 < x.2 ∧ 0 < y.2 ∧ x.1 < y.1 + y.2 ∧ y.1 < x.1 + x.2
  meet earlier.writeRegions later.readRegions ∨ meet earlier.writeRegions later.writeRegions ∨
    meet earlier.readRegions later.writeRegions

/-- A stream of a context, and a job of it by its ticket. -/
def streamOf (s : State) (ctx k : Nat) : Stream := kget s.streams (ctx * 16 + k) ⟨0, []⟩
def JobAt (s : State) (ctx k : Nat) (n : Nat) (j : Job) : Prop :=
  n < (streamOf s ctx k).jobs.length ∧ (streamOf s ctx k).jobs[n]? = some j ∧
    ∀ m i, (streamOf s ctx k).jobs[m]? = some i → i.ticket = j.ticket → m = n

/-- The stream after one of its jobs has changed. -/
def withJob (s : State) (ctx k n : Nat) (j : Job) : State :=
  let x := streamOf s ctx k
  { s with streams := kput s.streams (ctx * 16 + k) { x with jobs := x.jobs.set n j } }


/-! ## Pergolas (12) -/

/-- R275, R276: a pergola of a team; admission leaves it empty and open, at its declared depth. -/
def pergolaOf (t : Team) (q : Nat) : Pergola := kget t.pergs q ⟨0, 0, pergDepth (t.desc.perg.getD q 0), false, []⟩
def withPergola (t : Team) (q : Nat) (x : Pergola) : Team := { t with pergs := kput t.pergs q x }

/-- R275: its count. -/
def pergCount (x : Pergola) : Nat := (x.wpos.toNat + 2 ^ 32 - x.rpos.toNat) % 2 ^ 32

/-- R286: the place of a warp's word among those of one cycle: the leader's core first; copy, maths, then the pipes. -/
def turnOf (w : Warp) : Nat := 6 * w.part + (match w.role with | .copy => 0 | .maths => 1 | .epilogue => 2 + w.pipe)

/-- R286: no word that comes later in the order of this cycle of the leader's clock has reached the pergola. -/
def MayReach (s : State) (w : Warp) (t : Team) (q : Nat) : Prop :=
  ∀ e, kget? t.pergTurn q = some e → s.sameCycle (t.cores.headD 0) e.1 s.time.toNat = false ∨ e.2 ≤ turnOf w

/-- The team after a word has reached a pergola. -/
def reachedBy (s : State) (w : Warp) (t : Team) (q : Nat) : Team :=
  { t with pergTurn := kput t.pergTurn q (s.time.toNat, turnOf w) }

/-- The word traps into the handler, with the effects that `s1` has. -/
def TrapsFrom (i : Instr) (s s1 : State) (w : Warp) (c : Cause) (addr : Nat) (lanes : LaneMask) (info : W32) : Prop :=
  ∀ n, HasHandler s w n →
    exec i s = .next ((s1.dropWaiters (Waiter.ofWord s.cur)).setWarp s.cur (entered w n c addr lanes info))

/-- R224, R275, R280: the team after an entry has been appended: its line of the ring has been written. -/
def withEntry (t : Team) (q : Nat) (x : Pergola) : Team :=
  let line := (t.desc.pergBase q + 128 + 8 * ((x.wpos.toNat + 2 ^ 32 - 1) % 2 ^ 32 % x.depth)) / 128
  let sp := kget t.spads 0 ⟨[], [], []⟩
  { withPergola t q x with spads := kput t.spads 0 { sp with written := addNum sp.written line } }

/-- R280, R281: the pergola after a push of a handle, and after a pop. -/
def pushed (x : Pergola) (v : W64) : Pergola := { x with ring := kput x.ring (x.wpos.toNat % x.depth) v, wpos := x.wpos + 1 }
def popped (x : Pergola) : Pergola := { x with rpos := x.rpos + 1 }

/-- R281: the entry that a pop takes. -/
def oldest (x : Pergola) : W64 := kget x.ring (x.rpos.toNat % x.depth) 0

/-- A wait at a push to a pergola, and one at a pop from it. -/
def pushes (q : Nat) (k : WaitKind) : Prop := ∃ v rel sc, k = .pushQ q v rel sc
def pops (q : Nat) (k : WaitKind) : Prop := ∃ sd qd acq sc, k = .popQ q sd qd acq sc

/-- No word of a team waits in a way. -/
def NoneWaits (s : State) (tid : Nat) (p : WaitKind → Prop) : Prop :=
  ∀ e ∈ s.warps, e.2.team = tid → ∀ x, e.2.wait = some x → ¬ p x.kind

/-- R281: a pop's results in its warp: the entry in the pair and the predicate true, or the predicate alone, false. -/
def Took (w w1 : Warp) (sd qd : Nat) (v : W64) : Prop :=
  w1 = { w with s := w1.s, q := w1.q, hq := w1.hq, badRegs := w1.badRegs } ∧ SetsQ w w1 qd true ∧
    ∀ r, w1.sr r = if r = sd then v.lo else if r = sd + 1 then v.hi else w.sr r
def TookNone (w w1 : Warp) (qd : Nat) : Prop := ButQ w w1 ∧ SetsQ w w1 qd false

/-- The acquire of a pop (R287). -/
def PopFence (s t : State) (core : Nat) (acq : Bool) (sc : Scope) : Prop := if acq then Acquired s t core sc else t = s

/-- R384: the warp in handler mode after a cause of a word that it held. -/
def enteredFrom (x : Wait) (w : Warp) (thand : Nat) (c : Cause) (info : W32) : Warp :=
  { entered w thand c 0 (BitVec.allOnes 32) info with
    tpc := BitVec.ofNat 64 x.pc, t0 := BitVec.ofNat 64 x.pc, tact := x.act, wait := none }

/-- R286: a parked word of a pergola that can be performed. -/
def CanGo (p : Pergola) (q : Nat) (k : WaitKind) : Prop :=
  (pushes q k ∧ (p.shut = true ∨ pergCount p < p.depth)) ∨ (pops q k ∧ (p.shut = true ∨ pergCount p ≠ 0))


/-! ## The matrix unit (08) -/

/-- R177, R178, R190, R191: the matrix words, each with its scalar groups and the operation that it queues. -/
def matForms (h : WarpHdr) (sd sa sb : Reg) (fw : W32) (w : Warp) : List (Instr × List (Nat × Nat) × MatOp) :=
  let regs (r : Reg) (n : Nat) : List W32 := tab n fun k => w.sr (r.toNat + k)
  let op (kind : Nat) (fw : W32) (a b : List W32) (c : W32) : MatOp :=
    { kind := kind, pc := w.issueAddr, fw := fw, a := a, b := b, c := c, seq := w.seq, steps := 0, steps2 := 0, latched := []
      now := [], ahead := [], held := [] }
  let groups (n : Nat) : List (Nat × Nat) := [(sd.toNat, 1), (sa.toNat, n), (sb.toNat, 4)]
  [ (.mma h sd sa sb fw, groups 4, op 0 fw (regs sa 4) (regs sb 4) (w.sr sd.toNat)),
    (.mmas h sd sa sb fw, groups 5, op 1 fw (regs sa 5) (regs sb 4) (w.sr sd.toNat)),
    (.mmap h sd sa sb fw, groups 4, op 2 fw (regs sa 4) (regs sb 4) (w.sr sd.toNat)),
    (.accz h sa sb, [], op 3 0 (regs sa 1) (regs sb 1) 0),
    (.acccpy h sd sa sb, [], op 4 0 (regs sa 1) (regs sd 1) (w.sr sb.toNat)) ]

/-- R182: a scratchpad byte of an operation's regions, and a byte that no operation may touch. -/
def RegionByte (o : MatOp) (a : Nat) : Prop := ∃ r ∈ o.regions, r.1 ≤ a ∧ a < r.1 + r.2
def Forbidden (t : Team) (a : Nat) : Prop := t.allot ≤ a ∨ (t.desc.spro - t.desc.pergTotal ≤ a ∧ a < t.desc.spro)

/-- The number in n bits from a bit address on, the lowest first. -/
def bitField (f : Nat → Byte) (pos n : Nat) : Nat :=
  lsum (tab n fun k => if (f ((pos + k) / 8)).getLsbD ((pos + k) % 8) then 2 ^ k else 0)

/-- A word of an operand record. -/
def recWord (l : List W32) (k : Nat) : Nat := (l.getD k 0).toNat

/-- R179: the code of stored element e of a row. -/
def codeOf (f : Nat → Byte) (l : List W32) (width row e : Nat) : Nat :=
  bitField f (8 * (recWord l 0 + row * recWord l 1) + e * width) width

/-- R119, R128, R129, R180: the value of a stored element of group g, with its scale. -/
def elemValue (f : Nat → Byte) (l : List W32) (fmt : Nat) (sc : Bool) (k row e g : Nat) : Val :=
  let v := valOf (opFmt fmt) (codeOf f l (opWidth fmt) row e)
  if sc then
    v.scale (((l.getD 3 0).extractLsb' 0 8).toInt + bitField f (8 * (recWord l 2 + row * ceilDiv k 16 + g / 2) + 4 * (g % 2)) 4)
  else v

/-- R181: the stored element of position j of group g of row m of A; none when it is pruned. -/
def placeOf (f : Nat → Byte) (o : MatOp) (m g j : Nat) : Option Nat :=
  if o.kind = 1 then
    let byte := (f (recWord o.a 4 + m * (fwK o.fw / 8) + g)).toNat
    let rank := ((List.range j).filter byte.testBit).length
    let keep := if fwSp o.fw then 2 else 4
    if byte.testBit j ∧ rank < keep then some (g * keep + rank) else none
  else some (8 * g + j)

/-- R132, R133: the f32 code of a group's sum. -/
def groupValue (ps : List Val) : Nat :=
  if (∃ p ∈ ps, p.isNaN = true) ∨ (Val.inf true ∈ ps ∧ Val.inf false ∈ ps) then 0x7FC00000
  else if Val.inf true ∈ ps then 0xFF800000
  else if Val.inf false ∈ ps then 0x7F800000
  else (roundNE .f32 (ps.tail.foldl (fun v q => (vAdd v q).1) (ps.headD (.fin false 0 0)))).1

/-- R132 to R134: an accumulator element, of code c, after group g of row m of A and column n of B. -/
def groupAdded (f : Nat → Byte) (o : MatOp) (m n c g : Nat) : Nat :=
  if fwA o.fw = 4 then
    let s8 (x : Nat) : Int := if x < 128 then x else (x : Int) - 256
    let sum : Int := (List.range 8).foldl (fun acc j => acc + match placeOf f o m g j with
      | none => 0
      | some e => s8 (codeOf f o.a 8 m e) * s8 (codeOf f o.b 8 n (8 * g + j))) 0
    ((c + sum) % 2 ^ 32).toNat
  else (fpAdd .f32 c (groupValue (tab 8 fun j => match placeOf f o m g j with
    | none => .fin false 0 0
    | some e => (vMul (elemValue f o.a (fwA o.fw) (fwAsc o.fw) (fwK o.fw) m e g)
        (elemValue f o.b (fwB o.fw) (fwBsc o.fw) (fwK o.fw) n (8 * g + j) g)).1))).1

/-- R173: the groups of step j. -/
def stepGroups (o : MatOp) (j : Nat) : List Nat := (List.range (fwK o.fw / 8)).filter fun g => g / 16 == j

/-- R175: bytes of a row of an accumulator tile of n columns. -/
def tilePitch (n : Nat) : Nat := 4 * (32 * ((n + 31) / 32))

/-- A byte of the orangery of a maths warp on a part, and an element there. -/
def orangByte (t : Team) (part k off : Nat) : Byte := kget (kget t.orangs (2 * part + k) []) off 0
def orangElem (t : Team) (part k off : Nat) : Nat := unitOf (fun i => orangByte t part k (off + i)) 4

/-- A matrix context of a team on a core's part, with its oldest operation, which nothing holds back and of which nothing has
been read or added ahead of its step; the array is not at, and does not owe its next step to, the core's other context. -/
def MatAt (s : State) (core bank tid : Nat) (t : Team) (part k : Nat) (m : MatCtx) (o : MatOp) (os : List MatOp) : Prop :=
  findMat s core bank = some (tid, t, part, k, m) ∧ s.team? tid = some t ∧ kget? t.mats k = some m ∧ m.ops = o :: os ∧ k < 2 ∧
    part < 2 ∧ t.preempting = false ∧ s.bad = [] ∧ (∀ w, s.warp? m.warp = some w → ∀ x ∈ w.storeQ, o.seq ≤ x.seq) ∧
    o.tile.1 + o.tile.2 ≤ 2 ^ 18 ∧ o.ahead = [] ∧ o.held = [] ∧ (∀ e ∈ t.mats, ∀ x ∈ e.2.ops, x.latched = []) ∧
    o.latched = [] ∧ o.now = [] ∧ mustAlternate s core bank = false

/-- The state after the array of a core has stepped a context (R173). -/
def steppedAt (s : State) (core bank : Nat) : State := s.setCore core { s.core core with lastMat := some bank }

/-- The team after an operation has moved on: its storage and its queue are all that differ. -/
def MatMoved (s s' : State) (core bank tid : Nat) (t t' : Team) (k : Nat) (m : MatCtx) (ops : List MatOp) : Prop :=
  s' = (steppedAt s core bank).setTeam tid t' ∧
    t' = { t with spads := t'.spads, orangs := t'.orangs, mats := kput t.mats k { m with ops := ops } }

/-- R191: the destination of ACCCPY: row r begins at an address and holds bytes of elements. -/
def copyDest (o : MatOp) (r : Nat) : Nat := recWord o.b 0 + r * cpPitch o.c
def copyUnit (o : MatOp) : Nat := if cpDt o.c = 0 then 4 else 2
def copyTouches (o : MatOp) (line : Nat) : Prop :=
  ∃ r < cpM o.c, ∃ b < copyUnit o * cpN o.c, (copyDest o r + b) / 128 = line

/-- R191: what ACCCPY writes for an element of code x. -/
def copyCode (o : MatOp) (x : Nat) : Nat :=
  if cpDt o.c = 0 then x else (convert (if cpDt o.c = 1 then .bf16 else .f16) .rn false (valOf .f32 x)).1


/-! ## Contexts and translation services (15, 16) -/

/-- R420: a function of the device is ready. -/
def ReadyFor (s : State) (bit : Nat) : Prop := s.regs.ready.getLsbD bit = true


/-- R383: no rule is broken by a recovery record g, read by offset and size, of a context with this KEYMASK. Its reserved
bytes are ignored (R5). -/
def RecoveryGood (keyMask : Nat) (g : Nat → Nat → Nat) : Prop :=
  g 0x00 8 % 4 = 0 ∧ Canonical (g 0x00 8) ∧ g 0x08 8 % 4096 = 0 ∧ g 0x08 8 < Config.hbmBytes ∧ g 0x10 8 % 4096 = 0 ∧
    g 0x18 2 ≤ 4096 ∧ g 0x1A 1 < 128 ∧ keyMask.testBit (g 0x1A 1) = true ∧ (g 0x1C 4 ≤ 1000 ∨ g 0x1C 4 = 0xFFFFFFFF)

/-- R337, R383: no rule is broken by a context record f and its recovery record g, read by offset and size. -/
def RecordsGood (f g : Nat → Nat → Nat) : Prop :=
  let size := 2 ^ f 0x30 1
  (f 0x08 4 < 2 ^ 20 ∧ f 0x0C 1 < 4 ∧ f 0x0D 3 = 0 ∧ f 0x31 1 = 0 ∧ f 0x34 4 = 0 ∧ f 0x40 64 = 0) ∧ f 0x0C 1 % 2 = 1 ∧
    f 0x00 8 % 2 ^ 16 = 0 ∧ f 0x00 8 < Config.hbmBytes ∧ 16 ≤ f 0x30 1 ∧ f 0x30 1 ≤ 30 ∧ f 0x20 8 % size = 0 ∧
    Canonical (f 0x20 8) ∧ f 0x28 8 % 2 ^ 16 = 0 ∧ Canonical (f 0x28 8) ∧ f 0x38 8 % 2 ^ 16 = 0 ∧ f 0x38 8 ≤ size ∧
    RecoveryGood (f 0x10 16) g

/-- R337, R383: the context that the records describe; what the device holds of it besides stays. -/
def describes (c : Option Context) (f g : Nat → Nat → Nat) : Context :=
  { active := true, retiring := false, dptRoot := f 0x00 8, pasid := f 0x08 4, priOff := (f 0x0C 1).testBit 1
    keyMask := BitVec.ofNat 128 (f 0x10 16), pBase := f 0x20 8, pBack := f 0x28 8, pMaxLog2 := f 0x30 1, nPriv := f 0x32 2
    hwm := f 0x38 8, thand := g 0x00 8, fpool := g 0x08 8, fslot := g 0x10 8, nslot := g 0x18 2, fkey := g 0x1A 1
    pfTime := if g 0x1C 4 = 0 then 20 else g 0x1C 4
    preempted := (c.map (·.preempted)).getD false, sets := (c.map (·.sets)).getD [] }

/-- R339: nothing of a context is left to wait for. -/
def NothingLeft (s : State) (n : Nat) : Prop :=
  (∀ t ∈ s.teams, t.2.ctx ≠ n) ∧ (∀ x ∈ s.streams, x.1 / 16 = n → ∀ j ∈ x.2.jobs, j.started = true → j.complete = true) ∧
    (∀ c ∈ s.invQ ++ s.atsInv, c.ctx ≠ n ∧ c.ctx ≠ 0xFF) ∧ ∀ l ∈ s.launches, l.2.ctx ≠ n

/-- The translations that a state keeps of another: on every core and die, all but those with a property. -/
def TlbWithout (s s' : State) (p : TlbEntry → Bool) : Prop :=
  (∀ c, (s'.core c).tlb = (s.core c).tlb.filter fun e => !p e) ∧ s'.tlb0 = (s.tlb0.filter fun e => !p e) ∧
    s'.tlb1 = s.tlb1.filter fun e => !p e

/-- Two states agree on every core but for its translations. -/
def SameCores (s s' : State) : Prop := ∀ c, { s'.core c with tlb := [] } = { s.core c with tlb := [] }

/-- R269: the activation of a context of which nothing is left creates it anew: the tickets of its streams start from 0. This
is the model's choice, notes/assumptions/134.md. -/
def CreatedAnew (s : State) (n : Nat) : Prop :=
  (∀ c, kget? s.contexts n = some c → c.active = false) ∧ (∀ f ∈ s.frames, f.2.ctx ≠ n) ∧ (∀ l ∈ s.launches, l.2.ctx ≠ n) ∧
    ∀ x ∈ s.streams, x.1 / 16 = n → ∀ j ∈ x.2.jobs, j.complete = true

/-- R349: a page request of a context and a die; the Success responses that its page has had without effect. -/
def siteOf (r : PriReq) : Nat := r.ctx + 64 * r.die
def triesFor (s : State) (n page : Nat) : Nat :=
  ((s.priTries.find? fun t => t.1 == n && t.2.1 == page).map (·.2.2)).getD 0

/-- R352: an invalidation names a page. -/
def named (c : InvCmd) (e : TlbEntry) : Bool :=
  (c.ctx == 0xFF || c.ctx == e.ctx) &&
    (c.len == 0 || (decide (c.va % 2 ^ 57 < e.va % 2 ^ 57 + 2 ^ e.size) && decide (e.va % 2 ^ 57 < c.va % 2 ^ 57 + c.len)))

/-- R353: no access is on its way, and no RDC holds a byte to write back. -/
def NothingOut (s : State) : Prop := s.fab = [] ∧ (∀ e ∈ s.rdc0, e.2.dirty = 0) ∧ ∀ e ∈ s.rdc1, e.2.dirty = 0

/-- R356: a line of this device's HBM under a key slot. -/
def ofSlot (k tag : Nat) : Prop := tag < 2 ^ 64 ∧ tag % 128 = k

/-- R426: the sensors have been read: the power holds to the limit, TEMP lies at 105 °C or above while that condition holds,
and no other register has changed. -/
def Sensed (r r' : Regs) : Prop :=
  let limit := if r.vrFault || r.flowFault || r.overTemp then min 500 r.pwrcap else r.pwrcap
  r' = { r with pwrnow := r'.pwrnow, temp := r'.temp, inlet := r'.inlet, modflow := r'.modflow } ∧ r'.pwrnow ≤ limit ∧
    (if r.overTemp then 840 ≤ r'.temp else r'.temp < 840) ∧ r'.inlet < 2 ^ 16 ∧ r'.modflow < 2 ^ 16


/-! ## Launches (13) -/

/-- A page of die 0's TLB through which the device reaches [a, a + n) of a context at home, under a key slot, for reads and
writes; nothing stands in the way. -/
def DeviceMaps (s : State) (ctx a n pa key : Nat) : Prop :=
  ∃ c e, kget? s.contexts ctx = some c ∧ c.active = true ∧ s.priDenied = [] ∧ s.priTries = [] ∧ s.priGranted = [] ∧ s.fab = [] ∧ s.leases = [] ∧
    s.bad = [] ∧ (∀ k < n, s.tlb0.find? (fun e => e.covers ctx (a + k)) = some e) ∧ e.tier < 2 ∧ e.rd = true ∧
    e.wr = true ∧ e.key = key ∧ e.frame + (a % 2 ^ 57 - e.va) = pa ∧ e.va ≤ a % 2 ^ 57 ∧ a % 2 ^ 57 + n ≤ 2 ^ 57 ∧
    (a + n ≤ 2 ^ 56 ∨ (2 ^ 64 - 2 ^ 56 ≤ a ∧ a + n ≤ 2 ^ 64)) ∧ a % 16 = 0 ∧ pa % 16 = 0 ∧ pa + n ≤ 2 ^ 63 ∧ key < 128

/-- R339: a context is active and not being retired. -/
def OpenContext (s : State) (n : Nat) (c : Context) : Prop :=
  kget? s.contexts n = some c ∧ c.active = true ∧ c.retiring = false

/-- R293, R422: a queue of an open context with a packet to begin. -/
def HasPacket (s : State) (ctx queue : Nat) (q : LaunchQ) : Prop :=
  kget? s.queues (ctx * 64 + queue) = some q ∧ ReadyFor s 5 ∧ (∃ c, OpenContext s ctx c) ∧ q.ridx < q.widx

/-- R294: a field of the next packet, by offset and size. -/
def packetField (s : State) (q : LaunchQ) (off n : Nat) : Nat :=
  homeNat s (q.header + 64 + 64 * (q.ridx % 2 ^ q.logn) + off) n

/-- R295: every address of the next packet is aligned, and the packet before it is out of its way. -/
def PacketAligned (s : State) (q : LaunchQ) : Prop :=
  let p := packetField s q
  p 0x08 8 % 256 = 0 ∧ p 0x10 8 % 8 = 0 ∧ p 0x20 8 % 8 = 0 ∧ p 0x30 8 % 8 = 0 ∧ p 0x38 8 % 16 = 0
def PacketTurn (s : State) (ctx queue : Nat) (q : LaunchQ) : Prop :=
  packetField s q 1 1 % 2 = 0 ∨ ∀ l ∈ s.launches, ¬ (l.2.ctx = ctx ∧ l.2.queue = queue ∧ l.2.packet + 1 = q.ridx)

/-- R295, R296: the packet has begun: its launch, and the index of the next packet in the queue and in its header. -/
def Begun (s s' : State) (ctx queue : Nat) (q : LaunchQ) (d : Desc) (layouts : List (List Byte)) (status : Option Nat) : Prop :=
  let p := packetField s q
  s' = { s with
    stamp := s.stamp + 1, nextId := s.nextId + 1, l2 := s'.l2, contexts := s'.contexts
    queues := kput s.queues (ctx * 64 + queue) { q with ridx := q.ridx + 1, met0 := false, met1 := false }
    launches := kput s.launches s.nextId
      { ctx := ctx, queue := queue, packet := q.ridx, kdesc := p 0x08 8, prio := q.prio, order := s.stamp + 1
        since := none, sig := if p 0x30 8 % 8 = 0 then p 0x30 8 else 0
        compl := if p 0x38 8 % 16 = 0 then p 0x38 8 else 0, reading := false, work := Chunk.fresh, desc := d
        layouts := layouts, refusedSet := none, admitted := [], retired := 0, privWait := false, reserved := none
        before := none, seen := [], status := status } } ∧
    (∀ n, kget? s'.contexts n = kget? s.contexts n) ∧ SameElsewhere s s' (q.header + 8) 8 0 ∧
    homeNat s' (q.header + 8) 8 = (q.ridx + 1) % 2 ^ 64

/-- R32, R37: a core has room for a team of one core. -/
def RoomOn (s : State) (d : Desc) (core : Nat) : Prop :=
  let here := s.warps.filter fun w => w.2.core == core
  let count (r : Role) : Nat := (here.filter fun w => w.2.role == r).length
  let first := if d.spro = d.sfull then d.sfull else d.spro
  let free := 2 ^ 19 - spadHeld s core
  core < 384 ∧ core ∉ s.gated ∧ count .copy + d.ncopy ≤ 8 ∧ count .maths + d.nmaths ≤ 2 ∧ count .epilogue + d.nepi ≤ 32 ∧
    here.length + d.ncopy + d.nmaths + d.nepi ≤ 48 ∧
    lsum ((here.filter fun w => w.2.role == .epilogue).map fun w => 128 * w.2.vregs) + 128 * d.vregs * d.nepi ≤ 2 ^ 18 ∧
    first ≤ free ∧ (first < d.sfull → first + (d.sfull - d.spro) ≤ free) ∧
    (∀ t ∈ s.teams, core ∈ t.2.cores →
      t.2.parked = false ∧ (t.2.desc.gangSize = 1 → first + (t.2.desc.sfull - t.2.allot) ≤ free)) ∧
    d.nmaths ≤ ([0, 1].filter fun b => !(s.teams.any fun t => t.2.cores.contains core && t.2.mats.any fun m => m.2.bank == b)).length

/-- R38: a warp as it starts. -/
def FreshWarp (d : Desc) (tid core num : Nat) (w : Warp) : Prop :=
  let r : Role := if num < d.ncopy then .copy else if num < d.ncopy + d.nmaths then .maths else .epilogue
  let entry := match r with | .copy => d.ecopy | .maths => d.emaths | .epilogue => d.eepi
  w.team = tid ∧ w.core = core ∧ w.part = 0 ∧ w.num = num ∧ w.role = r ∧ w.vregs = (if r = .epilogue then d.vregs else 0) ∧
    (∀ l r, w.vr l r = 0) ∧ (∀ r, w.sr r = if r < 16 then d.args.getD r 0 else 0) ∧
    (∀ l, ∀ n < 7, w.pred l n = false) ∧ w.q = 0 ∧ (∀ l < 32, w.vpcOf l = entry % 2 ^ 57) ∧
    w.live = BitVec.allOnes 32 ∧ w.ready = BitVec.allOnes 32 ∧ (∀ k, kget w.lc k 0 = 0) ∧ (∀ k, kget w.jm k 0 = 0) ∧
    w.link = 0 ∧ w.fpflags = 0 ∧ w.age = 0 ∧ w.trc = 0 ∧ w.taskst = false ∧ w.windows = [] ∧ w.storeQ = [] ∧
    w.opLog = [] ∧ w.pending = [] ∧ w.wait = none ∧ w.inh = false ∧ w.tcause = 0 ∧ w.tpc = 0 ∧ w.taddr = 0 ∧
    w.tlanes = 0 ∧ w.tinfo = 0 ∧ w.loops = [] ∧ w.exited = false ∧ w.prologue = true

/-- R23: a team has nothing left: its warps have exited, its accesses, copies and matrix operations are done. -/
def TeamOver (s : State) (tid : Nat) (t : Team) : Prop :=
  (∀ w ∈ s.warps, w.2.team = tid →
    w.2.exited = true ∧ w.2.storeQ = [] ∧ w.2.windows = [] ∧ w.2.opLog = [] ∧ w.2.pending = []) ∧
    (∀ c ∈ t.cores, ∀ k ∈ (s.core c).copies, k.2.team ≠ tid) ∧ (∀ m ∈ t.mats, m.2.ops = []) ∧ t.halted = none ∧
    t.preempting = false


/-! ## Leases and the fabric (17) -/

/-- R372: the code of STATE. -/
def stateCode : LeaseState → Nat
  | .idle => 0 | .offered => 1 | .active => 2 | .reclaiming => 3 | .demoted => 4 | .ended => 5 | .failed => 6

/-- R372: a record takes a value: the device holds it (an idle one no longer), and STATE, DEADLINE, MOVED and TRECL are
written in the table; nothing else changes. -/
def LeaseSet (s s' : State) (k : Nat) (r : Lease) : Prop :=
  let a := s.regs.leasetab + 64 * k
  s' = { s with leases := s'.leases, l2 := s'.l2, bad := s'.bad } ∧ kget? s'.leases k = (if r.st = .idle then none else some r) ∧
    (∀ j, j ≠ k → kget? s'.leases j = kget? s.leases j) ∧
    (∀ f ∈ [(1, 1, stateCode r.st), (0x28, 4, r.deadline), (0x2C, 4, r.moved.length), (0x30, 8, r.trecl.toNat)], ∀ i < f.2.1,
      s'.homeByte (.own (a + f.1 + i) 0) = BitVec.ofNat 8 (f.2.2 / 256 ^ i)) ∧
    ∀ q key, key < 128 → (key ≠ 0 ∨ (q ≠ a + 1 ∧ (q < a + 0x28 ∨ a + 0x38 ≤ q))) →
      s'.homeByte (.own q key) = s.homeByte (.own q key)

/-- R373: a LEASECMD ends with a result, or is in progress. -/
def withResult (s : State) (n : Nat) : State := { s with regs := { s.regs with leaseBusy := none, leaseResult := n } }
def busyWith (s : State) (k op : Nat) : State := { s with regs := { s.regs with leaseBusy := some (k, op, s.time.toNat) } }

/-- R373: software may start an OP on a record. -/
def LeaseFree (s : State) (k : Nat) : Prop := ReadyFor s 6 ∧ s.regs.leaseBusy = none ∧ k < 64

/-- R365: the fold of a physical address. -/
def foldOf (pa : Nat) : Nat :=
  let f := pa / 2 ^ 7 % 2 ^ 21
  f % 16 ^^^ f / 2 ^ 4 % 16 ^^^ f / 2 ^ 8 % 16 ^^^ f / 2 ^ 12 % 16 ^^^ f / 2 ^ 16 % 16 ^^^ f / 2 ^ 20

/-- R365, R374, R376: a lease message to the peer goes out, on the port of its fold. -/
def Messages (s s' : State) (k : Nat) (r : Lease) (kind : Nat) : Prop :=
  let q : FabReq :=
    { who := .lease k, die := 0, dev := r.peer, pa := r.lbase, va := 0, op := .message kind
      port := s.planePort.getD (foldOf r.lbase) 0, since := s.time.toNat, tmo := s.fabricTimeout, order := s.stamp + 1
      answer := none }
  ∃ n, kget? s.fab n = none ∧ s' = { s with stamp := s.stamp + 1, fab := kput s.fab n q }

/-- R368: nothing is on the fabric, and no fold is being moved. -/
def FabricIdle (s : State) : Prop := s.fab = [] ∧ s.priGranted = [] ∧ ∀ f < 16, s.planeDrain.getD f false = false

/-- R372: a field of a record in the table. -/
def leaseField (s : State) (k off n : Nat) : Nat := homeNat s (s.regs.leasetab + 64 * k + off) n

/-- R372: the record that software has written, and whether it keeps the rules. -/
def leaseRecord (f : Nat → Nat → Nat) : Lease :=
  { lender := f 0x00 1 == 1, st := .idle, peer := f 0x02 2 % 1024, id := BitVec.ofNat 32 (f 0x04 4), lbase := f 0x08 8
    size := f 0x10 8, ctx := f 0x18 1, key := f 0x19 1 % 128, fb := (f 0x1A 1).testBit 0, fbase := f 0x20 8, deadline := 0
    trecl := 0, returning := false, stopped := false, quiesced := false, moved := [], lastMove := 0, awaited := [], unsent := none }
def LeaseGood (f : Nat → Nat → Nat) : Prop :=
  f 0x00 1 ≤ 2 ∧ f 0x02 2 ≤ 1023 ∧ f 0x1B 5 = 0 ∧ f 0x38 8 = 0 ∧ f 0x1A 1 ≤ 1 ∧ f 0x08 8 % 2 ^ 30 = 0 ∧
    f 0x08 8 < Config.hbmBytes ∧ f 0x10 8 % 2 ^ 30 = 0 ∧ f 0x10 8 ≠ 0 ∧ f 0x10 8 ≤ 384 * 2 ^ 30 ∧
    f 0x08 8 + f 0x10 8 ≤ Config.hbmBytes ∧
    (f 0x00 1 = 1 → f 0x18 1 = 0 ∧ 1 ≤ f 0x19 1 ∧ f 0x19 1 ≤ 127 ∧ f 0x1A 1 = 0) ∧
    (f 0x00 1 ≠ 1 → f 0x18 1 ≤ 63 ∧ (f 0x1A 1 = 1 →
      1 ≤ f 0x19 1 ∧ f 0x19 1 ≤ 127 ∧ f 0x20 8 % 2 ^ 21 = 0 ∧ f 0x20 8 + f 0x10 8 ≤ Config.hbmBytes))

/-- R374: DEADLINE in µs. -/
def deadlineOf (r : Lease) : Nat := 100 + (r.size + 399999) / 400000

/-- R374, R376: a line of the lender's range, at the lender or at the borrower. -/
def lentLine (r : Lease) (t : Nat) : Prop :=
  match locOfLine t with
  | .own pa _ => r.lender = true ∧ r.lbase ≤ pa ∧ pa < r.lbase + r.size
  | .peer d pa => r.lender = false ∧ d = r.peer ∧ r.lbase ≤ pa ∧ pa < r.lbase + r.size
  | .host _ => False

/-- Every core's L1 has lost the lines with a property, and nothing else. -/
def L1Without (s s' : State) (p : Nat → Prop) : Prop :=
  ∀ c, { s'.core c with l1 := [] } = { s.core c with l1 := [] } ∧
    ∀ e, e ∈ (s'.core c).l1 ↔ e ∈ (s.core c).l1 ∧ ¬ p e.1

/-- R404, R412, R413: a device source reports an event: a record, or LOST where the queue is not enabled or full; an RIDX that
cannot be corrected is reported to the host first, where the host's log lies apart from the queue. -/
def Reports (s s' : State) (n kind warp core : Nat) (code datum : W32) : Prop :=
  let q := queueOf s n
  let ridx := s.homeBad (.own (q.base + 8) 0) 8
  let lost (t : State) : State := { t with events := kput t.events n { q with lost := true } }
  (QueueOn q → ¬ QueueFull s q → q.base % 4096 = 0 → q.base + 2 ^ 22 ≤ 2 ^ 63 → Posted s s' n kind warp core code datum) ∧
    (¬ QueueOn q ∨ (ridx = none ∧ QueueFull s q) → s' = lost s) ∧
    ∀ k, QueueOn q → ridx = some k → q.base % 4096 = 0 → (s.err.log + 2 ^ 21 ≤ q.base ∨ q.base + 4096 ≤ s.err.log) →
      ∃ t, HostLogged s t n 0xFF 0xFFFF (0x100 + k) ((q.base + 8) % 2 ^ 32) ∧ s' = lost t

/-- R404: a unit that cannot be corrected is reported to the context that has consumed it and to the host. -/
def Reported (s s' : State) (n warp core kind addr : Nat) : Prop :=
  ∃ t, Reports s t n 4 warp core (BitVec.ofNat 32 (0x100 + kind)) (BitVec.ofNat 32 addr) ∧
    HostLogged t s' n warp core (0x100 + kind) (addr % 2 ^ 32)

/-- R378: the TIER_DEMOTE report of a record. -/
def Demotes (s s' : State) (k : Nat) (r : Lease) (outcome : Nat) : Prop :=
  Reports s s' r.ctx 3 0xFF 0xFFFF (BitVec.ofNat 32 (outcome * 2 ^ 8 + k)) (BitVec.ofNat 32 r.moved.length)

/-- The answer to a request from another device. -/
def answering (s : State) (dev : Nat) (served : Bool) (bytes : List Byte) : State :=
  { s with reply := some (.fabric dev (if served then .done else .refused) bytes) }

/-- R65, R229: atomics on one unit, one directly after another: the values that they find, and what the unit holds then. -/
def atomicChain (op : Aop) (bits : Nat) : Nat → List (W128 × W128) → List Nat × Nat
  | m, [] => ([], m)
  | m, x :: xs =>
    let r := atomicChain op bits (atomicNew op bits m (x.1.toNat % 2 ^ bits) (x.2.toNat % 2 ^ bits)) xs
    (m :: r.1, r.2)

/-- R7, R213, R229: a request of no warp is performed at its home: what it answers, and the state. An atomic's line leaves the
die's RDC. -/
def Performed (s s1 : State) (r : FabReq) (answer : List Byte) : Prop :=
  let line := r.pa - r.pa % 128
  s1 = { s with fabMem := s1.fabMem, freeCtr := s1.freeCtr, rdc0 := s1.rdc0, rdc1 := s1.rdc1 } ∧
    ((∀ off size op xs, r.op ≠ .atomic off size op xs) → s1.rdc0 = s.rdc0 ∧ s1.rdc1 = s.rdc1) ∧
    (r.op = .read → s1 = s ∧ answer = tab 128 fun i => s.homeByte (.peer r.dev (line + i))) ∧
    (∀ bytes, r.op = .write bytes → (bytes.map (·.1)).Nodup →
      (∀ e ∈ bytes, s1.homeByte (.peer r.dev (line + e.1)) = e.2) ∧
      ∀ d q, (∀ e ∈ bytes, d * 2 ^ 52 + q ≠ r.dev * 2 ^ 52 + line + e.1) →
        s1.homeByte (.peer d q) = s.homeByte (.peer d q)) ∧
    ∀ off size op xs, r.op = .atomic off size op xs → kget? (s1.rdc r.die) (Loc.peer r.dev line).line = none ∧
      (kget? (s.rdc r.die) (Loc.peer r.dev line).line = none → atomicSize op size →
        let n := size.bytes
        let at' (s : State) : Nat := unitOf (fun i => s.homeByte (.peer r.dev (line + off + i))) n
        let c := atomicChain op (8 * n) (at' s) xs
        answer = c.1.flatMap (fun m => tab n fun i => BitVec.ofNat 8 (m / 256 ^ i)) ∧ at' s1 = c.2)

/-- R371: a request has its answer; one that nothing waits for is over. -/
def Answers (s1 : State) (n : Nat) (r : FabReq) (a : TrapReq ⊕ List Byte) : State :=
  if r.who = .none then { s1 with fab := kdel s1.fab n } else { s1 with fab := kput s1.fab n { r with answer := some a } }

/-- R368: every request for the line of a request that was sent before it has its answer. -/
def FirstOfLine (s : State) (r : FabReq) : Prop :=
  ∀ e ∈ s.fab, e.2.dev = r.dev → e.2.pa / 128 = r.pa / 128 → e.2.order < r.order → e.2.answer = none → ∃ k, e.2.op = .message k

/-- R369: a lender's record covers a request. -/
def Covered (s : State) (dev pa n : Nat) (r : Lease) : Prop :=
  (∃ k, (k, r) ∈ s.leases) ∧ r.lender = true ∧ r.peer = dev ∧ (r.st = .active ∨ r.st = .reclaiming) ∧ r.lbase ≤ pa ∧
    pa + n ≤ r.lbase + r.size

/-- R366: the port that an entry of the remap table names, or is to name. -/
def portOf (s : State) (k : Nat) : Nat := ((s.planeNext.getD k none).getD (s.planePort.getD k 0))

/-- A request's failure: FABRIC at its address. -/
def failed (r : FabReq) (info : W32) : TrapReq ⊕ List Byte := .inl ⟨.fabric, r.dev * 2 ^ 52 + r.pa, 0, info⟩

/-- R367: the port p that entry k takes when its own is dead, by the ports that are up. -/
def SparePort (s : State) (up : BitVec 18) (k p : Nat) : Prop :=
  let free (q : Nat) : Prop := up.getLsbD q = true ∧ ∀ j < 16, portOf s j ≠ q
  let partner := portOf s (k ^^^ 8)
  (free 16 → p = 16) ∧ (¬ free 16 → free 17 → p = 17) ∧
    (¬ free 16 → ¬ free 17 → up.getLsbD partner = true ∧ p = partner)


/-! ## Pre-emption (18) -/

/-- R356: n bytes of HBM at their home under a key slot. -/
def keyedNat (s : State) (a key n : Nat) : Nat := unitOf (fun i => s.homeByte (.own (a + i) key)) n

/-- R352, R395: a 64-bit signal in HBM has one more. -/
def Signals (s s' : State) (a : Nat) : Prop :=
  s' = { s with l2 := s'.l2, bad := s'.bad } ∧ SameElsewhere s s' a 8 0 ∧ homeNat s' a 8 = (homeNat s a 8 + 1) % 2 ^ 64

/-- R383: a bit of the busy map of a frame pool takes a value. -/
def BusyBit (s s' : State) (pool key k : Nat) (v : Bool) : Prop :=
  let l : Loc := .own (pool + k / 8) key
  s' = { s with l2 := s'.l2, bad := s'.bad } ∧ SameElsewhere s s' (pool + k / 8) 1 key ∧
    ∀ b < 8, (s'.homeByte l).getLsbD b = if b = k % 8 then v else (s.homeByte l).getLsbD b

/-- R383, R395: the recovery record, read again, changes nothing: it is malformed, or holds what the device holds. -/
def RereadsSame (s : State) (n : Nat) (c : Context) : Prop :=
  let g (off size : Nat) : Nat := homeNat s (s.regs.rectab + 64 * n + off) size
  RecoveryGood c.keyMask.toNat g → c = { c with
    thand := g 0x00 8, fpool := g 0x08 8, fslot := g 0x10 8, nslot := g 0x18 2, fkey := g 0x1A 1
    pfTime := if g 0x1C 4 = 0 then 20 else g 0x1C 4 }

/-- R394: the whole-warp waits that a pre-emption keeps. -/
def keptKind : WaitKind → Bool
  | .pushQ _ _ _ _ | .popQ _ _ _ _ _ | .bar _ | .gbar _ | .racq | .sleep _ _ | .mbwait _ _ _ _ _ => true
  | .mbinit | .rrel | .fence | .windowClose | .mwait | .twait | .xwait | .atIssue | .actStore | .evpost | .asdrop | .taskSlot
  | .commit | .fetch => false

/-- R331, R332: no warp is in a task, or has one to go back to. -/
def NoTask (s : State) : Prop := ∀ e ∈ s.warps, e.2.task = none ∧ e.2.deferredRetry = none

/-- R394, steps 1 to 3, for teams without a task: they are being pre-empted, their warps have left their slots, and of
their waits only those stay that a pre-emption keeps. -/
def StopsTeams (s s' : State) (mine : Nat → Prop) (swap : Bool) : Prop :=
  s' = { s with teams := s'.teams, warps := s'.warps, cores := s'.cores } ∧
    (∀ tid t, s.team? tid = some t →
      (mine tid → s'.team? tid = some { t with preempting := true, swap := t.swap || swap } ∧
        ∀ c ∈ t.cores, ∀ k w x y, s.warp? k = some w → w.team = tid → kget? (s'.core c).slots x = some y →
          ∀ r, y.run = some r → r.1 ≠ k) ∧
      (¬ mine tid → s'.team? tid = some t)) ∧
    (∀ k w, s.warp? k = some w →
      (mine w.team → s'.warp? k = some { w with wait := w.wait.filter fun x => keptKind x.kind }) ∧
      (¬ mine w.team → s'.warp? k = some w)) ∧
    ∀ c, { s'.core c with slots := [] } = { s.core c with slots := [] }

/-- R394: nothing of a team's accesses is left to drain; no chunk of its copies and no step of its arrays is under way. -/
def Drained (s : State) (tid : Nat) (t : Team) : Prop :=
  s.fab = [] ∧ NothingOut s ∧ (∀ e ∈ s.warps, e.2.team = tid → e.2.storeQ = [] ∧ e.2.windows = []) ∧
    (∀ c ∈ t.cores, ∀ e ∈ (s.core c).copies, e.2.team = tid → e.2.midChunk = false) ∧
    ∀ m ∈ t.mats, ∀ o, m.2.ops.head? = some o → o.begun 0 = false ∧ o.begun 1 = false

/-- R383, R394: the lowest free slot of a pool. -/
def FreeSlot (s : State) (c : Context) (k : Nat) : Prop :=
  let busy (j : Nat) : Bool := (s.homeByte (.own (c.fpool + j / 8) c.fkey)).getLsbD (j % 8)
  k < c.nslot ∧ busy k = false ∧ ∀ j < k, busy j = true

/-- R398, R399: a saved frame with the allotment that its header gives. -/
def editedFrame (s : State) (f : Frame) : Frame :=
  let a := keyedNat s (f.pa + 0x20) f.key 4
  if a ≤ 2 ^ 19 then { f with team := { f.team with allot := a } } else f

/-- R397: a frame passes its check. -/
def FrameGood (s : State) (f : Frame) : Prop :=
  keyedNat s f.pa f.key 4 = 1 ∧ keyedNat s (f.pa + 0x3C) f.key 4 =
    (crc32 (f.team.deviceSections.flatMap fun e => tab e.2 fun i => s.homeByte (.own (f.pa + e.1 + i) f.key))).toNat

/-- R399, R402: the place of a warp's record in a frame. -/
def warpRecord (t : Team) (num : Nat) : Nat :=
  let part := 0xB000 + t.allot + t.desc.nmaths * t.desc.orang
  let vr := if t.desc.nepi = 0 then 0 else t.desc.vregs
  0x1000 + t.cores.length * part + num * (0x4000 + 128 * vr)

/-! ## Links, scrubbing and the peer aperture (19) -/

/-- A context is active. -/
def Active (s : State) (n : Nat) : Bool := ((kget? s.contexts n).map (·.active)).getD false

/-- R405: a unit as the storage kinds of R403 number it, and its physical address. -/
def unitKey : StoreUnit → Nat × Nat × Nat
  | .hbm pa => (1, 0, pa / 64)
  | .onChip kind owner index => (kind.toNat, owner, index)

/-- R423: a window's fields, and a request at an offset of it that is served. -/
def windowBase (x : W64) : Nat := (x.extractLsb' 21 31).toNat * 2 ^ 21
def windowKey (x : W64) : Nat := (x.extractLsb' 8 7).toNat
def LentTo (s : State) (pa n : Nat) : Prop :=
  ∃ e ∈ s.leases, e.2.lender = true ∧ (e.2.st = .active ∨ e.2.st = .reclaiming) ∧ e.2.lbase < pa + n ∧ pa < e.2.lbase + e.2.size
def WindowServes (s : State) (x : W64) (o n : Nat) (write : Bool) : Prop :=
  x.getLsbD 0 = true ∧ x.getLsbD (if write then 1 else 2) = true ∧ windowKey x ≠ 0 ∧
    (kget s.keys (windowKey x) ⟨false, []⟩).loaded = true ∧ x.extractLsb' 52 12 = 0 ∧ x.extractLsb' 15 6 = 0 ∧
    x.extractLsb' 3 5 = 0 ∧ ¬ LentTo s (windowBase x + o) n

/-! ## The machine as a whole (02, 12) -/

/-- R28: the launch of a warp finds one word alone at an address: no other stood there when its first team was admitted, and
its fetches have found no other. -/
def Unchanged (s : State) (w : Warp) (va : Nat) (l : Loc) (x : W32) : Prop :=
  ∀ launch, kget? s.launches (((s.team? w.team).map (·.launch)).getD 0) = some launch →
    (∀ m, launch.before = some m → (s.withImage m).homeBytes l 4 = bytesOfWord x) ∧ ∀ y ∈ kget launch.seen (va % 2 ^ 57) [], y = x

/-- R28, R60, R346: the bytes of an instruction, as a warp fetches them: four at each word's address, from HBM, where they
have not changed since the warp's launch began. -/
def Fetches (s : State) (wid : Nat) (w : Warp) (bs : List Byte) : Prop :=
  inHalf w.issueAddr bs.length = true ∧ ∀ j, 4 * j < bs.length →
    let va := w.issueAddr + 4 * j
    ∃ pa key tier x, pa + 4 ≤ 2 ^ 63 ∧ key < 128 ∧ (bs.drop (4 * j)).take 4 = bytesOfWord x ∧
      translate s (.fetch wid) (s.ctxOf w) (some w.core) (Config.dieOfCore w.core) va .fetch = .ok s (.own pa key) tier ∧
      s.homeBytes (.own pa key) 4 = bytesOfWord x ∧ Unchanged s w va (.own pa key) x

/-- The machine at a turn, the time gone on, with the warp out of its slot's queue. -/
def turned (s : State) (dt : Nat) (ts : List Turn) (core slot wid : Nat) (rest : List Nat) (joined : KMap Nat) (w : Warp) :
    State :=
  ((settleQueues ({ s with agenda := ts }.advance dt)).modSlot core slot fun _ => ⟨none, rest.filter (· != wid), joined⟩).setWarp
    wid w

/-- R302: the next turn is a slot's, and the warp at the head of the slot's queue has an instruction's bytes at its issue
address, and nothing that comes before it but the closes of windows: no wait, no cause. -/
def AtTurn (s : State) (dt : Nat) (ts : List Turn) (core slot wid : Nat) (late : LaneMask) (rest : List Nat)
    (joined : KMap Nat) (w : Warp) (bs : List Byte) (i : Instr) : Prop :=
  let s1 := settleQueues ({ s with agenda := ts }.advance dt)
  s.agenda = ⟨dt, .issue core slot late⟩ :: ts ∧ coreStopped s1 core = false ∧ (∀ e ∈ s1.warps, retries s1 e.2 = false) ∧
    kget (s1.core core).slots slot ⟨none, [], []⟩ = ⟨none, wid :: rest, joined⟩ ∧ s1.warp? wid = some w ∧ w.wait = none ∧
    w.pending = [] ∧ w.opLog = [] ∧ (w.inh = true ∨ w.ready ≠ 0) ∧
    let s2 := turned s dt ts core slot wid rest joined w
    s2.bad = [] ∧ Fetches s2 wid w bs ∧ decode bs = .ok (i, [])

/-- R42: what the turn of a slot leaves of an answer: the slot takes or ends the run, and the turn settles (`settleTurn`: full
caches, stalls, heads of the offering order, waits at issue, queues). -/
def turnEnds (core slot wid : Nat) (w : Warp) (i : Instr) (o : Out) : Out :=
  mapOut (fun s' => settleTurn (s'.modSlot core slot fun x =>
    { x with run := (runsOn s' wid w (firstWord i) (.instr i i.len) 1).map fun a => (wid, 1, a) })) o

/-- R43, R44: the destination of a window takes the values of some of its lanes. -/
def Delivers (w w' : Warp) (x : Window) (here : LaneMask) : Prop :=
  let value (l k : Nat) : W32 := (kget x.vals l []).getD k 0
  match x.dest with
  | .lanes vd n => w'.s = w.s ∧ w'.q = w.q ∧ ∀ l < 32, ∀ r, w'.vr l r =
      if laneBit here l ∧ vd ≤ r ∧ r < vd + n ∧ laneBit (kget x.skip r 0) l = false then value l (r - vd) else w.vr l r
  | .scalar sd n => w'.v = w.v ∧ w'.q = w.q ∧
      ∀ r, w'.sr r = if sd ≤ r ∧ r < sd + n then value 0 (r - sd) else w.sr r
  | .capq sd qk v known => w'.v = w.v ∧ (∀ r, w'.sr r = if r = sd then v else w.sr r) ∧
      ∀ n < 7, w'.qBit n = if n = qk then known else w.qBit n

/-- R43, R44: what becomes of another window when the window x closes for some lanes at an instruction: an open one has
counted the instruction, and one that closed earlier no longer writes what x has written (for closes at different words the
model's choice, notes/assumptions/142.md). -/
def Beside (x : Window) (here : LaneMask) (y y' : Window) : Prop :=
  let writes (z : Window) (r : Nat) : Prop := ∃ vd n, z.dest = .lanes vd n ∧ vd ≤ r ∧ r < vd + n
  (y.closed = false → y' = { y with count := if y.handler then y.count else y.count + 1 }) ∧
    (y.closed = true → y' = { y with skip := y'.skip } ∧ ∀ r, ∀ l < 32, laneBit (kget y'.skip r 0) l = true ↔
      laneBit (kget y.skip r 0) l = true ∨ (writes x r ∧ writes y r ∧ laneBit here l = true))

/-! ## Parts of the statements -/

/-- R144, R145: outside handler mode every integer lane word writes its exact result, modulo 2^32 or 2^64, in the lanes of
X, and changes nothing else. -/
def IntegerLaneWordsGiveExactResults : Prop :=
  ∀ h d a b c imm u, ∀ row ∈ integerRows h d a b c imm u, ∀ s w, row.Ready s w → w.inh = false → row.Runs s w

/-- R146 to R149, R152 (P2V): the logic, bit-field and move words. -/
def LogicLaneWordsGiveTheirBits : Prop :=
  ∀ h d a b c len pos sg imm lut sx zm bsel ps which, len.toNat ≤ 32 → which.toNat ≤ 6 →
    ∀ row ∈ lspecRow h d which :: logicRows h d a b c len pos sg imm lut sx zm bsel ps,
      ∀ s w, row.Ready s w → w.inh = false → row.Runs s w

/-- R71, R153 to R162: outside handler mode a floating-point, packed or conversion lane word completes whatever its registers
hold, where they are inside the warp's allotment. -/
def FloatLaneWordsComplete : Prop :=
  ∀ (h : LaneHdr) (d a b c : Reg) (rmode : Rm) (dt st : Ty) (sat : Bool) (idx : BitVec 2) (s : State) (w : Warp),
    s.warp? s.cur = some w → w.role = .epilogue → w.inh = false → d.toNat + 2 ≤ w.vregs → a.toNat + 4 ≤ w.vregs →
    b.toNat < w.vregs → c.toNat < w.vregs →
    let completes (i : Instr) : Prop := MayEndHere w i → ∃ w', exec i s = .next (s.setWarp s.cur w') ∧ GoesPast w w' i
    (∀ i ∈ [Instr.fadd h d a b, .fsub h d a b, .fmul h d a b, .ffma h d a b c, .fmin h d a b, .fmax h d a b,
      .fmed3 h d a b c, .fclamp h d a b c, .frnd h d a rmode, .fabs h d a, .fneg h d a, .frcp h d a, .frsq h d a, .fsqrt h d a,
      .fdiv h d a b, .fexp2 h d a, .flog2 h d a, .fsin h d a, .fcos h d a, .ftanh h d a, .hadd2 h d a b, .hsub2 h d a b,
      .hmul2 h d a b, .hfma2 h d a b c, .hmin2 h d a b, .hmax2 h d a b, .hmed3 h d a b c, .hclamp2 h d a b c, .badd2 h d a b,
      .bmul2 h d a b, .bfma2 h d a b c, .bmin2 h d a b, .bmax2 h d a b, .cvt h d a dt st rmode sat], completes i) ∧
    (sixteenBits dt → completes (.pack2 h d a b dt rmode sat)) ∧ (eightBits dt → completes (.pack4 h d a dt rmode sat)) ∧
    (sixteenBits dt → idx.toNat < 2 → completes (.unpack h d a idx dt)) ∧ (eightBits dt → completes (.unpack h d a idx dt)) ∧
    (narrowFmt dt ≠ none → completes (.qb8 h d a b dt))

/-- R153 to R162: the floating-point, packed and conversion lane words complete outside handler mode: each executing lane gets
the value of the model's functions for their rules, whose flags are added, and nothing else changes. The transcendental
functions are the model's enclosures (notes/assumptions/32.md). -/
def FloatAndConversionWordsGiveTheirFunctions : Prop :=
  ∀ h d a b c rmode dt st sat idx1 idx2 s w, w.inh = false →
    (∀ row ∈ floatRows h d a b c rmode ++ packedRows h d a b c ++ [cvtRow h d a dt st rmode sat],
      row.Ready s w → row.Runs s w) ∧
    (sixteenBits dt → ∀ row ∈ halfRows h d a b dt rmode sat idx1, row.Ready s w → row.Runs s w) ∧
    (eightBits dt → ∀ row ∈ byteRows h d a dt rmode sat idx2, row.Ready s w → row.Runs s w) ∧
    ∀ f, narrowFmt dt = some f → (qb8Row h d a b dt f).Ready s w → (qb8Row h d a b dt f).Runs s w

/-- R118 to R120, R125, R126: the model's one rounding function is Convert: a finite value goes to its place in the format's
grid, by the mode, with NX where that is another value, UF where it was tiny as well, and OF and NX beyond the largest finite
value, whose result the mode and the saturation choose. Zeros keep their sign, and infinities and NaNs go to their codes. -/
def ConvertRoundsToTheGrid : Prop :=
  ∀ (f : Fmt) (md : Rm) (sat : Bool),
    let (_, mb, _, top) := formatRow f
    let small : Prop := f = .e3m2 ∨ f = .e2m3 ∨ f = .e2m1
    (∀ neg e, convert f md sat (.fin neg 0 e) = (signedCode f neg 0, 0)) ∧
    (∀ neg, convert f md sat (.inf neg) =
      if f ≠ .e4m3 ∧ ¬ small ∧ sat = false then (signedCode f neg (infiniteCode f), 0)
      else if f = .e4m3 ∧ sat = false then (signedCode f neg 0x7F, 16#5) else (signedCode f neg top, 1#5)) ∧
    (∀ neg sig, convert f md sat (.nan neg sig) =
      if small then (signedCode f neg top, 16#5) else (nanCode f, if sig then 16#5 else 0#5)) ∧
    ∀ (K : Nat) (neg : Bool) (m : Nat) (e : Int), 200 ≤ K → m ≠ 0 → -(K : Int) ≤ e →
      let x := m * 2 ^ (e + K).toNat
      let away : Prop := md = .rn ∨ (md = .rp ∧ neg = false) ∨ (md = .rm ∧ neg = true)
      ∃ n, RoundsTo f md neg K x n ∧
        (convert f md sat (.fin neg m e)).1 =
          (if top < n then
            if ¬ away ∨ sat = true ∨ small then signedCode f neg top
            else signedCode f neg (if f = .e4m3 then 0x7F else infiniteCode f)
          else signedCode f neg n) ∧
        (convert f md sat (.fin neg m e)).2 = (if gridValue f K n ≠ x then 1#5 else 0#5) |||
          (if gridValue f K n ≠ x ∧ x < gridValue f K (2 ^ mb) then 2#5 else 0#5) ||| (if top < n then 5#5 else 0#5)

/-- R118 to R120, R154: a code's value is that of its sign, exponent and mantissa, or the special that its format gives it; a
sum, a product and a fused multiply-add of finite values are exact before their one rounding, and an exact zero has the sign
that IEEE 754 gives it. -/
def ArithmeticIsExactBeforeItsRounding : Prop :=
  ∀ (f : Fmt) (K : Nat), 200 ≤ K →
    let (eb, mb, _, top) := formatRow f
    let half := 2 ^ (eb + mb)
    let number (c : Nat) (neg : Bool) (m : Nat) (e : Int) : Prop := valOf f c = .fin neg m e
    let rounds (r : Nat × Fl) (J : Nat) (exact : Int) (zero : Bool) : Prop := ∃ neg m e, -(J : Int) ≤ e ∧
      r = convert f .rn false (.fin neg m e) ∧ scaledBy J neg m e = exact ∧ (m = 0 → neg = zero)
    (∀ c < 2 * half,
      let n := c % half
      let neg := decide (half ≤ c)
      (n ≤ top → ∃ m e, number c neg m e ∧ -(K : Int) ≤ e ∧ m * 2 ^ (e + K).toNat = gridValue f K n) ∧
      (top < n → f = .e4m3 → valOf f c = .nan neg false) ∧
      (top < n → f ≠ .e4m3 →
        valOf f c = if n = infiniteCode f then .inf neg else .nan neg (decide (n % 2 ^ mb < 2 ^ (mb - 1))))) ∧
    ∀ (a b c : Nat) (na nb nc : Bool) (ma mb mc : Nat) (ea eb ec : Int), number a na ma ea → number b nb mb eb →
      number c nc mc ec →
      let va := scaledBy K na ma ea
      let vb := scaledBy K nb mb eb
      rounds (fpAdd f a b) K (va + vb) (na && nb) ∧ rounds (fpSub f a b) K (va - vb) (na && !nb) ∧
        rounds (fpMul f a b) (2 * K) (va * vb) (na != nb) ∧
        rounds (fpFma f a b c) (2 * K) (va * vb + scaledBy K nc mc ec * 2 ^ K) ((na != nb) && nc)

/-- R88, R89, R135, R136, R150 to R152, R156, R163: the words that read other lanes, and those that write predicates.
REDUCE and SCAN of NaNs rest on the model's readings (notes/assumptions/123.md and 155.md). -/
def CrossLaneAndPredicateWordsGiveTheirLanes : Prop :=
  ∀ h d a b nw imm b5 seg mode psn ps op pdf pdt pa pb pc bop cond lut m7 m10 s w, w.inh = false → seg.toNat ≤ 5 →
    (nw = true → mode = .rotd ∨ mode = .rotu) →
    ∀ row ∈ crossLaneRows h d a b nw imm b5 seg mode psn ps op ++
        predicateRows h d a b psn ps pdf pdt pa pb pc bop cond lut m7 m10, row.Ready s w → row.Runs s w

/-- R90, R91, R92: RDLANE, WRLANE and VPCGET, in either mode. Outside handler mode the value that VPCGET gives in each lane
of X is its own address. VPCSET runs in handler mode alone: each live lane of X
takes its target and leaves any JOIN wait. -/
def LaneMoveWordsRunInEitherMode : Prop :=
  ∀ h d a sl lsrc lane s w,
    (∀ row ∈ laneMoveRows h d a sl lsrc lane, row.Ready s w → row.Runs s w) ∧
    (w.inh = false → ∀ l < 32, laneBit (w.exec h) l = true →
      BitVec.ofInt 64 (BitVec.ofNat 57 (w.vpcOf l)).toInt = BitVec.ofNat 64 w.issueAddr) ∧
    (s.warp? s.cur = some w → w.role = .epilogue → a.toNat + 2 ≤ w.vregs → w.inh = true →
      (∀ l < 32, laneBit (w.exec h) l = true → GoodTarget (w.vr64 l a.toNat).toNat) →
      MayEndHere w (.vpcset h a) → ∃ w', exec (.vpcset h a) s = .next (s.setWarp s.cur w') ∧
        w' = { placedAs w w' with waitK := w'.waitK } ∧ w'.loops = w.loops ∧ w'.lc = w.lc ∧
        (∀ k, kget w'.waitK k 0 = kget w.waitK k 0 &&& ~~~(w.exec h &&& w.live)) ∧
        ∀ l < 32, w'.vpcOf l =
          if laneBit (w.exec h) l ∧ laneBit w.live l then (w.vr64 l a.toNat).toNat % 2 ^ 57 else w.vpcOf l)

/-- R60, R76, R77: LBRA and LBRX move each lane of X to its target and the other active lanes past the word. A target that
is not a multiple of 4 in some lane of X raises ALIGN, else one that is not canonical VA_RANGE, and no lane moves. TINFO =
0 of VA_RANGE is the model's choice (notes/assumptions/22.md). -/
def LaneBranchesMoveTheirLanes : Prop :=
  ∀ (h : LaneHdr) (off : BitVec 18) (va : Reg) (s : State) (w : Warp), IssuesLane s w →
    (w.exec h ≠ 0 → ¬ Reaches w off → Traps (.lbra h off) s w .vaRange (relative w off) (w.exec h) 0) ∧
    (¬ EndsLoop w (.lbra h off) → (w.exec h ≠ 0 → Reaches w off) →
      Branches (.lbra h off) s w w fun l => if laneBit (w.exec h) l then relative w off else w.issueAddr + 4) ∧
    (va.toNat + 2 ≤ w.vregs → ¬ EndsLoop w (.lbrx h va) →
      let t (l : Nat) := (w.vr64 l va.toNat).toNat
      let off4 := lanesWith (w.exec h) fun l => decide (t l % 4 ≠ 0)
      let far := lanesWith (w.exec h) fun l => decide (¬ Canonical (t l))
      ((∀ l < 32, laneBit (w.exec h) l = true → GoodTarget (t l)) →
        Branches (.lbrx h va) s w w fun l => if laneBit (w.exec h) l then t l else w.issueAddr + 4) ∧
      (∀ l, IsLowest off4 l → Traps (.lbrx h va) s w .align (t l) off4 2) ∧
      (∀ l, off4 = 0 → IsLowest far l → Traps (.lbrx h va) s w .vaRange (t l) far 0))

/-- R41, R60, R76, R78: BRA, CALL and RET move every active lane, or HPC in handler mode, when the guard is true, and go
past the word when it is false. CALL writes LINK first. A target that is not canonical raises VA_RANGE, and so does a
relative one past the top; RET checks LINK. TINFO = 0 of VA_RANGE is the model's choice (notes/assumptions/22.md), and so
is that a target does not wrap (19.md). -/
def WarpBranchesMoveTheWarp : Prop :=
  ∀ (h : WarpHdr) (off : BitVec 18) (s : State) (w : Warp), s.warp? s.cur = some w → w.wait = none →
    let reaches : Prop := w.qGuard h = true → Reaches w off
    (w.qGuard h = true → ¬ Reaches w off → ∀ i ∈ [Instr.bra h off, .call h off],
      Traps i s w .vaRange (relative w off) (BitVec.allOnes 32) 0) ∧
    (¬ EndsLoop w (.bra h off) → reaches →
      Branches (.bra h off) s w w fun _ => if w.qGuard h then relative w off else w.issueAddr + 4) ∧
    (¬ EndsLoop w (.call h off) → reaches →
      Branches (.call h off) s w (if w.qGuard h then { w.soundSr 0x20 with link := BitVec.ofNat 64 (w.issueAddr + 4) } else w)
        fun _ => if w.qGuard h then relative w off else w.issueAddr + 4) ∧
    (¬ EndsLoop w (.ret h) → (w.qGuard h = true → GoodTarget w.link.toNat) →
      Branches (.ret h) s w w fun _ => if w.qGuard h then w.link.toNat else w.issueAddr + 4) ∧
    (¬ EndsLoop w (.ret h) → w.qGuard h = true → w.link.toNat % 4 ≠ 0 →
      Traps (.ret h) s w .align w.link.toNat (BitVec.allOnes 32) 2) ∧
    (¬ EndsLoop w (.ret h) → w.qGuard h = true → w.link.toNat % 4 = 0 → ¬ Canonical w.link.toNat →
      Traps (.ret h) s w .vaRange w.link.toNat (BitVec.allOnes 32) 0)

/-- R86: the end test after the end instruction of a loop, here a NOP: the innermost records that share its exit address close
while each has no more than one iteration left, and their counters are 0. A record with more that shares the address starts
again, one fewer left; otherwise the warp falls through. In handler mode the test is that of the handler's own records, and
asks nothing of LIVE (the model's choice, notes/assumptions/121.md). -/
def LoopEndTestCountsDown : Prop :=
  ∀ (h : WarpHdr) (s : State) (w : Warp) (closing rest : List LoopRec), s.warp? s.cur = some w → w.wait = none →
    let addr := w.issueAddr + 4
    (∀ r ∈ closing, r.exitAddr = addr) →
    let runs (w' : Warp) : Prop := exec (.nop h) s = .next (s.setWarp s.cur w') ∧ w' = placedAs w w'
    (w.inh = false → w.loops = closing ++ rest → (w.role = .epilogue → w.active = w.live) →
      (∀ d, rest.length ≤ d → d < w.loops.length → (kget w.lc d 0).toNat ≤ 1) →
      let left (d : Nat) : W32 := if rest.length ≤ d ∧ d < w.loops.length then 0 else kget w.lc d 0
      let stands (w' : Warp) (a : Nat) : Prop := w'.hpc = w.hpc ∧ w'.hloops = w.hloops ∧
        ∀ l < 32, w'.vpcOf l = if laneBit w.active l then a % 2 ^ 57 else w.vpcOf l
      ((∀ r, rest.head? = some r → r.exitAddr ≠ addr) →
        ∃ w', runs w' ∧ w'.loops = rest ∧ stands w' addr ∧ ∀ d, kget w'.lc d 0 = left d) ∧
      ∀ r more, rest = r :: more → r.exitAddr = addr → 1 < (kget w.lc more.length 0).toNat →
        ∃ w', runs w' ∧ w'.loops = rest ∧ stands w' r.start ∧
          ∀ d, kget w'.lc d 0 = if d = more.length then kget w.lc d 0 - 1 else left d) ∧
    (w.inh = true → w.hloops = closing ++ rest → (∀ r ∈ closing, r.count.toNat ≤ 1) →
      let stands (w' : Warp) (a : Nat) : Prop := w'.hpc = a ∧ w'.vpc = w.vpc ∧ w'.loops = w.loops ∧ w'.lc = w.lc
      ((∀ r, rest.head? = some r → r.exitAddr ≠ addr) → ∃ w', runs w' ∧ w'.hloops = rest ∧ stands w' addr) ∧
      ∀ r more, rest = r :: more → r.exitAddr = addr → 1 < r.count.toNat →
        ∃ w', runs w' ∧ w'.hloops = { r with count := r.count - 1 } :: more ∧ stands w' r.start)

/-- R74, R86: a branch, CALL, RET, LBREAK, LOOP, LOOPI, EXIT, LEXIT, JOIN, TRAP or TRET at the end of a loop raises LOOP
with the depth and has no other effect, whatever its guard, after a cause of its target (R74). In handler mode that is
DOUBLE. -/
def ForbiddenLoopEndsTrap : Prop :=
  ∀ (h : WarpHdr) (lh : LaneHdr) (off : BitVec 18) (a b : Reg) (n count : BitVec 16) (lend : BitVec 14) (k : BitVec 3)
    (code : BitVec 18) (s : State) (w : Warp), s.warp? s.cur = some w →
    let depth : W32 := BitVec.ofNat 32 (loopDepth w)
    let raises (i : Instr) (lanes : LaneMask) : Prop :=
      EndsLoop w i → Traps i s w .loop 0 lanes depth ∧ Doubles i s w .loop 0 lanes depth
    let target := w.qGuard h = true → Reaches w off
    (∀ e ∈ ([(.bra h off, target), (.call h off, target), (.lbreak h off, target),
        (.ret h, w.qGuard h = true → GoodTarget w.link.toNat), (.loop h a lend, Canonical (w.issueAddr + 4 * lend.toNat)),
        (.loopi h count lend, Canonical (w.issueAddr + 4 * lend.toNat)), (.trap h code, True),
        (.exit h, w.inh = false), (.tret h, w.inh = true ∧ (w.qGuard h = true → GoodTarget w.tpc.toNat)),
        (.brx h a b n, a.toNat + 2 ≤ 64 ∧ w.qGuard h = false)] : List (Instr × Prop)), e.2 → raises e.1 (BitVec.allOnes 32)) ∧
    (∀ t s1 pa key, InTeam s w t → s.bad = [] → s.fab = [] → a.toNat + 2 ≤ 64 → NothingBefore w →
      let entryAt := srPair w a + 4 * min (w.sr b.toNat).toNat n.toNat
      let target := (w.issueAddr : Int) + (BitVec.ofNat 32 (unitOf (fun q => s.homeByte (.own (pa + q) key)) 4) : W32).toInt
      srPair w a % 4 = 0 → InSpace t .glob entryAt 4 → OwnUnit s s1 w t (.word s.cur 0) .read entryAt .b32 pa key →
      kget? (s.core w.core).l1 (pa / 128 * 128 + key) = none → 0 ≤ target → GoodTarget target.toNat →
      raises (.brx h a b n) (BitVec.allOnes 32)) ∧
    (w.role = .epilogue → w.inh = false →
      (w.exec lh ≠ 0 → Reaches w off) → a.toNat + 2 ≤ w.vregs →
      (∀ l < 32, laneBit (w.exec lh) l = true → GoodTarget (w.vr64 l a.toNat).toNat) →
      ∀ i ∈ [Instr.lbra lh off, .lbrx lh a, .lexit lh, .join lh k], raises i (w.exec lh))

/-- R86: in an epilogue warp whose active mask is not LIVE, the end instruction of a loop raises LOOP. -/
def DivergedLoopEndTraps : Prop :=
  ∀ (h : WarpHdr) (s : State) (w : Warp), s.warp? s.cur = some w → w.role = .epilogue → w.active ≠ w.live →
    EndsLoop w (.nop h) → Traps (.nop h) s w .loop 0 (BitVec.allOnes 32) (BitVec.ofNat 32 w.loops.length)

/-- R81, R82: JOIN parks the lanes of X that its mask names and passes the others; when no lane of the mask is left that is
ready or parked on late data, the waiters go on and leave the mask. -/
def JoinParksUntilItsMaskArrives : Prop :=
  ∀ (h : LaneHdr) (k : BitVec 3) (s : State) (w : Warp), IssuesLane s w →
    (¬ EndsLoop w (.join h k) →
      let stay := w.exec h &&& kget w.jm k.toNat 0
      let ws := joinWaiters w (w.exec h) k.toNat
      let waiting := ∃ l < 32, laneBit (kget w.jm k.toNat 0) l = true ∧ laneBit w.live l = true ∧ laneBit ws l = false ∧
        (laneBit w.ready l = true ∨ laneBit w.lateLanes l = true)
      ∃ w', exec (.join h k) s = .next (s.setWarp s.cur w') ∧ w' = { placedAs w w' with jm := w'.jm, waitK := w'.waitK } ∧
        w'.loops = w.loops ∧ w'.lc = w.lc ∧ w'.hpc = w.hpc ∧ w'.hloops = w.hloops ∧
        (∀ j, j ≠ k.toNat → kget w'.jm j 0 = kget w.jm j 0 ∧ kget w'.waitK j 0 = kget w.waitK j 0) ∧
        (ws = 0 ∨ waiting → kget w'.jm k.toNat 0 = kget w.jm k.toNat 0 ∧ kget w'.waitK k.toNat 0 = ws ∧
          ∀ l < 32, w'.vpcOf l =
            if laneBit w.active l ∧ ¬ laneBit stay l then (w.issueAddr + 4) % 2 ^ 57 else w.vpcOf l) ∧
        (ws ≠ 0 → ¬ waiting → kget w'.jm k.toNat 0 = kget w.jm k.toNat 0 &&& ~~~ws ∧ kget w'.waitK k.toNat 0 = 0 ∧
          ∀ l < 32, w'.vpcOf l =
            if laneBit ws l then (w.vpcOf l + 4) % 2 ^ 57
            else if laneBit w.active l then (w.issueAddr + 4) % 2 ^ 57 else w.vpcOf l))

/-- R54, R93: SRD writes sd, or its pair, with the special register at its index, in the modes that R54 gives. -/
def SrdReadsTheSpecialRegisters : Prop :=
  ∀ (h : WarpHdr) (sd : Reg) (idx : BitVec 8) (s : State) (w : Warp) (t : Team), Issues s w h → InTeam s w t →
    MayEndHere w (.srd h sd idx) → (0x30 ≤ idx.toNat → w.inh = true) →
    ∀ v, (idx.toNat, v) ∈ specialValues s w t →
      (¬ isPairIndex idx.toNat → ({ word := .srd h sd idx, hdr := h, reg := putS sd fun _ => wordOf v 0 } : WarpRow).Runs s w) ∧
      (isPairIndex idx.toNat → sd.toNat < 63 →
        ({ word := .srd h sd idx, hdr := h, reg := putSPair sd fun _ => v } : WarpRow).Runs s w)

/-- R52 to R54, R93: SWR writes the special register at its index, the bits it does not implement staying 0; SRD then reads
that value there, and every other index as before. TPC keeps bits [56:0], copied up from bit 56. -/
def SwrWritesOneSpecialRegister : Prop :=
  ∀ (h : WarpHdr) (ss : Reg) (idx : BitVec 8) (s : State) (w : Warp) (t : Team), Issues s w h → InTeam s w t →
    ¬ EndsLoop w (.swr h idx ss) → (isPairIndex idx.toNat → ss.toNat < 63) →
    let x := if isPairIndex idx.toNat then srPair w ss else (w.sr ss.toNat).toNat
    (∀ m, WritableMask w idx.toNat m → ∃ w', exec (.swr h idx ss) s = .next (s.setWarp s.cur w') ∧ OnlySpecials w w' ∧
      MovedTo w { w' with lc := w.lc } (fun _ => w.issueAddr + 4) ∧
      ∀ j v, (j, v) ∈ specialValues s w t →
        (j, if j = idx.toNat then BitVec.ofNat 64 (x &&& m) else v) ∈ specialValues s w' t) ∧
    (w.inh = true → idx.toNat = 0x31 → ∃ w', exec (.swr h idx ss) s = .next (s.setWarp s.cur w') ∧
      MovedTo w w' (fun _ => w.issueAddr + 4) ∧
      w' = { placedAs w w' with tpc := BitVec.ofNat 64 (canon57 x), badRegs := w'.badRegs })

/-- R55, R94: CLK writes the device time counter into its pair, and NOP does nothing. With a false guard neither does. -/
def ClkReadsTheTimeCounter : Prop :=
  ∀ (h : WarpHdr) (sd : Reg) (s : State) (w : Warp),
    ∀ row ∈ ([ { word := .clk h sd, hdr := h, groups := [(sd.toNat, 2)], reg := putSPair sd fun _ => s.time },
      { word := .nop h, hdr := h } ] : List WarpRow), row.Ready s w → row.Runs s w

/-- R94, R384, R385: TRAP raises BREAK with its code: the trap registers take the cause, the warp enters handler mode at
THAND with an empty handler bank, and nothing else changes. -/
def TrapEntersTheHandler : Prop :=
  ∀ (h : WarpHdr) (code : BitVec 18) (s : State) (w : Warp), Issues s w h → ¬ EndsLoop w (.trap h code) →
    Traps (.trap h code) s w .brk 0 (BitVec.allOnes 32) (BitVec.ofNat 32 code.toNat)

/-- R73, R385, R398: a trap in a context without a handler writes the trap registers and halts the team; one in handler mode
becomes DOUBLE, keeps the first cause's registers TPC and TCAUSE's code as DCAUSE, and halts the team. -/
def UnhandledTrapHaltsTheTeam : Prop :=
  ∀ (h : WarpHdr) (code : BitVec 18) (s : State) (w : Warp) (t : Team) (c : Context), Issues s w h → InTeam s w t →
    kget? s.contexts t.ctx = some c → ¬ EndsLoop w (.trap h code) → (w.inh = false → c.thand = 0) → ∃ t' w',
      exec (.trap h code) s = .next t' ∧ t'.warp? s.cur = some w' ∧
      (∃ tm, t'.team? w.team = some tm ∧ tm = { t with halted := some w.num }) ∧
      (∀ k, k ≠ s.cur → t'.warp? k = s.warp? k) ∧ (∀ k, k ≠ w.team → t'.team? k = s.team? k) ∧
      (w.inh = false → w' = { entered w 0 .brk 0 (BitVec.allOnes 32) (BitVec.ofNat 32 code.toNat) with
        inh := false, hpc := w.hpc, hq := w.hq, hloops := w.hloops, hseq := w.hseq, badRegs := w.soundTraps true }) ∧
      (w.inh = true → w' = { w with
        tcause := 25, dcause := 24, taddr := 0, tlanes := BitVec.allOnes 32, tinfo := BitVec.ofNat 32 code.toNat
        badRegs := w.soundTraps false })

/-- R70, R71, R73, R92: a lane word in a copy or maths warp raises ROLE; one whose register lies at or beyond VREGS raises
REG_RANGE; one in handler mode raises PRIV, which is delivered as DOUBLE. The guard and the operands do not matter. A warp
word of another role's class raises ROLE. That TLANES is the active mask here is the model's reading
(notes/assumptions/23.md). -/
def DecodeCausesBarEffects : Prop :=
  ∀ h wh d a b c imm u rmode n slot nobar s w, s.warp? s.cur = some w →
    (∀ row ∈ someLaneRows h d a b c imm u rmode,
      (w.role ≠ .epilogue → Traps row.word s w .role 0 w.active (firstWord row.word) ∧
        Doubles row.word s w .role 0 w.active (firstWord row.word)) ∧
      (w.role = .epilogue → (∃ g ∈ row.groups, w.vregs < g.1 + g.2) →
        Traps row.word s w .regRange 0 w.active (firstWord row.word) ∧
        Doubles row.word s w .regRange 0 w.active (firstWord row.word)) ∧
      (w.role = .epilogue → (∀ g ∈ row.groups, g.1 + g.2 ≤ w.vregs) →
        Doubles row.word s w .priv 0 w.active (firstWord row.word))) ∧
    ∀ e ∈ roleWords wh d a b n slot nobar, w.role ≠ e.1 →
      Traps e.2 s w .role 0 (BitVec.allOnes 32) (firstWord e.2) ∧
      Doubles e.2 s w .role 0 (BitVec.allOnes 32) (firstWord e.2)

/-- R73, R160 to R162: a packing word raises FMT for a type that it does not accept, with the lanes of X; with no lane in
X it has no effect. The extension word as TINFO and the empty X are the model's readings (notes/assumptions/20.md and
21.md). -/
def ConversionTypesOutsideTheirListsTrap : Prop :=
  ∀ h d a b dt rmode sat idx s w, IssuesLane s w → d.toNat < w.vregs → a.toNat + 4 ≤ w.vregs → b.toNat < w.vregs →
    ∀ e ∈ [(.pack2 h d a b dt rmode sat, sixteenBits dt), (.pack4 h d a dt rmode sat, eightBits dt),
        (.unpack h d a idx dt, sixteenBits dt ∨ eightBits dt), (.qb8 h d a b dt, narrowFmt dt ≠ none)],
      ¬ e.2 → MayEndHere w e.1 →
        (w.exec h ≠ 0 → ∃ info, Traps e.1 s w .fmt 0 (w.exec h) info) ∧ (w.exec h = 0 → Completes e.1 s s w w)

/-- R43, R225, R193: a load opens a window for the lanes of X, with each lane's address; nothing else of its warp changes but
its next program-order number, and no memory does. -/
def LoadsOpenAWindow : Prop :=
  ∀ (h : LaneHdr) (d a : Reg) (la : BitVec 4) (sx : Bool) (off : BitVec 24) (size : Size) (scope : Scope) (ord : Ord),
    ∀ f ∈ laneLoads h d a la sx off size scope ord, ∀ (s : State) (w : Warp) (t : Team), IssuesLane s w → InTeam s w t →
      d.toNat + size.regs ≤ w.vregs → a.toNat + pointerRegs f.sp ≤ w.vregs → MayEndHere w f.word → w.taskst = false →
      s.bad = [] →
      (∀ l < 32, laneBit (w.exec h) l = true → LaneAccessible s w t f.sp l (laneAt w f.sp a off.toInt l) size) →
      ∃ s' w', exec f.word s = .next s' ∧ s'.warp? s.cur = some w' ∧ LoadKeeps s s' ∧ GoesPast w w' f.word ∧
        OpensWindow w w'
          (fun n => accessOf f w .load false size n
            (partsOf (w.exec h) fun l => ⟨l, (laneAt w f.sp a off.toInt l).toNat, []⟩))
          (.lanes d.toNat size.regs) la.toNat (w.exec h)

/-- R43, R225: a scalar load opens a window of its own. -/
def ScalarLoadsOpenAWindow : Prop :=
  ∀ (h : WarpHdr) (d a : Reg) (la : BitVec 4) (sx : Bool) (off : BitVec 24) (size : Size) (scope : Scope) (ord : Ord),
    ∀ f ∈ scalarLoads h d a la sx off size scope ord, ∀ (s : State) (w : Warp) (t : Team), Issues s w h → InTeam s w t →
      d.toNat + size.regs ≤ 64 → a.toNat + pointerRegs f.sp ≤ 64 → MayEndHere w f.word → w.taskst = false → s.bad = [] →
      Accessible t f.sp (scalarAt w f.sp a off.toInt) size →
      ∃ s' w', exec f.word s = .next s' ∧ s'.warp? s.cur = some w' ∧ LoadKeeps s s' ∧ GoesPast w w' f.word ∧
        OpensWindow w w'
          (fun n => accessOf f w .load true size n [⟨0, (scalarAt w f.sp a off.toInt).toNat, []⟩])
          (.scalar d.toNat size.regs) la.toNat 1

/-- R193, R221, R224, R225: a load of the scratchpad or the orangery whose lines are present, with nothing of its warp before
it, reads the bytes at each lane's address: the window holds every lane's value. -/
def LocalLoadsReadTheirBytes : Prop :=
  ∀ (h : LaneHdr) (d a : Reg) (la : BitVec 4) (sx : Bool) (off : BitVec 24) (size : Size) (scope : Scope) (ord : Ord),
    ∀ f ∈ laneLoads h d a la sx off size scope ord, f.sp ≠ .glob →
    ∀ (s : State) (w : Warp) (t : Team), IssuesLane s w → InTeam s w t →
      d.toNat + size.regs ≤ w.vregs → a.toNat + pointerRegs f.sp ≤ w.vregs → MayEndHere w f.word → w.taskst = false →
      s.bad = [] → NothingBefore w →
      (∀ l < 32, laneBit (w.exec h) l = true →
        let ad := laneAt w f.sp a off.toInt l
        Accessible t f.sp ad size ∧ (f.sp = .spad → LinesPresent t w ad.toNat size.bytes)) →
      ∃ s' w' x, exec f.word s = .next s' ∧ s'.warp? s.cur = some w' ∧ w'.windows = w.windows ++ [x] ∧
        x.ready = w.exec h ∧ x.late = s.curLate &&& w.exec h ∧
        ∀ l < 32, laneBit (w.exec h) l = true →
          kget x.vals l [] = loaded size f.sx fun i => localByte t w f.sp ((laneAt w f.sp a off.toInt l).toNat + i)

/-- R203, R221, R225: a plain scalar load whose address translates to a line of the home die, of which its core holds no
copy, reads the bytes at their home. -/
def ScalarLoadReadsItsHome : Prop :=
  ∀ (h : WarpHdr) (d a : Reg) (la : BitVec 4) (sx : Bool) (off : BitVec 24) (size : Size) (scope : Scope)
    (s s1 : State) (w : Warp) (t : Team) (pa key : Nat), Issues s w h → InTeam s w t →
      let i : Instr := .sld h d a la sx off size scope .plain
      let ad := scalarAt w .glob a off.toInt
      d.toNat + size.regs ≤ 64 → a.toNat + 2 ≤ 64 → MayEndHere w i → w.taskst = false → s.bad = [] → NothingBefore w →
      Accessible t .glob ad size → (∀ y ∈ w.windows, y.acc.seq < w.seq) → s.fab = [] →
      OwnUnit s s1 w t (.lane s.cur w.seq 0) .read ad.toNat size pa key →
      kget? (s.core w.core).l1 (pa / 128 * 128 + key) = none →
      ∃ s' w' x, exec i s = .next s' ∧ s'.warp? s.cur = some w' ∧ w'.windows = w.windows ++ [x] ∧ x.ready = 1 ∧
        SameMemory s s' ∧ kget x.vals 0 [] = loaded size sx fun k => s.homeByte (.own (pa + k) key)

/-- R206, R226, R193: a store enters the queue of its warp with each lane's address and data, and changes nothing else; no
byte of memory changes until it is performed. ACCWR alone leaves the warp in its prologue (R327). -/
def LaneStoresEnterTheQueue : Prop :=
  ∀ (h : LaneHdr) (d a : Reg) (off : BitVec 24) (size : Size) (scope : Scope) (ord : Ord),
    ∀ f ∈ laneStores h d a off size scope ord, ∀ (s : State) (w : Warp) (t : Team), IssuesLane s w → InTeam s w t →
      d.toNat + size.regs ≤ w.vregs → a.toNat + pointerRegs f.sp ≤ w.vregs → MayEndHere w f.word → w.taskst = false →
      (∀ l < 32, laneBit (w.exec h) l = true → LaneAccessible s w t f.sp l (laneAt w f.sp a off.toInt l) size) →
      Completes f.word s s w { (if w.exec h = 0 then w else
        queueing w (accessOf f w .store false size w.seq (partsOf (w.exec h) fun l =>
          ⟨l, (laneAt w f.sp a off.toInt l).toNat, tab size.regs fun k => w.vr l (d.toNat + k)⟩))) with
        prologue := decide (f.sp = .orang) && w.prologue }

/-- R206, R226: a scalar store enters the queue of its warp. -/
def ScalarStoresEnterTheQueue : Prop :=
  ∀ (h : WarpHdr) (d a : Reg) (off : BitVec 24) (size : Size) (scope : Scope) (ord : Ord),
    ∀ f ∈ scalarStores h d a off size scope ord, ∀ (s : State) (w : Warp) (t : Team), Issues s w h → InTeam s w t →
      d.toNat + size.regs ≤ 64 → a.toNat + pointerRegs f.sp ≤ 64 → MayEndHere w f.word → w.taskst = false →
      Accessible t f.sp (scalarAt w f.sp a off.toInt) size →
      Completes f.word s s w (queueing w (accessOf f w .store true size w.seq
        [⟨0, (scalarAt w f.sp a off.toInt).toNat, tab size.regs fun k => w.sr (d.toNat + k)⟩]))

/-- R227, R230, R232: CST queues the lanes of X one after the other from the lowest lane's address; DISCARD queues a line for
each lane, and SPCLR a run of scratchpad lines. -/
def OtherStoresEnterTheQueue : Prop :=
  ∀ (s : State) (w : Warp) (t : Team), s.warp? s.cur = some w → w.wait = none → InTeam s w t → w.taskst = false →
    (∀ (h : LaneHdr) (d a : Reg) (off : BitVec 24) (size : Size) (scope : Scope) (ord : Ord) (l : Nat),
      let f : MemForm := { word := .cst h d a off size scope ord, sp := .glob, scope := scope, ord := ord }
      let ls := (List.range 32).filter fun l => laneBit (w.exec h) l
      let b := laneAt w .glob a off.toInt l
      w.role = .epilogue → w.inh = false → d.toNat + size.regs ≤ w.vregs → a.toNat + 2 ≤ w.vregs → MayEndHere w f.word →
      IsLowest (w.exec h) l → b % size.bytes = 0 → InSpace t .glob b (ls.length * size.bytes) →
      (∀ k < ls.length, BackingInRange s w (ls.getD k 0) (b + (k * size.bytes : Nat)) size.bytes) →
      Completes f.word s s w (queueing w (accessOf f w .store false size w.seq (tab ls.length fun k =>
        ⟨ls.getD k 0, b.toNat + k * size.bytes, tab size.regs fun j => w.vr (ls.getD k 0) (d.toNat + j)⟩)))) ∧
    (∀ (h : LaneHdr) (a : Reg) (off : BitVec 24),
      let f : MemForm := { word := .discard h a off, sp := .glob }
      w.role = .epilogue → w.inh = false → a.toNat + 2 ≤ w.vregs → MayEndHere w f.word → w.exec h ≠ 0 →
      (∀ l < 32, laneBit (w.exec h) l = true → LaneInSpace s w t .glob l (laneAt w .glob a off.toInt l) 1) →
      Completes f.word s s w (queueing w (accessOf f w .discard false .b8 w.seq
        (partsOf (w.exec h) fun l => ⟨l, (laneAt w .glob a off.toInt l).toNat, []⟩)))) ∧
    (∀ (h : WarpHdr) (a b : Reg),
      let f : MemForm := { word := .spclr h a b, sp := .spad }
      let o := (w.sr a.toNat).toNat
      let n := (w.sr b.toNat).toNat
      w.qGuard h = true → MayEndHere w f.word →
      (n = 0 → Completes f.word s s w { w with prologue := false }) ∧
      (n ≠ 0 → o % 128 = 0 → InSpace t .spad o (128 * n) →
        Completes f.word s s w (queueing w (accessOf f w .spclr true .b128 w.seq [⟨0, o, [w.sr b.toNat]⟩]))))

/-- R43, R229: an atomic opens a window that holds each lane's address and operands. -/
def AtomicsOpenAWindow : Prop :=
  ∀ (d a b : Reg) (la : BitVec 4) (op : Aop) (off : BitVec 14) (size : Size) (scope : Scope) (ord : Ord) (s : State)
    (w : Warp) (t : Team), s.warp? s.cur = some w → w.wait = none → InTeam s w t → w.taskst = false →
    (∀ h, ∀ f ∈ laneAtomics h d a la b op off size scope ord, w.role = .epilogue → w.inh = false →
      d.toNat + size.regs ≤ w.vregs → a.toNat + pointerRegs f.sp ≤ w.vregs → b.toNat + operandRegs op size ≤ w.vregs →
      MayEndHere w f.word → (∀ l < 32, laneBit (w.exec h) l = true → LaneAccessible s w t f.sp l (laneAt w f.sp a off.toInt l) size) →
      ∃ s' w', exec f.word s = .next s' ∧ s'.warp? s.cur = some w' ∧ GoesPast w w' f.word ∧
        OpensWindow w w'
          (fun n => accessOf f w (.atomic op) false size n (partsOf (w.exec h) fun l =>
            ⟨l, (laneAt w f.sp a off.toInt l).toNat, tab (operandRegs op size) fun k => w.vr l (b.toNat + k)⟩))
          (.lanes d.toNat size.regs) la.toNat (w.exec h)) ∧
    (∀ h : WarpHdr,
      let f : MemForm := { word := .satom h d a la b op off size scope ord, sp := .glob, scope := scope, ord := ord }
      w.qGuard h = true → d.toNat + size.regs ≤ 64 → a.toNat + 2 ≤ 64 → b.toNat + operandRegs op size ≤ 64 →
      MayEndHere w f.word → Accessible t .glob (scalarAt w .glob a off.toInt) size →
      ∃ s' w', exec f.word s = .next s' ∧ s'.warp? s.cur = some w' ∧ GoesPast w w' f.word ∧
        OpensWindow w w'
          (fun n => accessOf f w (.atomic op) true size n
            [⟨0, (scalarAt w .glob a off.toInt).toNat, tab (operandRegs op size) fun k => w.sr (b.toNat + k)⟩])
          (.scalar d.toNat size.regs) la.toNat 1)

/-- R65, R228, R229: an atomic on the scratchpad whose lines are present, with nothing of its warp before it, reads and
writes its units lane by lane in ascending order: the scratchpad holds what the last lane leaves, and the window each
lane's old value. -/
def ScratchpadAtomicsApplyInLaneOrder : Prop :=
  ∀ (h : LaneHdr) (d a b : Reg) (la : BitVec 4) (op : Aop) (off : BitVec 14) (size : Size) (ord : Ord) (s : State)
    (w : Warp) (t : Team), IssuesLane s w → InTeam s w t → w.taskst = false → s.bad = [] → NothingBefore w →
      let i : Instr := .atoms h d a la b op off size ord
      let n := size.bytes
      let ad (l : Nat) : Nat := (laneAt w .spad a off.toInt l).toNat
      let r := atomicsInOrder op n ad (fun l => wordsOf (fun k => w.vr l (b.toNat + k)) size.regs)
        (fun l => wordsOf (fun k => w.vr l (b.toNat + size.regs + k)) size.regs)
        ((List.range 32).filter fun l => laneBit (w.exec h) l) (localByte t w .spad)
      atomicSize op size → d.toNat + size.regs ≤ w.vregs → a.toNat < w.vregs → b.toNat + operandRegs op size ≤ w.vregs →
      MayEndHere w i →
      (∀ l < 32, laneBit (w.exec h) l = true →
        Accessible t .spad (laneAt w .spad a off.toInt l) size ∧ LinesPresent t w (ad l) n) →
      ∃ s' w' t' x, exec i s = .next s' ∧ s'.warp? s.cur = some w' ∧ s'.team? w.team = some t' ∧
        (∀ q, localByte t' w .spad q = r.1 q) ∧ t' = { t with spads := t'.spads } ∧
        w'.windows = w.windows ++ [x] ∧ x.ready = w.exec h ∧
        (∀ l < 32, laneBit (w.exec h) l = true → kget x.vals l [] = asWords size.regs (r.2 l)) ∧
        (∀ k, k ≠ s.cur → s'.warp? k = s.warp? k) ∧ (∀ k, k ≠ w.team → s'.team? k = s.team? k) ∧ SameMemory s s'

/-- R65, R213, R229: a scalar atomic whose unit lies on the warp's die replaces it at its home at once: the window holds
the old value, and no other byte of memory changes. -/
def ScalarAtomicReplacesItsUnitAtHome : Prop :=
  ∀ (h : WarpHdr) (d a b : Reg) (la : BitVec 4) (op : Aop) (off : BitVec 14) (size : Size) (scope : Scope) (ord : Ord)
    (s s1 : State) (w : Warp) (t : Team) (pa key : Nat), Issues s w h → InTeam s w t →
      let i : Instr := .satom h d a la b op off size scope ord
      let ad := scalarAt w .glob a off.toInt
      let n := size.bytes
      ord = .plain ∨ ord = .rlx → atomicSize op size → d.toNat + size.regs ≤ 64 → a.toNat + 2 ≤ 64 →
      b.toNat + operandRegs op size ≤ 64 → MayEndHere w i → w.taskst = false → s.bad = [] → NothingBefore w →
      Accessible t .glob ad size → (∀ y ∈ w.windows, y.acc.seq < w.seq) → s.fab = [] →
      OwnUnit s s1 w t (.lane s.cur w.seq 0) .atomic ad.toNat size pa key →
      let old := unitOf (fun k => s.homeByte (.own (pa + k) key)) n
      let new := atomicNew op (8 * n) old (wordsOf (fun k => w.sr (b.toNat + k)) size.regs)
        (wordsOf (fun k => w.sr (b.toNat + size.regs + k)) size.regs)
      ∃ s' w' x, exec i s = .next s' ∧ s'.warp? s.cur = some w' ∧ w'.windows = w.windows ++ [x] ∧ x.ready = 1 ∧
        kget x.vals 0 [] = asWords size.regs old ∧ SameElsewhere s s' pa n key ∧
        ∀ k < n, s'.homeByte (.own (pa + k) key) = BitVec.ofNat 8 (new / 256 ^ k)

/-- R7, R193, R203, R206, R226: when the oldest queued store of a warp is performed it leaves the queue. On the scratchpad
and the orangery each byte takes the data of the highest lane that stores to it and no other byte changes; a scalar store
whose unit lies on the warp's die writes its bytes at their home. -/
def StoresWriteTheirBytesWhenPerformed : Prop :=
  ∀ (s : State) (w : Warp) (wid : Nat) (t : Team) (x : Acc) (rest : List Acc), StoreAtHead s w wid x rest →
    InTeam s w t →
    let covers (p : Part) (q : Nat) : Prop := p.addr ≤ q ∧ q < p.addr + x.size.bytes
    (x.space ≠ .glob → (x.space = .orang → ∀ p ∈ x.parts, p.addr < 2 ^ 19) →
      (∀ p ∈ x.parts, p.addr % x.size.bytes = 0 ∧ x.size.regs ≤ p.data.length ∧ (x.space = .spad → LinesPresent t w p.addr x.size.bytes)) → ∃ s' t',
      exec (.storePerformed wid) s = .next s' ∧ s'.warp? wid = some { w with storeQ := rest } ∧
        s'.team? w.team = some t' ∧ SameMemory s s' ∧
        (∀ q, (∀ p ∈ x.parts, ¬ covers p q) → localByte t' w x.space q = localByte t w x.space q ∨
          (x.space = .orang ∧ 2 ^ 19 ≤ q)) ∧
        ∀ ps p qs q, x.parts = ps ++ p :: qs → covers p q → (∀ r ∈ qs, ¬ covers r q) →
          localByte t' w x.space q = dataByte p.data (q - p.addr)) ∧
    ∀ p s1 pa key, x.space = .glob → x.scalar = true → x.parts = [p] → s.fab = [] →
      OwnUnit s s1 w t (.store wid x.seq p.lane) .write p.addr x.size pa key → x.size.regs ≤ p.data.length → ∃ s',
        exec (.storePerformed wid) s = .next s' ∧ s'.warp? wid = some { w with storeQ := rest } ∧
        SameElsewhere s s' pa x.size.bytes key ∧
        ∀ k < x.size.bytes, s'.homeByte (.own (pa + k) key) = dataByte p.data k

/-- R231: PREF and SPREF change no architectural state: copies and translation entries apart, only the place of their warp
moves. They raise nothing and never wait. -/
def PrefetchesChangeOnlyCopies : Prop :=
  ∀ (lh : LaneHdr) (wh : WarpHdr) (a : Reg) (off : BitVec 24) (s : State) (w : Warp), s.warp? s.cur = some w →
    let quiet (i : Instr) : Prop := ∃ s' w', exec i s = .next s' ∧ s'.warp? s.cur = some w' ∧ GoesPast w w' i ∧
      w' = placedAs { w with prologue := false } w' ∧ SameMemory s s' ∧
      (∀ k, k ≠ s.cur → s'.warp? k = s.warp? k) ∧
      s' = { s with
        warps := s'.warps, cores := s'.cores, rdc0 := s'.rdc0, rdc1 := s'.rdc1, stamp := s'.stamp, tlb0 := s'.tlb0
        tlb1 := s'.tlb1, priTries := s'.priTries, priGranted := s'.priGranted }
    (w.role = .epilogue → w.inh = false → a.toNat + 2 ≤ w.vregs → MayEndHere w (.pref lh a off) →
      quiet (.pref lh a off)) ∧
    (a.toNat + 2 ≤ 64 → MayEndHere w (.spref wh a off) → quiet (.spref wh a off))

/-- R224, R233: SPQRY writes the P bits, or the Z bits, of the 32 lines from its address once the warp's stores have been
performed, and waits until then. A line of the team's pergolas, which its admission has written, is not zero on core 0. A
crooked address raises ALIGN with 12, one beyond the allotment SPAD_RANGE. TINFO = 0 of SPAD_RANGE is the model's choice
(notes/assumptions/22.md). -/
def SpqryReadsTheLineBits : Prop :=
  ∀ (h : WarpHdr) (d a : Reg) (kind : Bool) (s : State) (w : Warp) (t : Team), Issues s w h → InTeam s w t →
    MayEndHere w (.spqry h d a kind) →
    let o := (w.sr a.toNat).toNat
    let sp := kget t.spads w.part ⟨[], [], []⟩
    let ofPergola (line : Nat) : Prop := w.part = 0 ∧
      ∃ q < 16, pergValid (t.desc.perg.getD q 0) = true ∧ t.desc.pergBase q / 128 = line
    (o % 4096 = 0 → o + 4096 ≤ t.allot → w.storeQ = [] → ∃ w1, Completes (.spqry h d a kind) s s w w1 ∧
      w1 = { w with s := w1.s, badRegs := w1.badRegs, prologue := false } ∧ SoundAfter w w1 ∧
      ∀ r, w1.sr r = if r = d.toNat then
          fromBits fun k => if kind then decide (o / 128 + k ∉ sp.written ∧ ¬ ofPergola (o / 128 + k))
            else decide (o / 128 + k ∉ sp.absent)
        else w.sr r) ∧
    (o % 4096 = 0 → o + 4096 ≤ t.allot → w.storeQ ≠ [] → WaitsAt (.spqry h d a kind) s s w w .atIssue) ∧
    (o % 4096 ≠ 0 → Traps (.spqry h d a kind) s w .align o (BitVec.allOnes 32) 12) ∧
    (o % 4096 = 0 → t.allot < o + 4096 → Traps (.spqry h d a kind) s w .spadRange o (BitVec.allOnes 32) 0)

/-- R14, R203: when a line of this device's HBM leaves an RDC its dirty bytes reach their home, and no other byte changes. -/
def EvictedLinesReachTheirHome : Prop :=
  ∀ (die line : Nat) (s : State) (r : RdcLine), die ≤ 1 → kget? (s.rdc die) line = some r → line < 2 ^ 64 → s.bad = [] →
    ∃ s', exec (.rdcEviction die line) s = .next s' ∧ kget? (s'.rdc die) line = none ∧
      (∀ k, k ≠ line → kget? (s'.rdc die) k = kget? (s.rdc die) k) ∧ s'.rdc (1 - die) = s.rdc (1 - die) ∧
      SameElsewhere s s' (line / 128 * 128) 128 (line % 128) ∧ s'.warps = s.warps ∧ s'.teams = s.teams ∧
      s'.cores = s.cores ∧
      ∀ k < 128, s'.homeByte (.own (line / 128 * 128 + k) (line % 128)) =
        if r.dirty.getLsbD k then r.bytes.getD k 0 else s.homeByte (.own (line / 128 * 128 + k) (line % 128))

/-- R44, R47: when the data of some lanes of a window that has closed arrives, their destination registers are written,
and they are ready again; the window goes when no lane is left. A register that a window closed later has written keeps
that value, and windows that closed earlier no longer write what this one has written. Before the close only the lanes'
lateness ends. -/
def LateDataIsWrittenWhenItArrives : Prop :=
  ∀ (wid seq : Nat) (lanes : LaneMask) (s : State) (w : Warp) (x : Window) (vd n : Nat), s.warp? wid = some w →
    w.windows.find? (fun y => y.acc.seq == seq) = some x → x.dest = .lanes vd n → x.lanes &&& ~~~x.ready = 0 →
    x.dead = 0 → (∀ r ∈ s.fab, ∀ l, r.2.who ≠ .lane wid seq l) →
    let here := x.lanes &&& ~~~(x.late &&& ~~~lanes)
    (x.closed = true → ∃ w', exec (.lateDataArrival wid seq lanes) s = .next (s.setWarp wid w') ∧ SoundAfter w w' ∧
      w' = { w with v := w'.v, windows := w'.windows, badRegs := w'.badRegs } ∧
      (∀ l < 32, ∀ r, w'.vr l r =
        if laneBit here l ∧ vd ≤ r ∧ r < vd + n ∧ laneBit (kget x.skip r 0) l = false then (kget x.vals l []).getD (r - vd) 0 else w.vr l r) ∧
      ∃ f : Window → Window, (∀ y, f y = { y with skip := (f y).skip }) ∧
        (∀ y r, ∀ l < 32, laneBit (kget (f y).skip r 0) l = true ↔ laneBit (kget y.skip r 0) l = true ∨
          (y.closed = true ∧ y.shutNo < x.shutNo ∧ (∃ d k, y.dest = .lanes d k ∧ d ≤ r ∧ r < d + k) ∧ vd ≤ r ∧ r < vd + n ∧
            laneBit here l = true)) ∧
        w'.windows = if here = x.lanes then (w.windows.filter fun y => y.acc.seq != seq).map f
          else w.windows.map fun y =>
            if y.acc.seq = seq then { x with late := x.late &&& ~~~lanes, lanes := x.lanes &&& ~~~here } else f y) ∧
    (x.closed = false → exec (.lateDataArrival wid seq lanes) s = .next (s.setWarp wid
      { w with windows := w.windows.map fun y =>
          if y.acc.seq = seq then { x with late := x.late &&& ~~~lanes } else y }))

/-- R82: where no lane of a warp is ready and none waits for data, the mask with the lowest waiting vpc is released, the
lower mask on a tie: its waiters go on past their JOIN and leave the mask. -/
def StuckJoinsReleaseTheLowestWaiter : Prop :=
  ∀ (wid : Nat) (s : State) (w : Warp) (k l : Nat), s.warp? wid = some w → w.inh = false → w.ready = 0 →
    w.lateLanes = 0 → k < 8 → l < 32 → laneBit (kget w.waitK k 0) l = true →
    (∀ j < 8, ∀ m < 32, laneBit (kget w.waitK j 0) m = true → w.vpcOf l ≤ w.vpcOf m ∧ (w.vpcOf m = w.vpcOf l → k ≤ j)) →
    ∃ w', exec (.joinForcedRelease wid) s = .next (s.setWarp wid w') ∧
      w' = { w with waitK := w'.waitK, jm := w'.jm, vpc := w'.vpc } ∧
      (∀ j, kget w'.waitK j 0 = if j = k then 0 else kget w.waitK j 0) ∧
      (∀ j, kget w'.jm j 0 = if j = k then kget w.jm k 0 &&& ~~~(kget w.waitK k 0) else kget w.jm j 0) ∧
      ∀ m < 32, w'.vpcOf m = if laneBit (kget w.waitK k 0) m then (w.vpcOf m + 4) % 2 ^ 57 else w.vpcOf m

/-- R203, R221, R225: a load by the lanes of X from places in HBM on the warp's die, of which its core holds no copy, reads
each lane's bytes at their home. -/
def LaneLoadReadsItsHomes : Prop :=
  ∀ (h : LaneHdr) (d a : Reg) (la : BitVec 4) (sx : Bool) (off : BitVec 24) (size : Size) (scope : Scope) (ord : Ord)
    (s : State) (w : Warp) (t : Team) (place : Nat → Nat × Nat), IssuesLane s w → InTeam s w t →
      let i : Instr := .ld h d a la sx off size scope ord
      let ad (l : Nat) : Nat := (laneAt w .glob a off.toInt l).toNat
      let ls := lanesUp (w.exec h)
      d.toNat + size.regs ≤ w.vregs → a.toNat + 2 ≤ w.vregs → MayEndHere w i → w.taskst = false → s.bad = [] → NothingBefore w →
      (∀ l ∈ ls, LaneAccessible s w t .glob l (laneAt w .glob a off.toInt l) size) → (∀ y ∈ w.windows, y.acc.seq < w.seq) →
      s.fab = [] → OwnUnits s w t (fun l => .lane s.cur w.seq l) .read ls ad size place →
      (∀ l ∈ ls, kget? (s.core w.core).l1 ((place l).1 / 128 * 128 + (place l).2) = none) →
      ∃ s' w' x, exec i s = .next s' ∧ s'.warp? s.cur = some w' ∧ w'.windows = w.windows ++ [x] ∧ x.ready = w.exec h ∧
        x.late = s.curLate &&& w.exec h ∧ SameMemory s s' ∧
        ∀ l ∈ ls, kget x.vals l [] = loaded size sx fun k => s.homeByte (.own ((place l).1 + k) (place l).2)

/-- R65, R213, R228, R229: an atomic by the lanes of X on places in HBM on the warp's die reads and writes their units lane by
lane in ascending order: the homes hold what the last lane leaves, and the window each lane's old value. -/
def LaneAtomicsReplaceTheirUnitsAtHome : Prop :=
  ∀ (h : LaneHdr) (d a b : Reg) (la : BitVec 4) (op : Aop) (off : BitVec 14) (size : Size) (scope : Scope) (ord : Ord)
    (s : State) (w : Warp) (t : Team) (place : Nat → Nat × Nat), IssuesLane s w → InTeam s w t →
      let i : Instr := .atom h d a la b op off size scope ord
      let ad (l : Nat) : Nat := (laneAt w .glob a off.toInt l).toNat
      let ls := lanesUp (w.exec h)
      let r := atomicsInOrder op size.bytes (fun l => placeNum (place l))
        (fun l => wordsOf (fun k => w.vr l (b.toNat + k)) size.regs)
        (fun l => wordsOf (fun k => w.vr l (b.toNat + size.regs + k)) size.regs) ls
        fun q => s.homeByte (.own (q % 2 ^ 64) (q / 2 ^ 64))
      ord = .plain ∨ ord = .rlx → atomicSize op size → d.toNat + size.regs ≤ w.vregs → a.toNat + 2 ≤ w.vregs →
      b.toNat + operandRegs op size ≤ w.vregs → MayEndHere w i → w.taskst = false → s.bad = [] → NothingBefore w →
      (∀ l ∈ ls, LaneAccessible s w t .glob l (laneAt w .glob a off.toInt l) size) → (∀ y ∈ w.windows, y.acc.seq < w.seq) →
      s.fab = [] → OwnUnits s w t (fun l => .lane s.cur w.seq l) .atomic ls ad size place →
      ∃ s' w' x, exec i s = .next s' ∧ s'.warp? s.cur = some w' ∧ w'.windows = w.windows ++ [x] ∧ x.ready = w.exec h ∧
        (∀ l ∈ ls, kget x.vals l [] = asWords size.regs (r.2 l)) ∧
        (∀ q key, q < 2 ^ 64 → key < 128 → s'.homeByte (.own q key) = r.1 (placeNum (q, key))) ∧
        (∀ e q, s'.homeByte (.peer e q) = s.homeByte (.peer e q)) ∧ ∀ q, s'.homeByte (.host q) = s.homeByte (.host q)

/-- R7, R203, R206, R219, R226, R227, R230, R232: when the oldest queued ST, CST, DISCARD or SPCLR of a warp is performed it
leaves the queue. A lane store whose units lie on the warp's die writes them at their homes, the highest lane's data last. A
DISCARD drops the dirty copy of each line at its home, so that HBM's content is the line's value, and the copies that its core
and its die hold. SPCLR zeroes its lines. No other byte changes. -/
def LaneStoresReachTheirHomes : Prop :=
  ∀ (s : State) (w : Warp) (wid : Nat) (t : Team) (x : Acc) (rest : List Acc) (place : Nat → Nat × Nat),
    s.warp? wid = some w → InTeam s w t → w.storeQ = x :: rest → w.opLog = [] → x.ord = .plain → s.bad = [] → s.fab = [] →
    (∀ y ∈ w.windows, y.lanes &&& ~~~y.ready = 0 ∧ y.dead = 0) →
    let done (s' : State) : Prop := exec (.storePerformed wid) s = .next s' ∧ s'.warp? wid = some { w with storeQ := rest }
    let others (s' : State) : Prop := (∀ e q, s'.homeByte (.peer e q) = s.homeByte (.peer e q)) ∧
      ∀ q, s'.homeByte (.host q) = s.homeByte (.host q)
    let ls := x.parts.map (·.lane)
    let ad (l : Nat) : Nat := ((x.parts.find? fun p => p.lane == l).map (·.addr)).getD 0
    (x.kind = .store → x.space = .glob → x.scalar = false → (∀ l ∈ ls, l < 32) → ls.Pairwise (· < ·) →
      OwnUnits s w t (fun l => .store wid x.seq l) .write ls ad x.size place → (∀ p ∈ x.parts, x.size.regs ≤ p.data.length) →
      let covers (p : Part) (q key : Nat) : Prop :=
        key = (place p.lane).2 ∧ (place p.lane).1 ≤ q ∧ q < (place p.lane).1 + x.size.bytes
      ∃ s', done s' ∧ others s' ∧
        (∀ q key, key < 128 → (∀ p ∈ x.parts, ¬ covers p q key) → s'.homeByte (.own q key) = s.homeByte (.own q key)) ∧
        ∀ ps p qs q key, x.parts = ps ++ p :: qs → covers p q key → (∀ r ∈ qs, ¬ covers r q key) →
          s'.homeByte (.own q key) = dataByte p.data (q - (place p.lane).1)) ∧
    (x.kind = .discard → x.space = .glob → x.scalar = false → x.size = .b8 → (∀ l ∈ ls, l < 32) → ls.Pairwise (· < ·) →
      OwnUnits s w t (fun l => .store wid x.seq l) .discard ls ad .b8 place →
      let line (l : Nat) : Nat := (place l).1 / 128 * 128 + (place l).2
      ∃ s', done s' ∧ others s' ∧ s'.hbm = s.hbm ∧
        (∀ l ∈ ls, kget? s'.l2 (line l) = none ∧ kget? (s'.core w.core).l1 (line l) = none ∧
          kget? (s'.rdc (w.core / 192)) (line l) = none) ∧
        ∀ q key, key < 128 → (∀ l ∈ ls, line l ≠ q / 128 * 128 + key) → s'.homeByte (.own q key) = s.homeByte (.own q key)) ∧
    ∀ o n, x.kind = .spclr → x.space = .spad → x.parts = [⟨0, o, [n]⟩] → o % 128 = 0 →
      LinesPresent t w o (128 * n.toNat) →
      ∃ s' t', done s' ∧ SameMemory s s' ∧ s'.team? w.team = some t' ∧
        ∀ q, localByte t' w .spad q = if o ≤ q ∧ q < o + 128 * n.toNat then 0 else localByte t w .spad q

/-- R305, R307: BAR counts its arrival once the warp's accesses are performed. A warp that does not complete the generation
goes on with ARV and waits without; the arrival that completes it frees every warp that waits there, with an acquire at the
team scope, and the count starts again. A bad count and a mode that differs raise MBAR with 0x100 + ID. -/
def BarCountsArrivals : Prop :=
  ∀ (h : WarpHdr) (sa : Reg) (cnt arv : Bool) (bid : BitVec 3) (s : State) (w : Warp) (t : Team), Issues s w h →
    InTeam s w t → w.inh = false → w.taskst = false → MayEndHere w (.bar h sa cnt arv bid) →
    let i : Instr := .bar h sa cnt arv bid
    let n := (w.sr sa.toNat).toNat
    let m := if cnt then n else 0
    let x := barOf t bid.toNat
    let counted := s.setTeam w.team { t with bars := kput t.bars bid.toNat ⟨x.arr + 1, m⟩ }
    let good := (cnt = true → 1 ≤ n ∧ n ≤ 64) ∧ (x.arr = 0 ∨ x.mode = m)
    (good → AllPerformed w → ¬ generationDone s w t bid.toNat m →
      (arv = true → Completes i s counted w { w with prologue := false }) ∧
      (arv = false → WaitsAt i s counted w w (.bar bid.toNat))) ∧
    (good → AllPerformed w → generationDone s w t bid.toNat m → ∃ s' w' t', exec i s = .next s' ∧
      s'.warp? s.cur = some w' ∧ GoesPast w w' i ∧
      w' = placedAs { w with prologue := false } w' ∧ CopiesShrink s s' ∧ (arv = false → Dropped s' w.core (teamScope t)) ∧
      s'.team? w.team = some t' ∧ t' = { t with bars := t'.bars } ∧ barOf t' bid.toNat = ⟨0, m⟩ ∧
      (∀ b, b ≠ bid.toNat → barOf t' b = barOf t b) ∧ (∀ k, k ≠ w.team → s'.team? k = s.team? k) ∧
      ∀ k v, k ≠ s.cur → s.warp? k = some v → ∃ v', s'.warp? k = some v' ∧
        ((∃ y, v.team = w.team ∧ v.wait = some y ∧ y.kind = .bar bid.toNat ∧ Resumes v v' v y ∧
          Dropped s' v.core (teamScope t)) ∨
        (v' = v ∧ ¬ ∃ y, v.team = w.team ∧ v.wait = some y ∧ y.kind = .bar bid.toNat))) ∧
    (¬ good → Traps i s w .mbar 0 (BitVec.allOnes 32) (BitVec.ofNat 32 (0x100 + bid.toNat)))

/-- R298, R310: GBAR waits until every warp of every team of its gang has arrived or exited; the last arrival frees them
all, with an acquire at the scope of each one's class. A class below the launch's raises GANG_CLASS. -/
def GbarWaitsForItsGang : Prop :=
  ∀ (h : WarpHdr) (cls : GbarCls) (s : State) (w : Warp) (t : Team), Issues s w h → InTeam s w t → w.inh = false →
    w.taskst = false → ksorted s.warps = true → ksorted s.frames = true → MayEndHere w (.gbar h cls) →
    (t.desc.gclass ≤ gangClass cls → AllPerformed w → NothingToWriteBack s w (gangScope cls) →
      (¬ GangArrived s t → WaitsAt (.gbar h cls) s s w w (.gbar cls)) ∧
      (GangArrived s t → ∃ s' w', exec (.gbar h cls) s = .next s' ∧ s'.warp? s.cur = some w' ∧
        GoesPast w w' (.gbar h cls) ∧
        w' = placedAs { w with prologue := false } w' ∧ CopiesShrink s s' ∧ Dropped s' w.core (gangScope cls) ∧
        ∀ k v, k ≠ s.cur → s.warp? k = some v → ∃ v', s'.warp? k = some v' ∧
          ∀ y c u, v.wait = some y → y.kind = .gbar c → (v.team, u) ∈ s.teams → SameGang t u →
            Resumes v v' v y ∧ Dropped s' v.core (gangScope c))) ∧
    (gangClass cls < t.desc.gclass →
      Traps (.gbar h cls) s w .gangClass 0 (BitVec.allOnes 32) (BitVec.ofNat 32 t.desc.gclass))

/-- R48, R79: LEXIT ends the lanes of X and passes the other active lanes on; EXIT ends every active lane. An ended lane
keeps its vpc and loses its pending results; an atomic that it has issued is still performed. With the last live lane the
warp has exited: its loop records go, and of its windows all but those with such atomics. -/
def ExitWordsEndTheirLanes : Prop :=
  ∀ (lh : LaneHdr) (wh : WarpHdr) (s : State) (w : Warp) (t : Team), s.warp? s.cur = some w → InTeam s w t → w.inh = false →
    w.wait = none → w.taskst = false →
    let ends (i : Instr) (x : LaneMask) : Prop :=
      (w.live &&& ~~~x ≠ 0 → ∃ w', exec i s = .next (s.setWarp s.cur w') ∧
        w' = { placedAs w w' with live := w.live &&& ~~~x, windows := w'.windows } ∧ w'.loops = w.loops ∧
        w'.lc = w.lc ∧ w'.hpc = w.hpc ∧ w'.hloops = w.hloops ∧
        (∀ l < 32, w'.vpcOf l =
          if laneBit w.active l ∧ ¬ laneBit x l then (w.issueAddr + 4) % 2 ^ 57 else w.vpcOf l) ∧
        ∀ y ∈ w'.windows, ∃ z ∈ w.windows, y = { z with lanes := y.lanes, dead := y.dead } ∧
          ((¬ ∃ vd n, z.dest = .lanes vd n) → y = z) ∧
          ((∃ vd n, z.dest = .lanes vd n) → y.lanes = z.lanes &&& ~~~x ∧
            ((∃ op, z.acc.kind = .atomic op) → y.dead = z.dead ||| (z.lanes &&& x &&& ~~~z.ready)) ∧
            ((¬ ∃ op, z.acc.kind = .atomic op) → y.dead = z.dead))) ∧
      (w.live &&& ~~~x = 0 → ∃ s' w', exec i s = .next s' ∧ s'.warp? s.cur = some w' ∧ w'.exited = true ∧ w'.live = 0 ∧
        (∀ y ∈ w'.windows, y.closed = true ∧ y.lanes = 0 ∧ y.dead ≠ 0) ∧ w'.loops = [] ∧ w'.storeQ = w.storeQ ∧ w'.opLog = w.opLog ∧ w'.v = w.v ∧ w'.s = w.s ∧
        (∀ l < 32, laneBit x l = true → w'.vpcOf l = w.vpcOf l) ∧ SameMemory s s' ∧ s'.cores = s.cores)
    (w.role = .epilogue → ¬ EndsLoop w (.lexit lh) → ends (.lexit lh) (w.exec lh)) ∧
    (w.qGuard wh = true → ¬ EndsLoop w (.exit wh) → ends (.exit wh) w.active)

/-- R43, R95, R96: CAPQ opens a window for the value of its index and a predicate that tells whether the index is known.
It takes the value at issue (the model's choice, notes/assumptions/122.md). -/
def CapqOpensAWindow : Prop :=
  ∀ (h : WarpHdr) (d : Reg) (la : BitVec 4) (idx : BitVec 16) (qk : BitVec 3) (s : State) (w : Warp), Issues s w h →
    MayEndHere w (.capq h d la idx qk) → ∃ w1 x, Completes (.capq h d la idx qk) s s w w1 ∧
      w1 = { w with seq := w1.seq, windows := w.windows ++ [x] } ∧ x.la = la.toNat ∧ x.count = 0 ∧ x.handler = w.inh ∧
      x.closed = false ∧ x.lanes = 1 ∧ x.ready = 1 ∧ x.late = 0 ∧
      x.dest = .capq d.toNat qk.toNat (BitVec.ofNat 32 ((s.capability idx.toNat).getD 0)) (s.capability idx.toNat).isSome

/-- R313, R314: TEAM_STALL on a team whose warps have all exited or been parked for 1 ms raises its cause on each warp that
has not exited, with that warp's parking kind, and changes no warp of another gang. -/
def ParkedTeamsAreStalled : Prop :=
  ∀ (s : State) (tid : Nat) (t : Team), s.team? tid = some t → (tid, t) ∈ s.teams → ParkedForGood s tid t → ∃ s',
    exec (.teamStall tid) s = .next s' ∧ s' = { s with warps := s'.warps } ∧
    (∀ k w, s.warp? k = some w → w.team = tid → w.exited = false → ∀ x c, w.wait = some x → parkedKind x.kind = some c →
      ∃ n, s'.warp? k = some { w with pending := w.pending ++ [(⟨.teamStall, 0, BitVec.allOnes 32, c⟩, n)] }) ∧
    ∀ k w, s.warp? k = some w → (∀ u, (w.team, u) ∈ s.teams → ¬ SameGang t u) → s'.warp? k = some w

/-- R238, R239, R241: MBINIT binds, resets or unbinds a record, and frees the warps that wait on another phase than 0;
MBEXP adds to its pending bytes; MBARR takes an arrival from it once the warp's accesses are performed. The phase
completes when no arrival and no byte is missing, and frees the warps that wait on an older one. Misuse raises MBAR with
the barrier's index. That MBARR waits at issue until the store queue is empty is the model's reading of R208
(notes/assumptions/37.md). -/
def BarrierRecordWordsChangeTheirRecord : Prop :=
  ∀ (h : WarpHdr) (bi : BitVec 5) (sa : Reg) (tx : Bool) (s : State) (w : Warp) (t : Team), Issues s w h → InTeam s w t →
    w.taskst = false → MayEndHere w (.mbinit h bi sa) → MayEndHere w (.mbexp h bi sa) → MayEndHere w (.mbarr h bi sa tx) →
    let b := bi.toNat
    let n := (w.sr sa.toNat).toNat
    let misused (i : Instr) : Prop := Traps i s w .mbar 0 (BitVec.allOnes 32) (BitVec.ofNat 32 b)
    (recordOf t w b = none → misused (.mbexp h bi sa) ∧ misused (.mbarr h bi sa tx)) ∧
    (∀ x, recordOf t w b = some x →
      (x.err = true ∨ 2 ^ 23 ≤ x.pend + n → misused (.mbexp h bi sa)) ∧
      (x.err = false → x.pend + n < 2 ^ 23 → ChangesRecord (.mbexp h bi sa) s w t b { x with pend := x.pend + n }) ∧
      (x.err = true ∨ x.arrive = 0 ∨ (tx = true ∧ 2 ^ 23 ≤ x.pend + n) → misused (.mbarr h bi sa tx)) ∧
      (x.err = false → x.arrive ≠ 0 → (tx = true → x.pend + n < 2 ^ 23) →
        (LoadsDone w → w.storeQ ≠ [] → WaitsAt (.mbarr h bi sa tx) s s w w .atIssue) ∧
        (AllPerformed w → ChangesRecord (.mbarr h bi sa tx) s w t b
          { x with pend := if tx then x.pend + n else x.pend, arrive := x.arrive - 1 }))) ∧
    (65535 < n ∨ (∃ x, recordOf t w b = some x ∧ ¬ Idle s w b x) → misused (.mbinit h bi sa)) ∧
    (n ≤ 65535 → (∀ x, recordOf t w b = some x → Idle s w b x) →
      (n = 0 → Completes (.mbinit h bi sa) s (s.setTeam w.team { t with mbars := kdel t.mbars (w.part * 32 + b) }) w
        { w with prologue := false }) ∧
      (n ≠ 0 → recordOf t w b ≠ none ∨ (boundRecords s w.core < 32 ∧ ∀ e ∈ s.warps, ∀ y, e.2.wait = some y → y.kind ≠ .mbinit) →
        RecordBecomes (.mbinit h bi sa) s w t b ⟨0, n, n, 0, false⟩ True) ∧
      (n ≠ 0 → recordOf t w b = none → 32 ≤ boundRecords s w.core → WaitsAt (.mbinit h bi sa) s s w w .mbinit))

/-- R241, R242: MBWAIT answers true, with an acquire, when the phase has moved on, false when its limit is 0, and waits
otherwise; a wait whose limit has passed ends with false, or with true and an acquire when the phase has moved on. -/
def MbwaitAnswersWhetherThePhaseMovedOn : Prop :=
  (∀ (h : WarpHdr) (bi : BitVec 5) (sa sb : Reg) (qd : BitVec 3) (s : State) (w : Warp) (t : Team) (x : Mbar),
    Issues s w h → InTeam s w t → w.taskst = false → MayEndHere w (.mbwait h bi sa sb qd) →
    recordOf t w bi.toNat = some x → x.err = false →
    let i : Instr := .mbwait h bi sa sb qd
    let answers (s1 : State) (b : Bool) : Prop :=
      ∃ w1, Completes i s s1 w { w1 with prologue := false } ∧ ButQ w w1 ∧ SetsQ w w1 qd.toNat b
    (x.phase ≠ w.sr sa.toNat → ∃ s1, Acquired s s1 w.core .device ∧ answers s1 true) ∧
    (x.phase = w.sr sa.toNat → w.sr sb.toNat = 0 → answers s false) ∧
    (x.phase = w.sr sa.toNat → w.sr sb.toNat ≠ 0 →
      WaitsAt i s s w w (.mbwait bi.toNat (w.sr sa.toNat) qd.toNat s.time.toNat (w.sr sb.toNat)))) ∧
  ∀ (s : State) (wid : Nat) (w : Warp) (x : Wait) (b : Nat) (ph : W32) (qd start : Nat) (limit : W32),
    Holding s wid w x → x.kind = .mbwait b ph qd start limit → limit ≠ 0xFFFFFFFF → start + limit.toNat ≤ s.time.toNat →
    ((∀ t m, InTeam s w t → recordOf t w b = some m → m.phase = ph) →
      ∃ w1 w', exec (.mbwaitTimeout wid) s = .next (s.setWarp wid w') ∧ ButQ w w1 ∧ SetsQ w w1 qd false ∧
        Resumes w w' w1 x) ∧
    ((∃ t m, InTeam s w t ∧ recordOf t w b = some m ∧ m.phase ≠ ph) →
      ∃ s1 w1 w', exec (.mbwaitTimeout wid) s = .next (s1.setWarp wid w') ∧ Acquired s s1 w.core .device ∧
        ButQ w w1 ∧ SetsQ w w1 qd true ∧ Resumes w w' w1 x)

/-- R67, R71, R73: an unallocated opcode raises ILLEGAL_OP with the word in TINFO and has no other effect. -/
def UnallocatedOpcodesAreIllegal : Prop :=
  ∀ (i : W32) (s : State) (w : Warp), s.warp? s.cur = some w →
    let lanes := if i.getLsbD 31 then BitVec.allOnes 32 else w.active
    Traps (.unallocatedOpcode i) s w .illegalOp 0 lanes i ∧ Doubles (.unallocatedOpcode i) s w .illegalOp 0 lanes i

/-- R391, R393: TRET leaves handler mode: the live lanes of TACT that stand at the trapped address go to TPC. Outside
handler mode it raises PRIV; a crooked or far TPC raises its cause, as DOUBLE. TINFO = 0 of VA_RANGE is the model's choice
(notes/assumptions/22.md). -/
def TretReturnsToTpc : Prop :=
  ∀ (h : WarpHdr) (s : State) (w : Warp), s.warp? s.cur = some w → w.wait = none → ¬ EndsLoop w (.tret h) →
    (w.inh = true → w.qGuard h = true → GoodTarget w.tpc.toNat → (∀ x ∈ w.windows, x.closed = true ∨ x.handler = false) →
      w.deferredWound = false → w.deferredRetry = none → (∀ e ∈ w.opLog, e.delivered = false) →
      (∀ k, kget w.waitK k 0 = 0) → ∃ w', exec (.tret h) s = .next (s.setWarp s.cur w') ∧
        w'.inh = false ∧ w' = { placedAs w w' with inh := false, counted := w'.counted, windows := w'.windows } ∧
        w'.loops = w.loops ∧ w'.lc = w.lc ∧ w'.hloops = w.hloops ∧
        (w'.counted, w'.windows) = (if w'.ready ≠ 0 ∧ w'.issueAddr = w.t0.toNat then (w.counted, w.windows)
          else (false, uncounted w)) ∧
        ∀ l < 32, w'.vpcOf l =
          if laneBit w.tact l ∧ laneBit w.live l ∧ canon57 (w.vpcOf l) = w.t0.toNat then w.tpc.toNat % 2 ^ 57
          else w.vpcOf l) ∧
    Traps (.tret h) s w .priv 0 (BitVec.allOnes 32) (firstWord (.tret h)) ∧
    (w.qGuard h = true → w.tpc.toNat % 4 ≠ 0 → Doubles (.tret h) s w .align w.tpc.toNat (BitVec.allOnes 32) 2) ∧
    (w.qGuard h = true → w.tpc.toNat % 4 = 0 → ¬ Canonical w.tpc.toNat →
      Doubles (.tret h) s w .vaRange w.tpc.toNat (BitVec.allOnes 32) 0)

/-- R82, R331, R391, R393: TRET settles the entry of the operand log that has been delivered: the lanes that TLANES holds
stay to be issued again, and the others, and those of an atomic that timed out, are cancelled: a window's write nothing
and are ready, a queued store's leave the queue; a copy goes on, or with TLANES 0 completes with its lines present. Before
that it makes the rollback, or the retry of a TABORT, that the handler has put off; after it, it releases the waiters of a
JOIN whose mask has arrived. -/
def TretSettlesWhatIsOwed : Prop :=
  ∀ (h : WarpHdr) (s : State) (w : Warp), s.warp? s.cur = some w → w.wait = none → ¬ EndsLoop w (.tret h) → w.inh = true →
    w.qGuard h = true → GoodTarget w.tpc.toNat → (∀ x ∈ w.windows, x.closed = true ∨ x.handler = false) →
    let i : Instr := .tret h
    let moved (l : Nat) : Nat :=
      if laneBit w.tact l ∧ laneBit w.live l ∧ canon57 (w.vpcOf l) = w.t0.toNat then w.tpc.toNat % 2 ^ 57 else w.vpcOf l
    let settled (w' : Warp) (ws : List Window) : Prop := (w'.counted, w'.windows) =
      if w'.ready ≠ 0 ∧ w'.issueAddr = w.t0.toNat then (w.counted, ws) else (false, uncounted { w with windows := ws })
    let returned (w' : Warp) : Prop := w' = { placedAs w w' with
        inh := false, counted := w'.counted, windows := w'.windows, opLog := w'.opLog, storeQ := w'.storeQ, waitK := w'.waitK
        jm := w'.jm, badRegs := w'.badRegs } ∧ SoundAfter w w' ∧ w'.loops = w.loops ∧ w'.lc = w.lc ∧ w'.hloops = w.hloops
    (∀ before e after, w.deferredWound = false → w.deferredRetry = none → (∀ k, kget w.waitK k 0 = 0) →
      w.opLog = before ++ e :: after → e.delivered = true → (∀ f ∈ before ++ after, f.delivered = false) →
      let gone (l : Nat) : Prop := laneBit e.trap.lanes l = true ∧
        ((if e.acc.scalar then w.tlanes = 0 else laneBit w.tlanes l = false) ∨ laneBit e.timedOut l = true)
      ∃ s' w', exec i s = .next (s'.setWarp s.cur w') ∧ returned w' ∧ w'.opLog = before ++ after ∧ w'.waitK = w.waitK ∧
        w'.jm = w.jm ∧ (∀ l < 32, w'.vpcOf l = moved l) ∧
        (∀ q x, e.source = .window q → w.windows.find? (fun y => y.acc.seq == q) = some x → s' = s ∧ w'.storeQ = w.storeQ ∧
          ∃ x', x' = { x with lanes := x'.lanes, dead := x'.dead } ∧
            (∀ l < 32, (laneBit x'.lanes l = true ↔ laneBit x.lanes l = true ∧ ¬ gone l) ∧
              (laneBit x'.dead l = true ↔ laneBit x.dead l = true ∧ ¬ gone l)) ∧
            settled w' (if x.closed ∧ x'.lanes = 0 ∧ x'.dead = 0 then w.windows.filter fun y => y.acc.seq != q
              else w.windows.map fun y => if y.acc.seq = q then x' else y)) ∧
        (∀ x rest, e.source = .store → w.storeQ = x :: rest → s' = s ∧ settled w' w.windows ∧ ∃ left,
          left.Sublist x.parts ∧ (∀ p ∈ x.parts, p.lane < 32 → (p ∈ left ↔ ¬ gone p.lane)) ∧
          w'.storeQ = if left = [] then rest else { x with parts := left } :: rest) ∧
        ∀ core k c, e.source = .copy core k → kget? (s.core core).copies k = some c → settled w' w.windows ∧ w'.storeQ = w.storeQ ∧
          (w.tlanes ≠ 0 → kget? (s'.core core).copies k = some { c with stopped := false } ∧ SameMemory s s') ∧
          (w.tlanes = 0 → kget? (s'.core core).copies k = none ∧ SameMemory s s' ∧ ∀ t, s.team? c.team = some t →
            (∀ o ∈ (s.core core).copies, o.1 ≠ k → o.2.team = c.team → o.2.go = true → ∀ line ∈ c.left, line ∉ o.2.left) →
            ∃ t', s'.team? c.team = some t' ∧
              ∀ line, (line ∈ c.left → line ∉ (kget t'.spads c.part ⟨[], [], []⟩).absent) ∧
                (line ∉ c.left → (line ∈ (kget t'.spads c.part ⟨[], [], []⟩).absent ↔
                  line ∈ (kget t.spads c.part ⟨[], [], []⟩).absent)))) ∧
    (∀ k x, w.deferredWound = true → SlotOf s w k x → (∀ f ∈ w.opLog, f.delivered = false) → ∃ s' w', exec i s = .next s' ∧
      s'.warp? s.cur = some w' ∧ RolledBack { w with inh := false, deferredWound := false } w' k x.snap ∧
      TaskFreed s s' s.cur w k ∧ SameMemory s s') ∧
    (∀ x pc, w.deferredWound = false → w.deferredRetry = some (x, pc) → (∀ f ∈ w.opLog, f.delivered = false) → ∃ w',
      exec i s = .next (s.setWarp s.cur w') ∧ SoundAfter w w' ∧
      w' = { w with
        v := x.v, s := x.s, p := x.p, q := x.q, lc := x.lc, loops := x.loops, jm := x.jm, link := x.link, fpflags := x.fpflags
        windows := owed w, waitK := [], inh := false, deferredRetry := none, counted := false, vpc := w'.vpc, opLog := w'.opLog
        badRegs := w'.badRegs } ∧
      (∀ l < 32, w'.vpcOf l = if laneBit w.live l then pc % 2 ^ 57 else (x.vpc.getD l 0).toNat) ∧
      ∀ f ∈ w'.opLog, f ∈ w.opLog) ∧
    ∀ k < 8, w.deferredWound = false → w.deferredRetry = none → (∀ f ∈ w.opLog, f.delivered = false) →
      (∀ e ∈ w.waitK, e.2 = if e.1 = k then kget w.waitK k 0 else 0) →
      let waiting := kget w.waitK k 0
      let released : Prop := kget w.jm k 0 &&& w.live &&& ~~~waiting = 0
      ∃ w', exec i s = .next (s.setWarp s.cur w') ∧ returned w' ∧ w'.opLog = w.opLog ∧ w'.storeQ = w.storeQ ∧
        settled w' w.windows ∧ (∀ j, j ≠ k → kget w'.waitK j 0 = 0 ∧ kget w'.jm j 0 = kget w.jm j 0) ∧
        (released → kget w'.waitK k 0 = 0 ∧ kget w'.jm k 0 = kget w.jm k 0 &&& ~~~waiting ∧
          ∀ l < 32, w'.vpcOf l = if laneBit waiting l then (moved l + 4) % 2 ^ 57 else moved l) ∧
        (¬ released → kget w'.waitK k 0 = waiting ∧ kget w'.jm k 0 = kget w.jm k 0 ∧ ∀ l < 32, w'.vpcOf l = moved l)

/-- R78: BRX reads its entry, the last one for a greater index, and moves the warp to the word's address plus it. A crooked
base raises ALIGN; a target that is no multiple of 4 raises ALIGN, else one that is not canonical VA_RANGE, and no lane
moves. TINFO = 0 of VA_RANGE is the model's choice (notes/assumptions/22.md). -/
def BrxBranchesThroughItsTable : Prop :=
  ∀ (h : WarpHdr) (sa sb : Reg) (n : BitVec 16) (s s1 : State) (w : Warp) (t : Team) (pa key : Nat), Issues s w h →
    InTeam s w t → sa.toNat + 2 ≤ 64 → s.bad = [] → ¬ EndsLoop w (.brx h sa sb n) →
    let i : Instr := .brx h sa sb n
    let b := srPair w sa
    let a := b + 4 * min (w.sr sb.toNat).toNat n.toNat
    let entry : W32 := BitVec.ofNat 32 (unitOf (fun k => s.homeByte (.own (pa + k) key)) 4)
    let target := (w.issueAddr : Int) + entry.toInt
    (b % 4 ≠ 0 → Traps i s w .align b (BitVec.allOnes 32) 2) ∧
    (b % 4 = 0 → ¬ InSpace t .glob a 4 → Traps i s w .vaRange a (BitVec.allOnes 32) 0) ∧
    (b % 4 = 0 → InSpace t .glob a 4 → NothingBefore w → s.fab = [] →
      OwnUnit s s1 w t (.word s.cur 0) .read a .b32 pa key → kget? (s.core w.core).l1 (pa / 128 * 128 + key) = none →
      let raises (c : Cause) (info : W32) : Prop := ∀ n, HasHandler s w n → ∃ s', LoadKeeps s s' ∧ SameMemory s s' ∧
        exec i s = .next ((withdrawnWord s').setWarp s.cur
          (entered w n c (target % 2 ^ 64).toNat (BitVec.allOnes 32) info))
      (0 ≤ target → GoodTarget target.toNat → ∃ s' w', exec i s = .next s' ∧ s'.warp? s.cur = some w' ∧
        LoadKeeps s s' ∧ SameMemory s s' ∧ MovedTo w w' (fun _ => target.toNat) ∧ w' = placedAs w w') ∧
      (target % 4 ≠ 0 → raises .align 2) ∧
      (target % 4 = 0 → ¬ (0 ≤ target ∧ Canonical target.toNat) → raises .vaRange 0))

/-- R344, R381: TIERQ answers 0 when no leaf maps its address, and otherwise V, the page size and the tier, with the state
of the lease for an allotment. A non-canonical address raises VA_RANGE, its TINFO 0 by the model's choice
(notes/assumptions/22.md); a damaged table entry is reported and raises DATA_ERR (R406; the model's choice for a query,
notes/assumptions/152.md). -/
def TierqAnswersFromTheLeaf : Prop :=
  ∀ (h : WarpHdr) (d sa : Reg) (s : State) (w : Warp) (t : Team), Issues s w h → InTeam s w t → sa.toNat + 2 ≤ 64 →
    MayEndHere w (.tierq h d sa) →
    let va := srPair w sa
    let tierAt (pa : Nat) : Nat := if Config.homeDie pa = w.core / 192 then 0 else 1
    let gives (v : Nat) : Prop := ({ word := .tierq h d sa, hdr := h, reg := putS d fun _ => BitVec.ofNat 32 v } : WarpRow).Runs s w
    (¬ Canonical va → Traps (.tierq h d sa) s w .vaRange va (BitVec.allOnes 32) 0) ∧
    (Canonical va → (s.core w.core).tlb = [] → s.tlb0 = [] → s.tlb1 = [] →
      (kget? s.contexts t.ctx = none → gives 0) ∧
      ∀ c, kget? s.contexts t.ctx = some c →
        ((∀ e, walk s t.ctx c va ≠ .leaf e) → (∀ pa, walk s t.ctx c va ≠ .bad pa) → gives 0) ∧
        (∀ pa n, walk s t.ctx c va = .bad pa → HasHandler s w n → exec (.tierq h d sa) s =
          .next ((withdrawnWord (s.reportBad t.ctx w.num w.core 1 pa)).setWarp s.cur
            (entered w n .dataErr va (BitVec.allOnes 32) 1))) ∧
        ∀ e, walk s t.ctx c va = .leaf e →
          (e.tier < 2 → gives (0x80 + 16 * pageCode e.size + tierAt (e.frame + (va % 2 ^ 57 - e.va)))) ∧
          (e.tier = 3 → gives (0x80 + 16 * pageCode e.size + 3)) ∧
          (e.tier = 2 → s.leases = [] → gives (0x80 + 16 * pageCode e.size + 14)))

/-- R320 to R325: TBEGIN takes the lowest free slot with a snapshot and a new stamp, or the old one on a restart, and writes
the restart count; TEND writes the buffer's bytes at their homes and releases everything, or raises SET at the lowest unit
whose page has another tier; TABORT.retry rolls back and TABORT.exit only leaves the task. TBEGIN in a launch with a refused
set raises SET, and a diverged TBEGIN, TEND or TABORT.exit raises TASK. -/
def TaskWordsBeginCommitAndAbort : Prop :=
  ∀ (h : WarpHdr) (sd : Reg) (s : State) (w : Warp) (t : Team), Issues s w h → InTeam s w t → w.role = .epilogue →
    MayEndHere w (.tbegin h sd) → MayEndHere w (.tend h) → (∀ b, MayEndHere w (.tabort h b)) →
    (w.inh = false → w.taskst = false → t.refusedSet = none → NoOpenWindow w → w.active = w.live →
      (∀ k, SlotFree s w s.cur k → ∃ w1, WithScalar (begun s w s.cur w.issueAddr k).2 w1 sd
          (if w.taskPending then w.trc else 0) ∧
        Completes (.tbegin h sd) s (begun s w s.cur w.issueAddr k).1 w { w1 with prologue := false }) ∧
      ((∀ k < 8, kget? (s.core w.core).tasks k ≠ none) → WaitsAt (.tbegin h sd) s s w w .taskSlot)) ∧
    (w.inh = false → w.taskst = false →
      (∀ k, t.refusedSet = some k → Traps (.tbegin h sd) s w .set 0 (BitVec.allOnes 32) (BitVec.ofNat 32 k)) ∧
      (t.refusedSet = none → NoOpenWindow w → w.active ≠ w.live →
        Traps (.tbegin h sd) s w .task 0 (BitVec.allOnes 32) (warpOpcode (.tbegin h sd)))) ∧
    (w.inh = false → w.taskst = true → NoOpenWindow w → w.active ≠ w.live →
      Traps (.tend h) s w .task 0 (BitVec.allOnes 32) (warpOpcode (.tend h)) ∧
      Traps (.tabort h true) s w .task 0 (BitVec.allOnes 32) (warpOpcode (.tabort h true))) ∧
    (w.inh = false → w.taskst = true →
      Traps (.tbegin h sd) s w .task 0 (BitVec.allOnes 32) (warpOpcode (.tbegin h sd))) ∧
    (w.inh = false → w.taskst = false → ∀ i ∈ [Instr.tend h, .tabort h false, .tabort h true],
      Traps i s w .task 0 (BitVec.allOnes 32) (warpOpcode i)) ∧
    (∀ k x, w.taskst = true → SlotOf s w k x →
      (w.inh = false → NoOpenWindow w → w.active = w.live →
        (CommitReady s w x → x.buf = [] → ∃ s1, TaskFreed s s1 s.cur w k ∧ SameMemory s s1 ∧
          Completes (.tend h) s s1 w { w with taskst := false, task := none }) ∧
        (∀ a u s1 pa key, CommitReady s w x → x.buf = [(a, u)] →
          OwnUnit s s1 w t (.commit s.cur a) .write (16 * a) .b128 pa key →
          (∃ l tier, tier < 2 ∧ translate s (.commit s.cur a) t.ctx (some w.core) (w.core / 192) (16 * a) .write = .ok s1 l tier) →
          ∃ s2, TaskFreed s s2 s.cur w k ∧
          SameElsewhere s s2 pa 16 key ∧ Completes (.tend h) s s2 w { w with taskst := false, task := none } ∧
          ∀ j < 16, s2.homeByte (.own (pa + j) key) =
            if u.mask.getLsbD j then u.bytes.getD j 0 else s.homeByte (.own (pa + j) key)) ∧
        (∀ place : Nat → Nat × Nat, CommitReady s w x →
          (∀ e ∈ x.buf, OwnUnit s s w t (.commit s.cur e.1) .write (16 * e.1) .b128 (place e.1).1 (place e.1).2) →
          x.buf.Pairwise (fun e f => place e.1 ≠ place f.1) →
          (∀ e ∈ x.buf, ∃ l tier, tier < 2 ∧ translate s (.commit s.cur e.1) t.ctx (some w.core) (w.core / 192) (16 * e.1) .write =
            .ok s l tier) → ∃ s2, TaskFreed s s2 s.cur w k ∧
          Completes (.tend h) s s2 w { w with taskst := false, task := none } ∧
          (∀ e ∈ x.buf, ∀ j < 16, s2.homeByte (.own ((place e.1).1 + j) (place e.1).2) =
            if e.2.mask.getLsbD j then e.2.bytes.getD j 0 else s.homeByte (.own ((place e.1).1 + j) (place e.1).2)) ∧
          (∀ q n, n < 128 → (∀ e ∈ x.buf, n ≠ (place e.1).2 ∨ q < (place e.1).1 ∨ (place e.1).1 + 16 ≤ q) →
            s2.homeByte (.own q n) = s.homeByte (.own q n)) ∧
          (∀ d q, s2.homeByte (.peer d q) = s.homeByte (.peer d q)) ∧ ∀ q, s2.homeByte (.host q) = s.homeByte (.host q)) ∧
        (∀ us a u rest n g, CommitReady s w x → x.buf = us ++ (a, u) :: rest → InSet s t u.va n g →
          (∀ e ∈ us, ∃ l tier, tier < 2 ∧ translate s (.commit s.cur e.1) t.ctx (some w.core) (w.core / 192) (16 * e.1) .write =
            .ok s l tier) →
          (∃ l tier, 2 ≤ tier ∧ translate s (.commit s.cur a) t.ctx (some w.core) (w.core / 192) (16 * a) .write =
            .ok s l tier) →
          Traps (.tend h) s w .set u.va (BitVec.allOnes 32) (BitVec.ofNat 32 n)) ∧
        (x.asked ≠ [] ∨ x.unsent ≠ [] → WaitsAt (.tend h) s s w w .commit)) ∧
      (w.inh = false → ∃ s1 w', exec (.tabort h false) s = .next s1 ∧ s1.warp? s.cur = some w' ∧
        RolledBack w w' k x.snap ∧ TaskFreed s s1 s.cur w k ∧ SameMemory s s1) ∧
      (w.inh = true ∨ w.active = w.live → ∃ s1, TaskFreed s s1 s.cur w k ∧ SameMemory s s1 ∧
        Completes (.tabort h true) s s1 w { w with taskst := false, task := none, deferredWound := false }) ∧
      (w.inh = true → ∃ s1, TaskFreed s s1 s.cur w k ∧ SameMemory s s1 ∧
        Completes (.tabort h false) s s1 w { w with
          taskst := false, task := none, deferredWound := false, deferredRetry := some (x.snap, k.beginPc)
          trc := w.trc + 1, taskPending := true }))

/-- R235, R328: a store inside a task to set memory writes its bytes into the task's write buffer, the highest lane's
last, and requests the granules that it touches, in ascending address; it enters no store queue. Outside every set it
raises TASK with the opcode, on a page of another tier SET with the set's number, and where all 512 units are in use
TASK_CAP, and writes nothing. The words that R235 forbids raise TASK. -/
def SetStoresEnterTheirBuffer : Prop :=
  ∀ (d a b : Reg) (la : BitVec 4) (op : Aop) (off : BitVec 24) (off14 : BitVec 14) (size : Size) (scope : Scope) (ord : Ord)
    (s : State) (w : Warp) (t : Team), InTeam s w t → w.taskst = true → off14.toInt = off.toInt →
    (∀ (h : LaneHdr) (tk : Task) (k : TaskSlot), SlotOf s w tk k → s.fab = [] → (∀ e ∈ k.buf, e.2.bytes.length = 16) →
      IssuesLane s w → d.toNat + size.regs ≤ w.vregs → a.toNat + 2 ≤ w.vregs → MayEndHere w (.st h d a off size scope ord) →
      w.exec h ≠ 0 →
      (∀ l < 32, laneBit (w.exec h) l = true → LaneAccessible s w t .glob l (laneAt w .glob a off.toInt l) size) →
      let ad (l : Nat) : Nat := (laneAt w .glob a off.toInt l).toNat
      StoresInTask (.st h d a off size scope ord) size (w.exec h) ad (fun l => reached s w t l (ad l))
        (fun l => tab size.regs fun j => w.vr l (d.toNat + j))
        (fun s1 l => translateLane s1 (.word s.cur l) t.ctx w l (ad l) size.bytes .write) id
        (laneOpcode (.st h d a off size scope ord)) s w t tk k) ∧
    (∀ (h : WarpHdr) (tk : Task) (k : TaskSlot), SlotOf s w tk k → s.fab = [] → (∀ e ∈ k.buf, e.2.bytes.length = 16) →
      Issues s w h → d.toNat + size.regs ≤ 64 → a.toNat + 2 ≤ 64 → MayEndHere w (.sst h d a off size scope ord) →
      Accessible t .glob (scalarAt w .glob a off.toInt) size →
      let ad : Nat := (scalarAt w .glob a off.toInt).toNat
      StoresInTask (.sst h d a off size scope ord) size 1 (fun _ => ad) (fun _ => ad)
        (fun _ => tab size.regs fun j => w.sr (d.toNat + j))
        (fun s1 _ => translate s1 (.word s.cur 0) t.ctx (some w.core) (w.core / 192) ad .write) (fun _ => BitVec.allOnes 32)
        (warpOpcode (.sst h d a off size scope ord)) s w t tk k) ∧
    (∀ h : LaneHdr, IssuesLane s w → w.exec h ≠ 0 → d.toNat + size.regs ≤ w.vregs → a.toNat + 2 ≤ w.vregs →
      b.toNat + operandRegs op size ≤ w.vregs →
      (∀ f ∈ ({ word := .sts h d a off size ord, sp := .spad } : MemForm) :: { word := .accwr h d a off size, sp := .orang } ::
          laneAtomics h d a la b op off14 size scope ord, MayEndHere w f.word → (∀ l < 32, laneBit (w.exec h) l = true → LaneAccessible s w t f.sp l (laneAt w f.sp a off.toInt l) size) →
        Traps f.word s w .task 0 (w.exec h) (laneOpcode f.word)) ∧
      (MayEndHere w (.discard h a off) →
        (∀ l < 32, laneBit (w.exec h) l = true → LaneInSpace s w t .glob l (laneAt w .glob a off.toInt l) 1) →
        Traps (.discard h a off) s w .task 0 (w.exec h) (laneOpcode (.discard h a off))) ∧
      ∀ l, MayEndHere w (.cst h d a off size scope ord) → IsLowest (w.exec h) l →
        let ls := (List.range 32).filter fun j => laneBit (w.exec h) j
        let at0 := laneAt w .glob a off.toInt l
        at0 % size.bytes = 0 → InSpace t .glob at0 (ls.length * size.bytes) →
        (∀ j < ls.length, BackingInRange s w (ls.getD j 0) (at0 + (j * size.bytes : Nat)) size.bytes) →
        Traps (.cst h d a off size scope ord) s w .task 0 (w.exec h) (laneOpcode (.cst h d a off size scope ord))) ∧
    ∀ h : WarpHdr, Issues s w h → d.toNat + size.regs ≤ 64 → a.toNat + 2 ≤ 64 → b.toNat + operandRegs op size ≤ 64 →
      let refuses (i : Instr) : Prop := MayEndHere w i → Traps i s w .task 0 (BitVec.allOnes 32) (warpOpcode i)
      (Accessible t .spad (scalarAt w .spad a off.toInt) size → refuses (.ssts h d a off size ord)) ∧
      (Accessible t .glob (scalarAt w .glob a off.toInt) size → refuses (.satom h d a la b op off14 size scope ord)) ∧
      let o := (w.sr a.toNat).toNat
      let n := (w.sr b.toNat).toNat
      n ≠ 0 → o % 128 = 0 → InSpace t .spad o (128 * n) → refuses (.spclr h a b)

/-- R225, R328: a load inside a task from set memory requests its granule and waits for it. With the granule held it reads its
unit at its home, under the bytes that the task's buffer holds, and its core keeps no copy of the line; on a page of another
tier SET enters the operand log with the set's number. Here a scalar load, and a load by one lane. -/
def SetLoadsReadHomeAndBuffer : Prop :=
  ∀ (d a : Reg) (la : BitVec 4) (sx : Bool) (off : BitVec 24) (size : Size) (scope : Scope) (ord : Ord) (s : State) (w : Warp)
    (t : Team) (tk : Task) (k : TaskSlot) (set g : Nat), InTeam s w t → w.taskst = true → SlotOf s w tk k → NothingBefore w →
    (∀ y ∈ w.windows, y.acc.seq < w.seq) → s.fab = [] → s.bad = [] → (∀ e ∈ k.buf, ∀ v ∈ e.2.hist, v.1 < w.seq) →
    (∀ h : WarpHdr, Issues s w h → d.toNat + size.regs ≤ 64 → a.toNat + 2 ≤ 64 →
      MayEndHere w (.sld h d a la sx off size scope ord) → Accessible t .glob (scalarAt w .glob a off.toInt) size →
      let ad : Nat := (scalarAt w .glob a off.toInt).toNat
      InSet s t ad set g →
      ReadsInTask (.sld h d a la sx off size scope ord) size sx 0 ad ad
        (translate s (.lane s.cur w.seq 0) t.ctx (some w.core) (w.core / 192) ad .read) (BitVec.allOnes 32) set g s w t tk k) ∧
    ∀ (h : LaneHdr) (l : Nat), IssuesLane s w → d.toNat + size.regs ≤ w.vregs → a.toNat + 2 ≤ w.vregs →
      MayEndHere w (.ld h d a la sx off size scope ord) → l < 32 → w.exec h = 1#32 <<< l →
      LaneAccessible s w t .glob l (laneAt w .glob a off.toInt l) size →
      let ad : Nat := (laneAt w .glob a off.toInt l).toNat
      InSet s t ad set g →
      ReadsInTask (.ld h d a la sx off size scope ord) size sx l ad (reached s w t l ad)
        (translateLane s (.lane s.cur w.seq l) t.ctx w l ad size.bytes .read) (1#32 <<< l) set g s w t tk k

/-- R279 to R287: the pergola words of a warp with nothing left to perform, where no other word waits at the pergola. A
word waits at issue when one that comes later in the order of this cycle has reached the pergola. QINIT empties the
pergola and sets its depth; QPUSH appends the pair, parks at a full one and raises QUEUE at a closed one; QPOP takes the
oldest entry, parks at an empty one, and answers false at one that is closed and drained; QTRY never waits; QCLOSE closes;
QLEN reports. Both the wait at issue and the place behind parked words are readings of R281 and R286
(notes/assumptions/27.md and 60.md). -/
def PergolaWordsActOnTheirQueue : Prop :=
  ∀ (h : WarpHdr) (sd sa : Reg) (qd : BitVec 3) (pq : BitVec 4) (sc : Scope) (b : Bool) (s : State) (w : Warp) (t : Team),
    Issues s w h → InTeam s w t → AllPerformed w → s.bad = [] →
    let q := pq.toNat
    let full := pergDepth (t.desc.perg.getD q 0)
    let p := pergolaOf t q
    let init : Instr := .qinit h sa pq
    let push : Instr := .qpush h sa pq sc (if b then .rel else .rlx)
    let pop : Instr := .qpop h sd qd pq sc (if b then .acq else .rlx)
    let try' : Instr := .qtry h sd qd pq sc (if b then .acq else .rlx)
    let close : Instr := .qclose h pq sc (if b then .rel else .rlx)
    let queue (i : Instr) : Prop := Traps i s w .queue 0 (BitVec.allOnes 32) (BitVec.ofNat 32 q)
    let t1 := reachedBy s w t q
    let here : State := s.setTeam w.team t1
    let becomes (x : Pergola) : State := s.setTeam w.team (withPergola t1 q x)
    let done (w1 : Warp) : Warp := { w1 with prologue := false }
    let released : Prop := b = true → NothingToWriteBack s w sc
    (∀ i ∈ [init, push, pop, try', close], MayEndHere w i) → w.taskst = false →
    (pergValid (t.desc.perg.getD q 0) = true → ¬ MayReach s w t q → NoneWaits s w.team (fun k => pushes q k ∨ pops q k) →
      w.inh = false → sa.toNat + 2 ≤ 64 → sd.toNat + 2 ≤ 64 → released → (w.sr sa.toNat).toNat ≤ full →
      ∀ i ∈ [init, push, pop, try', close], WaitsAt i s s w w .atIssue) ∧
    (pergValid (t.desc.perg.getD q 0) = true → MayReach s w t q →
      (w.inh = false →
        let d := (w.sr sa.toNat).toNat
        (d ≤ full → NoneWaits s w.team (fun k => pushes q k ∨ pops q k) → Completes init s
          (becomes { p with depth := if d = 0 then full else d, wpos := 0, rpos := 0, shut := false }) w (done w)) ∧
        (full < d ∨ ¬ NoneWaits s w.team (fun k => pushes q k ∨ pops q k) → queue init)) ∧
      (w.inh = false → sa.toNat + 2 ≤ 64 → released →
        let v : W64 := BitVec.ofNat 64 (srPair w sa)
        (p.shut = true → TrapsFrom push s here w .queue 0 (BitVec.allOnes 32) (BitVec.ofNat 32 q)) ∧
        (p.shut = false → pergCount p < p.depth → NoneWaits s w.team (fun k => pushes q k ∨ pops q k) →
          Completes push s (s.setTeam w.team (withEntry t1 q (pushed p v))) w (done w)) ∧
        (p.shut = false → p.depth ≤ pergCount p → WaitsAt push s here w w (.pushQ q v b sc))) ∧
      (sd.toNat + 2 ≤ 64 → NoneWaits s w.team (fun k => pushes q k ∨ pops q k) →
        (∀ i ∈ [pop, try'], i = try' ∨ w.inh = false →
          (pergCount p ≠ 0 → ∃ s1 w1, PopFence (becomes (popped p)) s1 w.core b sc ∧
            Took w w1 sd.toNat qd.toNat (oldest p) ∧ Completes i s s1 w (done w1)) ∧
          (pergCount p = 0 → p.shut = true → ∃ s1 w1, PopFence here s1 w.core b sc ∧ TookNone w w1 qd.toNat ∧
            Completes i s s1 w (done w1))) ∧
        (pergCount p = 0 → p.shut = false →
          (w.inh = false → WaitsAt pop s here w w (.popQ q sd.toNat qd.toNat b sc)) ∧
          ∃ w1, TookNone w w1 qd.toNat ∧ Completes try' s here w (done w1))) ∧
      (w.inh = false → released → NoneWaits s w.team (fun k => pushes q k ∨ pops q k) → Completes close s (becomes { p with shut := true }) w (done w))) ∧
    (pergValid (t.desc.perg.getD q 0) = false → sa.toNat + 2 ≤ 64 → sd.toNat + 2 ≤ 64 → ∀ i ∈ [init, push, pop, try', close],
      queue i)

/-- R279, R285, R286: QLEN reports a pergola in or out of a task; with s63 it raises REG_RANGE. A push to an empty pergola at
which one pop has parked hands it the entry at once. Of the parked words that can be performed the one that parked first is:
a push appends what it read at its issue, a pop takes the oldest entry or learns that the pergola is closed and drained, and a
push at a closed one raises QUEUE. -/
def ParkedPergolaWordsGoInOrder : Prop :=
  (∀ (h : WarpHdr) (sd : Reg) (pq : BitVec 4) (s : State) (w : Warp) (t : Team), s.warp? s.cur = some w → InTeam s w t →
    MayEndHere w (.qlen h sd pq) → (sd.toNat = 63 → Traps (.qlen h sd pq) s w .regRange 0 (BitVec.allOnes 32)
      (firstWord (.qlen h sd pq))) ∧ (sd.toNat < 63 → pergValid (t.desc.perg.getD pq.toNat 0) = true →
    let p := pergolaOf t pq.toNat
    let n := (if p.shut then 2 ^ 31 else 0) + p.depth * 2 ^ 16 + pergCount p
    ∃ w1, Completes (.qlen h sd pq) s s w { w1 with prologue := false } ∧
      WithScalar w w1 sd (if w.qGuard h then BitVec.ofNat 32 n else w.sr sd.toNat))) ∧
  (∀ (h : WarpHdr) (sa : Reg) (pq : BitVec 4) (s : State) (w v : Warp) (t : Team) (k sd qd : Nat) (x : Wait) (sc sc' : Scope)
    (acq : Bool), Issues s w h → InTeam s w t → AllPerformed w → s.bad = [] → w.taskst = false → w.inh = false →
    let q := pq.toNat
    let push : Instr := .qpush h sa pq sc .rlx
    let p := pergolaOf t q
    let t1 := reachedBy s w t q
    MayEndHere w push → sa.toNat + 2 ≤ 64 → pergValid (t.desc.perg.getD q 0) = true → MayReach s w t q → k ≠ s.cur →
    Holding s k v x → v.team = w.team → x.kind = .popQ q sd qd acq sc' → (∀ e ∈ s.warps, e.1 = k → e.2 = v) →
    (∀ e ∈ s.warps, e.1 ≠ k → e.2.team = w.team → ∀ y, e.2.wait = some y → ¬ (pushes q y.kind ∨ pops q y.kind)) →
    p.shut = false → pergCount p = 0 → 0 < p.depth → ∃ s1 w' v1 v',
      let y := pushed p (BitVec.ofNat 64 (srPair w sa))
      PopFence (s.setTeam w.team (withPergola (withEntry t1 q y) q (popped y))) s1 v.core acq sc' ∧
      exec push s = .next ((s1.setWarp k v').setWarp s.cur w') ∧ GoesPast w w' push ∧
      w' = placedAs { w with prologue := false } w' ∧
      Took v v1 sd qd (BitVec.ofNat 64 (srPair w sa)) ∧ Resumes v v' v1 x) ∧
  ∀ (s : State) (wid q : Nat) (w : Warp) (t : Team) (x : Wait), Holding s wid w x → InTeam s w t → s.bad = [] →
    (∀ e ∈ s.warps, e.1 = wid → e.2 = w) →
    let p := pergolaOf t q
    (∀ e ∈ s.warps, e.1 ≠ wid → e.2.team = w.team → ∀ y, e.2.wait = some y → CanGo p q y.kind → x.order < y.order) →
    let goes (s1 : State) (w1 : Warp) : Prop :=
      ∃ w', exec (.pergolaParkedWord w.team q) s = .next (s1.setWarp wid w') ∧ Resumes w w' w1 x
    let becomes (x : Pergola) : State := s.setTeam w.team (withPergola t q x)
    (∀ v rel sc, x.kind = .pushQ q v rel sc →
      (p.shut = false → pergCount p < p.depth → goes (s.setTeam w.team (withEntry t q (pushed p v))) w) ∧
      (p.shut = true → ∀ n, w.inh = false → n ≠ 0 → (∃ c, kget? s.contexts t.ctx = some c ∧ c.thand = n) →
        exec (.pergolaParkedWord w.team q) s = .next ((s.dropWaiters (Waiter.ofWord wid)).setWarp wid (enteredFrom x w n .queue (BitVec.ofNat 32 q))))) ∧
    ∀ sd qd acq sc, x.kind = .popQ q sd qd acq sc →
      (pergCount p ≠ 0 → ∃ s1 w1, PopFence (becomes (popped p)) s1 w.core acq sc ∧ Took w w1 sd qd (oldest p) ∧ goes s1 w1) ∧
      (pergCount p = 0 → p.shut = true → ∃ s1 w1, PopFence s s1 w.core acq sc ∧ TookNone w w1 qd ∧ goes s1 w1)

/-- R171, R177, R178, R182, R183, R190 to R192: a matrix word whose ranges and format are accepted enters its context's
queue with its operands, and waits while sixteen are incomplete there. A region byte outside the allotment, an extent past
ORANG and a refused format trap in that order. ACCZ of nothing does nothing. MWAIT waits until few enough are left. TINFO
= 0 of the range causes is the model's choice (notes/assumptions/22.md). -/
def MatrixWordsEnterTheirQueue : Prop :=
  ∀ (h : WarpHdr) (sd sa sb n : Reg) (fw : W32) (s : State) (w : Warp) (t : Team) (k : Nat) (m : MatCtx), Issues s w h →
    InTeam s w t → w.role = .maths → t.mats.find? (fun e => e.2.warp == s.cur) = some (k, m) →
    (∀ f ∈ matForms h sd sa sb fw w, MayEndHere w f.1 → (∀ g ∈ f.2.1, g.1 + g.2 ≤ 64) →
      let o := f.2.2
      let traps (c : Cause) (a : Nat) (info : W32) : Prop := Traps f.1 s w c a (BitVec.allOnes 32) info
      (o.kind = 3 ∧ w.sr sb.toNat = 0 → Completes f.1 s s w w) ∧
      (¬ (o.kind = 3 ∧ w.sr sb.toNat = 0) →
        (∀ a, RegionByte o a → Forbidden t a → (∀ b < a, RegionByte o b → ¬ Forbidden t b) → traps .spadRange a 0) ∧
        ((∀ a, RegionByte o a → ¬ Forbidden t a) →
          (t.desc.orang < o.tile.1 + o.tile.2 → traps .accRange (max o.tile.1 t.desc.orang) 0) ∧
          (o.tile.1 + o.tile.2 ≤ t.desc.orang →
            (∀ c, o.fmtCase = some c → traps .fmt 0 c) ∧
            (o.fmtCase = none → 16 ≤ m.ops.length → WaitsAt f.1 s s w w .atIssue) ∧
            (o.fmtCase = none → m.ops.length < 16 → Completes f.1 s
              (s.setTeam w.team { t with mats := kput t.mats k { m with ops := m.ops ++ [o] } }) w
              { w with seq := w.seq + 1 }))))) ∧
    (MayEndHere w (.mwait h n) →
      (m.ops.length ≤ n.toNat → Completes (.mwait h n) s s w w) ∧
      (n.toNat < m.ops.length → WaitsAt (.mwait h n) s s w w .mwait))

/-- R132 to R134, R172, R173, R175, R179 to R181, R183, R186, R187, R190, R191: the oldest operation of a context takes
its steps on its part of the team, unless the array is at a step of the other context or owes it the next one; ACCZ takes
the array for none, and ACCCPY for two (notes/assumptions/51.md, 143.md). A multiply adds the groups of 128 positions of K
to its tile, in order, unless a line that it needs is absent, ZC zeroing it first (notes/assumptions/49.md); ACCZ clears
its slots; ACCCPY makes its lines absent, then writes its rows and makes them present. Then it leaves the queue. -/
def MatrixOperationsStepThroughTheirTile : Prop :=
  (∀ (s : State) (core bank tid part k : Nat) (t : Team) (m : MatCtx) (o : MatOp) (os : List MatOp),
    findMat s core bank = some (tid, t, part, k, m) → m.ops = o :: os → o.kind ≠ 3 → mustAlternate s core bank = true →
    exec (.matrixStep core bank) s = .next s) ∧
  ∀ (s : State) (core bank tid part k : Nat) (t : Team) (m : MatCtx) (o : MatOp) (os : List MatOp),
    MatAt s core bank tid t part k m o os →
    let sp := kget t.spads part ⟨[], [], []⟩
    let step := exec (.matrixStep core bank) s
    let moved (t' : Team) (o' : MatOp) : Prop := ∃ s', step = .next s' ∧ MatMoved s s' core bank tid t t' k m (o' :: os)
    let total := (fwK o.fw + 127) / 128
    (∀ j, o.kind ≤ 2 → j = (if part = 0 then o.steps else o.steps2) → j < total →
      part = 0 ∨ (o.kind = 2 ∧ t.desc.pairMode = true) →
      ((∃ e ∈ o.stepSpans j, ∃ b < e.2, (e.1 + b) / 128 ∈ sp.absent) → step = .next s) ∧
      ((∀ e ∈ o.stepSpans j, ∀ b < e.2, (e.1 + b) / 128 ∉ sp.absent) → ∃ t',
        moved t' (if part = 0 then { o with steps := j + 1 } else { o with steps2 := j + 1 }) ∧ t'.spads = t.spads ∧
        let place (r c : Nat) : Nat := o.c.toNat + r * tilePitch (fwN o.fw) + 4 * c
        (∀ r < fwM o.fw, ∀ c < fwN o.fw, orangElem t' part k (place r c) =
          (stepGroups o j).foldl (groupAdded (fun a => kget sp.cells a 0) o r c)
            (if fwZc o.fw = true ∧ j = 0 then 0 else orangElem t part k (place r c))) ∧
        (∀ q, (∀ r < fwM o.fw, ∀ c < fwN o.fw, q < place r c ∨ place r c + 4 ≤ q) →
          orangByte t' part k q = orangByte t part k q) ∧
        ∀ i, i ≠ 2 * part + k → kget? t'.orangs i = kget? t.orangs i)) ∧
    (o.kind = 3 → part = 0 → o.steps = 0 → 0 < recWord o.b 0 → ∃ t', step = .next (s.setTeam tid t') ∧
      t' = { t with orangs := t'.orangs, mats := kput t.mats k { m with ops := { o with steps := 1 } :: os } } ∧
      (∀ q, orangByte t' 0 k q =
        if recWord o.a 0 ≤ q ∧ q < recWord o.a 0 + 16384 * recWord o.b 0 then 0 else orangByte t 0 k q) ∧
      ∀ i, i ≠ k → kget? t'.orangs i = kget? t.orangs i) ∧
    (o.kind = 4 → part = 0 → o.steps = 0 → o.fmtCase = none → ∃ t', moved t' { o with steps := 1 } ∧ t'.orangs = t.orangs ∧
      let sp' := kget t'.spads 0 ⟨[], [], []⟩
      sp' = { sp with absent := sp'.absent } ∧ (∀ line, line ∈ sp'.absent ↔ line ∈ sp.absent ∨ copyTouches o line) ∧
      kget? t'.spads 1 = kget? t.spads 1) ∧
    (o.kind = 4 → part = 0 → o.steps = 1 → o.fmtCase = none → ∃ t', moved t' { o with steps := 2 } ∧ t'.orangs = t.orangs ∧
      let sp' := kget t'.spads 0 ⟨[], [], []⟩
      let owed (line : Nat) : Prop := ∃ c ∈ (s.core core).copies, c.2.team = tid ∧ c.2.go = true ∧ line ∈ c.2.left
      (∀ line, line ∈ sp'.absent ↔ line ∈ sp.absent ∧ (copyTouches o line → owed line)) ∧
      (∀ r < cpM o.c, ∀ c < cpN o.c, ∀ i < copyUnit o, kget sp'.cells (copyDest o r + copyUnit o * c + i) 0 =
        BitVec.ofNat 8 (copyCode o (orangElem t 0 k (recWord o.a 0 + r * tilePitch (cpN o.c) + 4 * c)) / 256 ^ i)) ∧
      (∀ q, (∀ r < cpM o.c, q < copyDest o r ∨ copyDest o r + copyUnit o * cpN o.c ≤ q) →
        kget sp'.cells q 0 = kget sp.cells q 0) ∧ kget? t'.spads 1 = kget? t.spads 1) ∧
    ∀ t', t' = { t with mats := kput t.mats k { m with ops := os } } →
      (if o.kind ≤ 2 then total ≤ o.steps else o.kind - 2 ≤ o.steps) → o.kind ≤ 4 →
      (o.kind = 2 → t.desc.pairMode = true → total ≤ o.steps2) →
      exec (.matrixOpComplete core bank) s = .next (s.setTeam tid t')

/-- R22, R23, R32, R33, R37, R38, R297, R299, R358: a team of one core of the only launch is admitted to a core with room: it
enters with its place in the grid, its first allotment and cleared storage, its warps in their launch state and with an
acquire at system scope (a reading, notes/assumptions/77.md). A gang that has stood at the head for 50 µs without a place
has one kept for it. A team with nothing left is retired, and all that it held is free. -/
def TeamsEnterAndLeaveTheirCores : Prop :=
  (∀ (s : State) (id gang core : Nat) (l : Launch) (c : Context), s.launches = [(id, l)] →
    s.frames = [] → ReadyFor s 5 → s.diesStopped = false → OpenContext s l.ctx c →
    c.preempted = false → l.status = none → l.reading = false → l.privWait = false → l.reserved = none → gang ∉ l.admitted →
    l.admitted.length < l.desc.gridX * l.desc.gridY * l.desc.gridZ → gang < l.desc.gridX * l.desc.gridY * l.desc.gridZ →
    l.desc.gangX = 1 → l.desc.gangY = 1 → l.desc.gangZ = 1 → l.desc.pairMode = false → c.nPriv = 0 → RoomOn s l.desc core →
    let d := l.desc
    let n := d.ncopy + d.nmaths + d.nepi
    ∃ s1 s' t, exec (.teamAdmit id gang [core]) s = .next s' ∧ (if n = 0 then s1 = s else Acquired s s1 core .system) ∧
      s' = { s1 with
        stamp := s.stamp + 1, nextId := s.nextId + 1 + n, teams := kput s.teams s.nextId t, warps := s'.warps
        launches := kput s.launches id
          { l with admitted := l.admitted ++ [gang], since := none, before := some (l.before.getD s.image) } } ∧
      (t.ctx = l.ctx ∧ t.launch = id ∧ t.desc = d ∧ t.cores = [core] ∧ t.allot = (if d.spro = d.sfull then d.sfull else d.spro)) ∧
      (t.gangNum = gang ∧ t.x = gang % d.gridX ∧ t.y = gang / d.gridX % d.gridY ∧ t.z = gang / (d.gridX * d.gridY)) ∧
      (t.spads = [] ∧ t.orangs = [] ∧ t.pergs = [] ∧ t.bars = [] ∧ t.mbars = [] ∧ t.parked = false ∧ t.halted = none ∧
        t.preempting = false ∧ t.haltPosted = false ∧ t.stuckSince = none ∧ t.pergTurn = [] ∧ t.admitOrder = s.stamp + 1) ∧
      (t.mats.length = d.nmaths ∧ (t.mats.map fun m => m.2.bank).Nodup ∧ ∀ m ∈ t.mats, m.1 < d.nmaths ∧ m.2.ops = [] ∧
        m.2.warp = s.nextId + 1 + d.ncopy + m.1 ∧
        ∀ u ∈ s.teams, core ∈ u.2.cores → ∀ k ∈ u.2.mats, k.2.bank ≠ m.2.bank) ∧
      (∀ k, k ≤ s.nextId ∨ s.nextId + n < k → s'.warp? k = s.warp? k) ∧
      ∀ num < n, ∃ w, s'.warp? (s.nextId + 1 + num) = some w ∧ FreshWarp d s.nextId core num w) ∧
  (∀ (s : State) (id gang t0 : Nat) (l : Launch) (c : Context) (cores : List Nat), s.launches = [(id, l)] →
    s.frames = [] → OpenContext s l.ctx c → c.preempted = false → l.status = none → l.reading = false →
    l.privWait = false → l.reserved = none → gang ∉ l.admitted → l.admitted.length < l.desc.gangs → gang < l.desc.gangs →
    1 < l.desc.gangSize → l.desc.pairMode = false → couldUse s l.need (List.range 384) = false →
    l.since = some t0 → t0 + 50 * 1400 ≤ s.time.toNat → cores.length = l.desc.gangSize → cores.Nodup → (∀ k ∈ cores, k < 384) →
    (l.desc.gclass = 0 → ∀ a ∈ cores, ∀ b ∈ cores, a / 2 = b / 2) →
    (l.desc.gclass = 1 → ∀ a ∈ cores, ∀ b ∈ cores, a / 192 = b / 192) →
    exec (.gangReserve id gang cores) s =
      .next { s with launches := kput s.launches id { l with reserved := some (gang, cores) } }) ∧
  ∀ (s : State) (tid : Nat) (t : Team), s.team? tid = some t → TeamOver s tid t → s.bad = [] →
    (∀ e ∈ s.warps, ∀ x, e.2.wait = some x → ∀ g, x.kind ≠ .gbar g) →
    (∀ f ∈ s.frames, ∀ e ∈ f.2.warps, ∀ x, e.2.wait = some x → ∀ g, x.kind ≠ .gbar g) →
    (∀ e ∈ s.warps, ∀ x, e.2.wait = some x → x.kind ≠ .actStore) → ∃ s',
      exec (.teamRetire tid) s = .next s' ∧ s'.teams = kdel s.teams tid ∧
      s' = { s with
        warps := s.warps.filter fun w => w.2.team != tid, teams := s'.teams, cores := s'.cores, launches := s'.launches } ∧
      (∀ k, kget? s'.launches k = (kget? s.launches k).map fun l =>
        if k = t.launch then { l with retired := l.retired + 1 } else l) ∧
      ∀ c, (s'.core c).act = (if c ∈ t.cores ∧ (s.core c).act.holder = some tid then ⟨none, [], [], 0, none⟩ else (s.core c).act) ∧
        { s'.core c with act := (s.core c).act, slots := (s.core c).slots } = s.core c

/-- R296, R339: a launch whose teams have all retired completes with status 0, and one whose context no longer admits them
with 0x80: the completion record takes the status and the time, the signal one more, and the launch is gone. -/
def LaunchesCompleteWithTheirRecord : Prop :=
  ∀ (s : State) (id status : Nat) (l : Launch), kget? s.launches id = some l → NothingOut s → s.bad = [] →
    (∀ t ∈ s.teams, t.2.launch ≠ id) → (l.reading = false → l.work = Chunk.fresh) → s.warp? (2 ^ 64) = none →
    let total := l.desc.gridX * l.desc.gridY * l.desc.gridZ
    (l.status = some status ∨ (l.status = none ∧ l.reading = false ∧ status = 0 ∧ l.retired = total) ∨
      (l.status = none ∧ status = 0x80 ∧ (l.reading = true ∨ (l.retired ≠ total ∧ l.admitted.length < l.desc.gangs)) ∧
        ∃ c, kget? s.contexts l.ctx = some c ∧ c.retiring = true)) →
    (∃ c, kget? s.contexts l.ctx = some c ∧ c.active = true) →
    let ends (s' : State) : Prop := exec (.launchComplete id) s = .next s' ∧
      s' = { s with launches := s'.launches, l2 := s'.l2, contexts := s'.contexts } ∧
      (∀ n, kget? s'.contexts n = kget? s.contexts n) ∧ kget? s'.launches id = none ∧
      ∀ k, k ≠ id → kget? s'.launches k = kget? s.launches k
    (l.compl = 0 → l.sig = 0 → ∃ s', ends s' ∧ s'.l2 = s.l2) ∧
    (∀ pa key, l.compl ≠ 0 → l.sig = 0 → DeviceMaps s l.ctx l.compl 16 pa key → ∃ s', ends s' ∧
      SameElsewhere s s' pa 16 key ∧ ∀ f ∈ [(0, status), (8, s.time.toNat)], ∀ k < 8,
        s'.homeByte (.own (pa + f.1 + k) key) = BitVec.ofNat 8 (f.2 / 256 ^ k)) ∧
    ∀ pa key, l.compl = 0 → l.sig ≠ 0 → l.sig % 8 = 0 → DeviceMaps s l.ctx (l.sig - l.sig % 16) 16 pa key →
      ∃ s', ends s' ∧ SameElsewhere s s' (pa + l.sig % 16) 8 key ∧
        let v (s : State) : Nat := unitOf (fun i => s.homeByte (.own (pa + l.sig % 16 + i) key)) 8
        v s' = (v s + 1) % 2 ^ 64

/-- R383, R394 to R396, R398: PRECMD pre-empt stops every team of its context, or completes at once where none is
resident; resume queues the saved teams whose frames are good; discard frees their slots and ends their launches; each
adds one to its signal. A team whose page request is older than its context allows is stopped too when something else
would fit. A team that has drained is saved into the lowest free slot and leaves its cores, and if an unhandled trap
halted it the event follows, once; without a slot it runs on, or stays halted and its event is posted (the model's choice,
log entry 29). -/
def PreemptionStopsAndSavesTeams : Prop :=
  (∀ (s : State) (n : Nat) (c : Context), ReadyFor s 4 → s.regs.preBusy = none → n < 64 → s.bad = [] → FabricIdle s →
    s.pri = [] → s.priDenied = [] → s.regs.presig + 8 ≤ 2 ^ 63 → kget? s.contexts n = some c →
    let a := s.regs.presig
    let ends (i : Instr) (s1 : State) (result : Nat) : Prop := ∃ s2, Signals s1 s2 a ∧
      exec i s = .next { s2 with regs := { s2.regs with preResult := result } }
    (c.active = false → ∀ i ∈ [Instr.precmdPreempt n, .precmdResume n, .precmdDiscard n], ends i s 1) ∧
    (c.active = true → RereadsSame s n c →
      ((∀ e ∈ s.teams, e.2.ctx ≠ n) → s.regs.preFull = false → ∃ s1, s1 = { s with contexts := s1.contexts } ∧
        kget? s1.contexts n = some { c with preempted := true } ∧
        (∀ m, m ≠ n → kget? s1.contexts m = kget? s.contexts m) ∧ ends (.precmdPreempt n) s1 0) ∧
      ((∃ e ∈ s.teams, e.2.ctx = n) → ksorted s.teams = true → ksorted s.warps = true →
        (∀ e ∈ s.teams, e.2.ctx = n → e.2.preempting = false ∧ e.2.halted = none) → NoTask s →
        ∃ s1 s', StopsTeams s s1 (fun tid => ∃ t, s.team? tid = some t ∧ t.ctx = n) false ∧
        exec (.precmdPreempt n) s = .next s' ∧
        s' = { s1 with contexts := s'.contexts, regs := { s.regs with preBusy := some n, preFull := false } } ∧
        kget? s'.contexts n = some { c with preempted := true } ∧
        ∀ m, m ≠ n → kget? s'.contexts m = kget? s.contexts m) ∧
      (∀ good : Nat → Bool, (∀ f ∈ s.frames, f.2.ctx = n → (good f.1 = true ↔ FrameGood s (editedFrame s f.2))) → ∃ s1,
        s1 = { s with contexts := s1.contexts, frames := s1.frames } ∧
        kget? s1.contexts n = some { c with preempted := false } ∧
        (∀ m, m ≠ n → kget? s1.contexts m = kget? s.contexts m) ∧
        s1.frames = (s.frames.map fun f =>
          (f.1, if f.2.ctx = n then { editedFrame s f.2 with queued := good f.1, fault := false } else f.2)) ∧
        ((∀ f ∈ s.frames, f.2.ctx = n → good f.1 = true) → ends (.precmdResume n) s1 0) ∧
        ((∃ f ∈ s.frames, f.2.ctx = n ∧ good f.1 = false) → ends (.precmdResume n) s1 3)) ∧
      ∀ tid f, s.frames = [(tid, f)] → f.ctx = n → f.key < 128 →
        ∃ s1 s2, BusyBit s s1 f.pool f.key f.slot false ∧
        s2 = { s1 with frames := [], contexts := s2.contexts, launches := s2.launches } ∧
        (∀ m, kget? s2.contexts m = kget? s.contexts m) ∧
        (∀ k, kget? s2.launches k = (kget? s.launches k).map fun l =>
          if k = f.team.launch then { l with status := some (l.status.getD 0x80) } else l) ∧
        ends (.precmdDiscard n) s2 0)) ∧
  (∀ (s : State) (tid : Nat) (t : Team) (c : Context) (k : Nat) (w : Warp) (l i : Nat), s.team? tid = some t →
    kget? s.contexts t.ctx = some c → c.pfTime ≠ 0xFFFFFFFF → s.warp? k = some w → w.team = tid →
    (∃ r ∈ s.pri, .lane k l i ∈ r.2.waiters ∧ r.2.since + c.pfTime * 1400 ≤ s.time.toNat) → t.desc.gangSize = 1 →
    t.preempting = false → t.halted = none → wouldFit s tid t = true → ksorted s.teams = true → ksorted s.warps = true →
    NoTask s → ∃ s', StopsTeams s s' (· = tid) true ∧
      exec (.pageFaultSwapOut tid) s = .next s') ∧
  ∀ (s : State) (tid : Nat) (t : Team) (c : Context), s.team? tid = some t → kget? s.contexts t.ctx = some c →
    t.preempting = true → Drained s tid t → s.regs.preBusy = none → s.bad = [] → s.pri = [] → s.priDenied = [] →
    ksorted s.warps = true →
    (∀ k, FreeSlot s c k → c.fkey < 128 → c.fpool + 4096 + (k + 1) * c.fslot ≤ 2 ^ 63 → t.frameSize ≤ c.fslot →
      ∃ s' f s2, exec (.frameSave tid) s = .next s2 ∧ (t.halted = none ∨ t.haltPosted = true → s2 = s') ∧
      (∀ j w, t.haltPosted = false → t.halted = some w.num → s.warp? j = some w → w.team = tid →
        (∀ i x, s.warp? i = some x → x.team = tid → x.num = w.num → i = j) →
        Reports s' s2 t.ctx 2 w.num w.core (BitVec.ofNat 32 w.num) w.tcause) ∧ s'.team? tid = none ∧ s'.frames = kput s.frames tid f ∧
      (f.ctx = t.ctx ∧ f.slot = k ∧ f.pa = c.fpool + 4096 + k * c.fslot ∧ f.pool = c.fpool ∧ f.key = c.fkey ∧ f.halt = t.halted ∧
        f.queued = false ∧ f.released = [] ∧ f.team = { t with savedAct := f.team.savedAct, haltPosted := false, swap := false, stuckSince := none, pergTurn := [] } ∧
        (f.fault = true ↔ t.swap = true ∧ t.halted = none ∧ c.preempted = false)) ∧
      (∀ j, kget? f.warps j = none ↔ ∀ w, s.warp? j = some w → w.team ≠ tid) ∧
      (∀ j w, s.warp? j = some w → w.team = tid → ∃ w', kget? f.warps j = some w' ∧
        w' = { w with wait := w'.wait, opLog := w'.opLog }) ∧
      (∀ j w, s.warp? j = some w → s'.warp? j = if w.team = tid then none else some w) ∧
      (s'.homeByte (.own (c.fpool + k / 8) c.fkey)).getLsbD (k % 8) = true ∧
      let field (off n : Nat) : Nat := keyedNat s' (f.pa + off) f.key n
      field 0 4 = 1 ∧ field 4 4 = t.frameSize / 4096 % 2 ^ 32 ∧ field 0x10 4 = t.x % 2 ^ 32 ∧ field 0x14 4 = t.y % 2 ^ 32 ∧
      field 0x18 4 = t.z % 2 ^ 32 ∧ field 0x1C 1 = t.ctx % 2 ^ 8 ∧ field 0x20 4 = t.allot % 2 ^ 32 ∧
      field 0x24 1 = t.cores.length % 2 ^ 8 ∧ field 0x28 8 = s.time.toNat ∧ field 0x38 4 = t.gangNum % 2 ^ 32) ∧
    ((∀ k, ¬ FreeSlot s c k) → t.halted = none → ∃ s', exec (.frameSave tid) s = .next s' ∧
      s' = { s with teams := kput s.teams tid { t with preempting := false, swap := false }, warps := s'.warps } ∧
      ∀ j, s'.warp? j = s.warp? j) ∧
    ∀ j w, (∀ k, ¬ FreeSlot s c k) → t.halted = some w.num → s.warp? j = some w → w.team = tid →
      (∀ i x, s.warp? i = some x → x.team = tid → x.num = w.num → i = j) → ∃ s1 s2, exec (.frameSave tid) s = .next s2 ∧
        s1 = { s with warps := s1.warps } ∧ (∀ i, s1.warp? i = s.warp? i) ∧
        ∃ s3, (if t.haltPosted then s3 = s1 else Reports s1 s3 t.ctx 2 w.num w.core (BitVec.ofNat 32 w.num) w.tcause) ∧
          s2 = { s3 with teams := kput s3.teams tid { t with haltPosted := true } }

/-- R397, R399, R402: the saved team of a queued good frame that has a place enters its new core: the slot is free, and
the warps read their place, their registers and their lanes' addresses back from the frame (R398). A frame that fails its
check stays saved, and the result is 3. The check is the CRC-32 of notes/assumptions/17.md, which the manual names and
does not contain. -/
def FramesRestoreTheirTeams : Prop :=
  ∀ (s : State) (tid core : Nat) (f : Frame) (c : Context), s.frames = [(tid, f)] → ReadyFor s 5 → s.diesStopped = false →
    s.bad = [] → kget? s.contexts f.ctx = some c → f.team.desc.pairMode = false → f.team.cores.length = 1 →
    gangAsks s f.team.gang = true → placeFits s (frameNeed s f.team.gang) [core] = true →
    earlierUse s (gangOffer s f.team.gang) [core] = false →
    keptForOther s none (gangOffer s f.team.gang).prio [core] = false →
    (¬ FrameGood s f → exec (.frameRestore tid [core]) s = .next
      { s with frames := [(tid, { f with queued := false, fault := false })], regs := { s.regs with preResult := 3 } }) ∧
    (FrameGood s f → f.copies = [] → f.halt = none → ksorted f.warps = true → f.key < 128 →
      (∀ e ∈ f.warps, e.2.part = 0) →
      f.released = [] → (∀ e ∈ s.warps, e.2.team ≠ tid) →
      (∀ e ∈ f.warps, ∀ x, e.2.wait = some x → x.kind.keptCode ∈ [1, 3, 4, 7]) → ∃ s' t' s1,
      exec (.frameRestore tid [core]) s = .next s' ∧ s'.frames = [] ∧ BusyBit s s1 f.pool f.key f.slot false ∧ s'.l2 = s1.l2 ∧
      s'.team? tid = some t' ∧ (∀ j, j ≠ tid → s'.team? j = s.team? j) ∧
      (let n := keyedNat s (f.pa + 0x1C) f.key 1
        let on : Prop := ∃ b, kget? s.contexts n = some b ∧ b.active = true
        (on → t'.ctx = n) ∧ (¬ on → t'.ctx = f.team.ctx)) ∧
      (t'.gangNum = keyedNat s (f.pa + 0x38) f.key 4 ∧ t'.launch = f.team.launch ∧ t'.desc = f.team.desc ∧
        t'.x = keyedNat s (f.pa + 0x10) f.key 4 ∧ t'.y = keyedNat s (f.pa + 0x14) f.key 4 ∧
        t'.z = keyedNat s (f.pa + 0x18) f.key 4 ∧ t'.cores = [core] ∧ t'.allot = f.team.allot ∧ t'.halted = none ∧ t'.preempting = false) ∧
      (∀ k, kget? f.warps k = none → s'.warp? k = s.warp? k) ∧
      ∀ k w, kget? f.warps k = some w → ∃ w', s'.warp? k = some w' ∧ w'.core = core ∧ w'.team = w.team ∧ w'.badRegs = [] ∧
        let field (off n : Nat) : Nat := keyedNat s (f.pa + warpRecord f.team w.num + off) f.key n
        (w'.num = field 1 1 ∧ (3 ≤ field 0 1 → w'.role = w.role) ∧ (field 0 1 = 0 → w'.role = .copy) ∧
          (field 0 1 = 1 → w'.role = .maths) ∧ (field 0 1 = 2 → w'.role = .epilogue)) ∧
        (∀ r < 64, (w'.sr r).toNat = field (0x200 + 4 * r) 4) ∧ (∀ l < 32, w'.vpcOf l = field (0x300 + 8 * l) 8 % 2 ^ 57) ∧
        (∀ l < 32, ∀ r < f.team.frameVr, (w'.vr l r).toNat = field (0x4000 + 128 * r + 4 * l) 4) ∧
        (∀ l < 32, ∀ n < 7, w'.pred l n = (field (0x400 + l) 1).testBit n) ∧
        w'.tcause = BitVec.ofNat 32 (field 0x100 4) &&& Config.tcauseMask ∧ w'.tinfo.toNat = field 0x104 4 ∧ w'.tlanes.toNat = field 0x108 4 ∧
        w'.tpc.toNat = field 0x110 8 ∧ w'.taddr.toNat = field 0x120 8 ∧ 
        w'.fpflags = BitVec.ofNat 32 (field 0x98 4) &&& Config.fpflagsMask ∧
        w'.link.toNat = field 0x90 8)

/-- R403, R405, R408: a lost PCIe link ends every context, whose launches take status 0x80; a lost UCIe link halts every
team, leaves one record in the host log and clears READY bit 3; a scrub corrects a unit, or reports it with bit 8 of CODE
clear; an error in a core's control state raises SOFT with TINFO 0x0E on every warp of its teams, which are halted. What a
lost PCIe link ends, 0xFF as the warp that a lost UCIe link halts, and what such an error does to the trap state are
deduced (notes/assumptions/106.md, 107.md, 108.md). -/
def LostLinksAndScrubsActAsTheirRulesSay : Prop :=
  ∀ (s : State),
    (ksorted s.contexts = true → ksorted s.teams = true → ∃ s', exec .pcieLinkDown s = .next s' ∧ s'.pcieUp = false ∧
      (∀ n, kget? s'.contexts n = (kget? s.contexts n).map fun c =>
        { c with active := false, retiring := c.retiring && !c.active }) ∧
      (∀ tid t, s.team? tid = some t → (Active s t.ctx = true → s'.team? tid = none) ∧ (Active s t.ctx = false →
        ∃ t', s'.team? tid = some t' ∧ t' = { t with savedAct := t'.savedAct })) ∧
      (∀ e ∈ s'.warps, ∀ t, s.team? e.2.team = some t → Active s t.ctx = false) ∧
      (∀ f, f ∈ s'.frames ↔ f ∈ s.frames ∧ Active s f.2.ctx = false) ∧
      (∀ q, q ∈ s'.queues ↔ q ∈ s.queues ∧ Active s (q.1 / 64) = false) ∧
      (∀ k, kget? s'.launches k = (kget? s.launches k).map fun l =>
        if Active s l.ctx then { l with status := some (l.status.getD 0x80), reserved := none } else l) ∧ SameMemory s s') ∧
    exec .pcieLinkUp s = .next { s with pcieUp := true } ∧
    (s.diesStopped = false → ReadyFor s 3 → ∃ s1 s2,
      s1 = { s with diesStopped := true, teams := s1.teams } ∧
      (∀ k, s1.team? k = (s.team? k).map fun t => { t with halted := some (t.halted.getD 0xFF) }) ∧
      HostLogged s1 s2 0xFF 0xFF 0xFFFF 0x10F 0 ∧ exec .ucieLinkFailure s = .next
        { s2 with regs := { s2.regs with
          ready := s.regs.ready &&& ~~~8, msix := kput s2.regs.msix 1 (kget s2.regs.msix 1 0 + 1) } }) ∧
    (∀ u, let key := unitKey u
      (key ∈ s.correctable → exec (.patrolScrub u) s = .next
        { s with
          correctable := s.correctable.filter (· != key)
          err := { s.err with ceCnt := min (s.err.ceCnt + 1) (2 ^ 64 - 1) } }) ∧
      (key ∉ s.correctable → key ∉ s.bad →
        (∀ k owner index w, u = .onChip k owner index → k.toNat = 8 ∨ k.toNat = 9 → s.warp? owner = some w →
          regOfUnit k.toNat index ∉ w.badRegs) → exec (.patrolScrub u) s = .next s) ∧
      (key ∉ s.correctable → key ∈ s.bad →
        (∀ pa, u = .hbm pa → ∃ s', HostLogged s s' 0xFF 0xFF 0xFFFF 1 (pa / 64 * 64 % 2 ^ 32) ∧
          exec (.patrolScrub u) s = .next s') ∧
        (∀ k owner index, u = .onChip k owner index → 4 ≤ k.toNat → ∃ s',
          HostLogged s s' 0xFF 0xFF 0xFFFF k.toNat 0 ∧ exec (.patrolScrub u) s = .next s')) ∧
      (∀ k owner index w, u = .onChip k owner index → k.toNat = 8 ∨ k.toNat = 9 → key ∉ s.correctable →
        s.warp? owner = some w → regOfUnit k.toNat index ∈ w.badRegs → ∃ s',
          HostLogged s s' 0xFF 0xFF 0xFFFF k.toNat 0 ∧ exec (.patrolScrub u) s = .next s')) ∧
    ∀ (core tid : Nat) (t : Team), s.team? tid = some t → core ∈ t.cores → t.halted = none → ksorted s.teams = true →
      ksorted s.warps = true → (∀ e ∈ s.teams, core ∈ e.2.cores → e.1 = tid) →
      (∃ e ∈ s.warps, e.2.team = tid ∧ e.2.exited = false) → ∃ s' t' k0 w0, exec (.controlStateParityError core) s = .next s' ∧
      s'.team? tid = some t' ∧ s.warp? k0 = some w0 ∧ w0.team = tid ∧ t'.halted = some w0.num ∧
      (∀ k w, s.warp? k = some w → (w.team ≠ tid ∨ w.exited = true) → s'.warp? k = some w) ∧
      (∀ k w, s.warp? k = some w → w.team = tid → w.exited = false → ∃ w', s'.warp? k = some w' ∧ w'.v = w.v ∧ w'.s = w.s ∧
        w'.wait = none ∧ w'.tinfo = 0x0E ∧
        (w.inh = false → w'.tcause = 0x17 ∧ (w.wait = none → w'.tpc = BitVec.ofNat 64 w.issueAddr) ∧
          (w.wait = none → w.ready ≠ 0 → w'.tact = w.active) ∧
          ∀ x, w.wait = some x → w'.tpc = BitVec.ofNat 64 x.pc) ∧
        (w.inh = true → w'.tcause = 0x19 ∧ w'.dcause = 0x17)) ∧
      s' = { s with teams := s'.teams, warps := s'.warps, l2 := s'.l2, bad := s'.bad, events := s'.events, err := s'.err, fab := s'.fab
                    pri := s'.pri, priDenied := s'.priDenied, priGranted := s'.priGranted
                    regs := { s.regs with msix := s'.regs.msix } }

/-- R43 to R47: a word at which a window's count reaches LA + 1 closes the window before it issues. The lanes with data,
or the scalar registers, are written, and the word runs; the lanes without data park, and where they leave the warp no
lane at the word, the word has not issued and counts toward no window. With no lane's data there, or a scalar's not there,
the warp waits at the word. The other open windows count the word. -/
def WindowsCloseAtTheirCount : Prop :=
  ∀ (s : State) (dt : Nat) (ts : List Turn) (core slot wid : Nat) (late : LaneMask) (rest : List Nat) (joined : KMap Nat)
    (w : Warp) (bs : List Byte) (i : Instr) (x : Window), AtTurn s dt ts core slot wid late rest joined w bs i →
    w.badRegs = [] → w.inh = false → w.counted = false → s.fab = [] →
    (w.windows.filter fun y => !y.closed).length ≤ 8 → (w.windows.map (·.acc.seq)).Nodup →
    (∀ y ∈ w.windows, y.lanes &&& ~~~y.ready = 0 ∧ y.dead = 0) → x ∈ w.windows → x.closed = false → x.handler = false →
    x.lanes ≠ 0 → x.la ≤ x.count → (∀ y ∈ w.windows, y ≠ x → y.closed = true ∨ y.handler = true ∨ y.count < y.la) →
    let s2 := turned s dt ts core slot wid rest joined w
    let ends := turnEnds core slot wid w i
    let here := x.lanes &&& ~~~x.late
    let byLane : Prop := ∃ vd n, x.dest = .lanes vd n
    let closes (w2 : Warp) : Prop := Delivers w w2 x here ∧
      w2 = { w with v := w2.v, s := w2.s, q := w2.q, counted := true, windows := w2.windows }
    let runs (w2 : Warp) : Prop := step s = ends (exec i { s2.setWarp wid w2 with cur := wid, curLate := late })
    (x.lanes &&& x.late = 0 → ∃ w2 f, closes w2 ∧ (∀ y ∈ w.windows, y ≠ x → Beside x here y (f y)) ∧
      w2.windows = (w.windows.filter fun y => y.acc.seq != x.acc.seq).map f ∧ runs w2) ∧
    (byLane → here ≠ 0 → x.lanes &&& x.late ≠ 0 → ∃ w2 f k, closes w2 ∧ (∀ y ∈ w.windows, y ≠ x → Beside x here y (f y)) ∧
      (∀ y ∈ w.windows, y.shutNo < k) ∧
      f x = { x with closed := true, lanes := x.lanes &&& x.late, shutNo := k, count := x.count + 1 } ∧
      w2.windows = w.windows.map f ∧
      (w2.ready ≠ 0 ∧ w2.issueAddr = w.issueAddr → runs w2) ∧
      (w2.ready = 0 ∨ w2.issueAddr ≠ w.issueAddr →
        step s = ends (.next (s2.setWarp wid { w2 with counted := false, windows := uncounted w2 })))) ∧
    (here = 0 ∨ (¬ byLane ∧ x.lanes &&& x.late ≠ 0) →
      step s = ends (.next { s2.setWarp wid { w with
        counted := true
        windows := w.windows.map fun y => if y.closed || y.handler then y else { y with count := y.count + 1 }
        wait := some ⟨.windowClose, i, w.issueAddr, w.active, s2.stamp, s2.time.toNat⟩ } with stamp := s2.stamp + 1 }))

/-- R74, R392, R403, R404: a word that reads a damaged register, here IADD or SADD, has no effect: the unit is reported
and SOFT raised in its place, with the storage kind; TLANES holds the lane of a vector register, every active lane of a
guard. A damaged register that the word does not read, or not in an executing lane, changes nothing. -/
def DamagedRegistersRaiseSoft : Prop :=
  ∀ (s : State) (dt : Nat) (ts : List Turn) (core slot wid : Nat) (late : LaneMask) (rest : List Nat) (joined : KMap Nat)
    (w : Warp) (bs : List Byte) (i : Instr) (t : Team) (n : Nat), AtTurn s dt ts core slot wid late rest joined w bs i →
    w.windows = [] → w.inh = false → MayEndHere w i →
    let w1 : Warp := { w with counted := true }
    let s3 : State := { (turned s dt ts core slot wid rest joined w).setWarp wid w1 with cur := wid, curLate := late }
    InTeam s3 w t → HasHandler s3 w1 n →
    let soft (kind : Nat) (lanes : LaneMask) : Prop := ∃ s', Reported s3 s' t.ctx w.num w.core kind 0 ∧
      step s = turnEnds core slot wid w i (.next ((withdrawnWord s').setWarp wid
        (entered w1 n .soft 0 lanes (BitVec.ofNat 32 kind))))
    let runs : Prop := step s = turnEnds core slot wid w i (exec i s3)
    (∀ h d a b, i = .iadd h d a b → w.role = .epilogue → d.toNat < w.vregs → a.toNat < w.vregs → b.toNat < w.vregs →
      (∀ r l, l < 32 → w.badRegs = [(0, r, l)] →
        let read : Prop := (r = a.toNat ∨ r = b.toNat) ∧ laneBit (w.exec h) l = true
        (read → soft 8 (1#32 <<< l)) ∧ (¬ read → runs)) ∧
      ∀ k < 7, w.badRegs = [(2, k, 0)] → (k = h.gp.toNat → soft 9 w.active) ∧ (k ≠ h.gp.toNat → runs)) ∧
    ∀ h d a b r, i = .sadd h d a b → w.badRegs = [(1, r, 0)] →
      let read : Prop := (r = a.toNat ∨ r = b.toNat) ∧ w.qGuard h = true
      (read → soft 9 (BitVec.allOnes 32)) ∧ (¬ read → runs)

/-- R392, R403, R404, R406: a load or an atomic whose unit cannot be corrected gets no value: the unit is reported, and the
operand log takes DATA_ERR with the storage kind; the unit stays as it is. Here a scalar load or atomic of a damaged burst of
HBM, and a load by one lane of a damaged unit of the scratchpad or the orangery. -/
def DamagedUnitsAreNeverLoaded : Prop :=
  let logs (s0 s : State) (w : Warp) (t : Team) (i : Instr) (kind addr va : Nat) (lanes : LaneMask) : Prop :=
    ∃ s2 s3 w' x, s2 = { s0 with cores := s2.cores } ∧ CopiesShrink s0 s2 ∧ Reported s2 s3 t.ctx w.num w.core kind addr ∧
      exec i s = .next (s3.setWarp s.cur w') ∧ w'.windows = w.windows ++ [x] ∧ x.ready = 0 ∧ x.vals = [] ∧
      w'.v = w.v ∧ w'.s = w.s ∧ ∃ e, w'.opLog = [e] ∧ e.source = .window x.acc.seq ∧ e.delivered = false ∧
        e.timedOut = 0 ∧ e.trap = ⟨.dataErr, va, lanes, BitVec.ofNat 32 kind⟩
  (∀ (h : WarpHdr) (d a b : Reg) (la : BitVec 4) (sx : Bool) (op : Aop) (off : BitVec 24) (off14 : BitVec 14) (size : Size)
    (scope : Scope) (s s1 : State) (w : Warp) (t : Team) (pa key : Nat), Issues s w h → InTeam s w t →
    off14.toInt = off.toInt →
    ∀ e ∈ ([(.sld h d a la sx off size scope .plain, .read), (.satom h d a la b op off14 size scope .plain, .atomic)] :
      List (Instr × AccessKind)),
    let ad := scalarAt w .glob a off.toInt
    let line := pa / 128 * 128 + key
    d.toNat + size.regs ≤ 64 → a.toNat + 2 ≤ 64 → (e.2 = .atomic → b.toNat + operandRegs op size ≤ 64 ∧ atomicSize op size) →
    MayEndHere w e.1 → w.taskst = false → NothingBefore w → Accessible t .glob ad size →
    (∀ y ∈ w.windows, y.acc.seq < w.seq) → s.fab = [] → s.bad = [(1, 0, pa / 64)] →
    OwnUnit s s1 w t (.lane s.cur w.seq 0) e.2 ad.toNat size pa key → kget? (s.core w.core).l1 line = none →
    kget? (s.rdc (w.core / 192)) line = none → kget? s.l2 line = none →
    logs s1 s w t e.1 1 pa ad.toNat (BitVec.allOnes 32)) ∧
  ∀ (h : LaneHdr) (d a : Reg) (la : BitVec 4) (sx : Bool) (off : BitVec 24) (size : Size) (scope : Scope) (ord : Ord),
    ∀ f ∈ laneLoads h d a la sx off size scope ord, f.sp ≠ .glob →
    ∀ (s : State) (w : Warp) (t : Team) (l : Nat), IssuesLane s w → InTeam s w t →
      d.toNat + size.regs ≤ w.vregs → a.toNat + pointerRegs f.sp ≤ w.vregs → MayEndHere w f.word → w.taskst = false →
      NothingBefore w → l < 32 → w.exec h = 1#32 <<< l → s.fab = [] →
      let ad := (laneAt w f.sp a off.toInt l).toNat
      let kind := if f.sp = .spad then 5 else 6
      Accessible t f.sp (laneAt w f.sp a off.toInt l) size → s.bad = [(kind, w.core, unitNum w.team ad)] →
      (f.sp = .spad → LinesPresent t w ad size.bytes ∧
        ∀ k < size.bytes, (ad + k) / 128 ∈ (kget t.spads w.part ⟨[], [], []⟩).written) →
      logs s s w t f.word kind 0 (if f.sp = .spad then ad else 0) (1#32 <<< l)

end Sys2Proof.Claims

open Sys2Proof Sys2Proof.Machine Sys2Proof.Claims

/-- R42, R58 to R60, R301, R302: where a step is a slot's turn, and the bytes at the issue address of the warp at the head of
the slot's queue decode to an instruction, the step is exec of that instruction, in the state with the time gone on, the warp
out of the queue and its word counted; then the turn ends (`turnEnds`). A step that is an event's turn is exec of that event;
with nothing on the agenda one period of the time counter passes. -/
def Obligations.AStepRunsTheDecodedInstruction : Prop :=
  ∀ (s : State) (dt : Nat) (ts : List Turn),
    (s.agenda = [] → step s = .next { s with time := s.time + 1 }) ∧
    (∀ i, s.agenda = ⟨dt, .event i⟩ :: ts → encode i = [] → s.diesStopped = false → s.dbgHalted = [] → s.paused = [] →
      step s = mapOut settleTurn (exec i (settleQueues ({ s with agenda := ts }.advance dt)))) ∧
    ∀ (core slot wid : Nat) (late : LaneMask) (rest : List Nat) (joined : KMap Nat) (w : Warp) (bs : List Byte) (i : Instr),
      AtTurn s dt ts core slot wid late rest joined w bs i → w.windows = [] → w.badRegs = [] →
      step s = turnEnds core slot wid w i (exec i { (turned s dt ts core slot wid rest joined w).setWarp wid
        { w with counted := w.counted || !w.inh } with cur := wid, curLate := late })

/-- R58, R61 to R66: words written out bit by bit from the encodings decode to the instructions that they stand for, and the
bytes after the words are left. -/
def Obligations.WordsOfTheManualDecodeToTheirInstructions : Prop :=
  let lane : LaneHdr := ⟨false, false, 7⟩
  let warp : WarpHdr := ⟨false, 7⟩
  ∀ rest, ∀ e ∈ ([
      ([0x1CC000C4, 0x0000388A], .icmp lane 3 4 false 7 .and 2 1 .lt),
      ([0x1D0C5042, 0x0C000000], .ffma lane 5 1 2 3), ([0x1C385042], .idiv lane 5 1 2), ([0x1D509200], .flut lane 9 8),
      ([0x1E003040, 0x00000922], .shfl lane 3 1 0 false true 4 4 .rotd),
      ([0xB8580105, 0x0000388A], .scmp warp 4 5 .s32 false 7 .and 2 1 .lt), ([0xB9980000, 0x00000014], .fence warp .device .acqrel),
      ([0xBA094004, 0x00092000], .capq warp 20 1 9 2), ([0xBC840600, 0x00000043], .qpush warp 24 2 .core .rel),
      ([0xBC8D4001, 0x0000004A], .qtry warp 20 1 2 .die .acq), ([0xBD81E000], .tbegin warp 30), ([0xBD880001], .tabort warp true),
      ([0xBD900106, 0x00000080], .asdecl warp 4 6 8 0)] : List (List W32 × Instr)),
    decode (e.1.flatMap bytesOfWord ++ rest) = .ok (e.2, rest)

/-- R58, R61 to R69: a well-formed instruction's words decode to it, with every field at every value that its encoding
admits, and the bytes after it are left. -/
def Obligations.DecodingReadsBackEveryEncodedInstruction : Prop :=
  ∀ (i : Instr) (rest : List Byte), wellFormed i = true → encode i ≠ [] →
    decode ((encode i).flatMap bytesOfWord ++ rest) = .ok (i, rest)

/-- The memories keep their canonical form (notes/assumptions/1.md: an unlisted byte reads as zero): addresses rise strictly,
and no entry is zero. Every step keeps it, in every state. -/
def Obligations.EveryStepKeepsMemoryCanonical : Prop :=
  ∀ s s' : State, State.memOk s → step s = .next s' → State.memOk s'

/-- Memory after reset is canonical, and it lists no byte. -/
def Obligations.ResetMemoryIsCanonical : Prop :=
  State.memOk State.reset ∧ State.reset.hbm = [] ∧ State.reset.hostMem = [] ∧ State.reset.fabMem = []

/-- R49, R55, R338, R366, R382, R409, R410, R419 to R421, R423, R426: what reset leaves: the time counter at 0, every warp
slot empty, no context active, no function ready, and the registers of the management blocks at their stated values. -/
def Obligations.ResetLeavesTheStatedValues : Prop :=
  let s := State.reset
  s.time = 0 ∧ s.warps = [] ∧ s.teams = [] ∧ (∀ c ∈ s.contexts, c.2.active = false) ∧ s.regs.ready = 0 ∧
    (s.regs.ctxtab = 0 ∧ s.regs.ctxBusy = none ∧ s.regs.ctxResult = 0 ∧ s.regs.invCtx = 0 ∧ s.regs.invVa = 0 ∧
      s.regs.invLen = 0 ∧ s.regs.invSig = 0 ∧ s.regs.invErr = false ∧ s.invQ = [] ∧ s.regs.keyIdx = 0 ∧
      ∀ b ∈ s.regs.keyData, b = 0) ∧
    (s.regs.leasetab = 0 ∧ s.regs.leaseBusy = none ∧ s.regs.leaseResult = 0 ∧ s.fabricTimeout = 1000 ∧
      ∀ k < 16, s.planePort.getD k 0 = k ∧ s.planeDrain.getD k true = false ∧ s.planeShared.getD k true = false) ∧
    s.portUp = 0 ∧
    (s.regs.rectab = 0 ∧ s.regs.preBusy = none ∧ s.regs.preResult = 0 ∧ s.regs.presig = 0) ∧
    (s.err.log = 0 ∧ s.err.ctl = 0 ∧ s.err.widx = 0 ∧ s.err.ridx = 0 ∧ s.err.ceCnt = 0 ∧ s.err.lost = 0) ∧
    (s.devnum = 0 ∧ s.regs.fwstage = 0 ∧ (∀ n, kget s.regs.lqtab n 0 = 0) ∧ (∀ n, kget s.regs.apwin n 0 = 0) ∧
      s.regs.pwrcap = 3200 ∧ s.regs.pwrnow = 0 ∧ s.regs.thrcnt = 0 ∧ s.regs.temp = 0)

/-- Integer and logic lane words give exact results in the executing lanes, changing nothing else; float, packed and
conversion lane words complete: `IntegerLaneWordsGiveExactResults`, `LogicLaneWordsGiveTheirBits` and
`FloatLaneWordsComplete`.
Exec answers a next state for: .iadd, .isub, .iaddi, .iabsd, .imin, .imax, .umin, .umax, .imul24, .umul24, .imad24, .imul,
.imulhi, .umulhi, .idiv, .udiv, .irem, .urem, .iadds, .isubs, .imad32, .iadd64, .isub64, .and, .or, .xor, .andn, .ctz,
.clz, .popc, .brev, .shl, .shr, .sar, .rotl, .bfe, .bfi, .prmt, .lop3, .lspec, .mov, .movi, .sel, .p2v, .fadd, .fsub,
.fmul, .ffma, .fmin, .fmax, .fmed3, .fclamp, .frnd, .fabs, .fneg, .frcp, .frsq, .fsqrt, .fdiv, .fexp2, .flog2, .fsin,
.fcos, .ftanh, .hadd2, .hsub2, .hmul2, .hfma2, .hmin2, .hmax2, .hmed3, .hclamp2, .badd2, .bmul2, .bfma2, .bmin2, .bmax2,
.cvt, .pack2, .pack4, .unpack, .qb8. -/
def Obligations.IntegerAndLogicLaneWordsGiveExactResults : Prop :=
  Claims.IntegerLaneWordsGiveExactResults ∧ Claims.LogicLaneWordsGiveTheirBits ∧ Claims.FloatLaneWordsComplete

/-- Float and conversion words give the model's functions' values (transcendentals: log entry 32); its rounding is
Convert, of exact sums and products: `FloatAndConversionWordsGiveTheirFunctions`, `ConvertRoundsToTheGrid` and
`ArithmeticIsExactBeforeItsRounding`.
Exec answers a next state for: .fadd, .fsub, .fmul, .ffma, .fmin, .fmax, .fmed3, .fclamp, .frnd, .fabs, .fneg, .frcp,
.frsq, .fsqrt, .fdiv, .fexp2, .flog2, .fsin, .fcos, .ftanh, .hadd2, .hsub2, .hmul2, .hfma2, .hmin2, .hmax2, .hmed3,
.hclamp2, .badd2, .bmul2, .bfma2, .bmin2, .bmax2, .cvt, .pack2, .pack4, .unpack, .qb8. -/
def Obligations.FloatWordsGiveTheModelsValuesAndItsRoundingIsConvert : Prop :=
  Claims.FloatAndConversionWordsGiveTheirFunctions ∧ Claims.ConvertRoundsToTheGrid ∧ Claims.ArithmeticIsExactBeforeItsRounding

/-- Cross-lane, predicate and lane-move words give their lanes' results and change nothing else:
`CrossLaneAndPredicateWordsGiveTheirLanes` and `LaneMoveWordsRunInEitherMode`.
Exec answers a next state for: .shfl, .vote, .matchAny, .reduce, .scan, .rdlane, .wrlane, .vpcget, .vpcset, .icmp, .ucmp,
.fcmp, .fclass, .plop, .v2p. -/
def Obligations.CrossLaneAndMoveWordsGiveTheirLanes : Prop :=
  Claims.CrossLaneAndPredicateWordsGiveTheirLanes ∧ Claims.LaneMoveWordsRunInEitherMode

/-- R167 to R170: the scalar words. A word whose uniform guard is false changes nothing but the place of its warp.
Exec answers a next state for: .sadd, .ssub, .saddi, .smul, .smulhi, .smin, .smax, .sminn, .smaxn, .sand, .sor, .sxor,
.sshl, .sshr, .ssar, .smov, .smovi, .sadd64, .ssub64, .sbfe, .spopc, .sclz, .sdiv, .sdivn, .sfadd, .sfmul, .sffma, .scvt,
.scmp, .ssel, .qlop. -/
def Obligations.ScalarWordsComputeOnceForTheirWarp : Prop :=
  ∀ h d a b c imm sg len pos dt st rmode sat psn ps pdf pdt qa qb qc bop cond lut, len.toNat ≤ 32 →
    ∀ row ∈ scalarRows h d a b imm sg len pos ++ scalarFloatRows h d a b c dt st rmode sat ++
        uniformRows h d a b psn ps pdf pdt qa qb qc bop cond lut,
    ∀ s w, row.Ready s w → row.Runs s w

/-- R40: a lane is ready when it is live and parked neither on late data nor at a JOIN; the issue address is the least vpc of
the ready lanes; the active lanes are the ready ones that stand there. -/
def Obligations.IssueAddressIsLeastReadyVpc : Prop :=
  ∀ (w : Warp), w.inh = false →
    (∀ l < 32, laneBit w.ready l = true ↔
      laneBit w.live l = true ∧ (∀ x ∈ w.windows, x.closed = true → x.handler = false → laneBit x.lanes l = false) ∧
        ∀ e ∈ w.waitK, laneBit e.2 l = false) ∧
    ((∃ l < 32, laneBit w.ready l = true) →
      (∃ l < 32, laneBit w.ready l = true ∧ w.issueAddr = canon57 (w.vpcOf l) ∧
        ∀ k < 32, laneBit w.ready k = true → w.vpcOf l ≤ w.vpcOf k) ∧
      (∀ l < 32, laneBit w.active l = true ↔ laneBit w.ready l = true ∧ canon57 (w.vpcOf l) = w.issueAddr))

/-- Lane and warp branches, and BRX through its table, move their lanes; a bad target raises ALIGN or VA_RANGE:
`LaneBranchesMoveTheirLanes`, `WarpBranchesMoveTheWarp` and `BrxBranchesThroughItsTable`.
Exec answers a next state for: .lbra, .lbrx, .bra, .call, .ret, .brx. -/
def Obligations.BranchesMoveTheirLanesOrTheirWarp : Prop :=
  Claims.LaneBranchesMoveTheirLanes ∧ Claims.WarpBranchesMoveTheWarp ∧ Claims.BrxBranchesThroughItsTable

/-- R85: LOOP and LOOPI with a count of 0, or a false guard, jump to the exit address. Otherwise they open a record one
level deeper, unless three are open or the exit lies beyond that of the record outside, which raises LOOP. An exit address
that is not canonical raises VA_RANGE (R60). The model checks the exit address at every arrival and before LOOP
(notes/assumptions/18.md), and gives VA_RANGE a TINFO of 0 (22.md).
Exec answers a next state for: .loop, .loopi. -/
def Obligations.LoopWordsOpenARecord : Prop :=
  ∀ (h : WarpHdr) (sa : Reg) (count : BitVec 16) (lend : BitVec 14) (s : State) (w : Warp), 3 ≤ lend.toNat →
    s.warp? s.cur = some w → w.wait = none → ∀ e ∈ loopWords h sa count lend w, ¬ EndsLoop w e.1 →
      let records := if w.inh then w.hloops else w.loops
      let exitAt := w.issueAddr + 4 * lend.toNat
      (¬ Canonical exitAt → Traps e.1 s w .vaRange (exitAt % 2 ^ 64) (BitVec.allOnes 32) 0) ∧
      (Canonical exitAt →
      let inside := ∀ r, records.head? = some r → exitAt ≤ r.exitAddr
      (w.qGuard h = false ∨ e.2 = 0 → Branches e.1 s w w fun _ => exitAt) ∧
      (w.qGuard h = true → e.2 ≠ 0 → loopDepth w < 3 → inside → ∃ w',
        exec e.1 s = .next (s.setWarp s.cur w') ∧ w' = { placedAs w w' with badRegs := w'.badRegs } ∧ SoundAfter w w' ∧
        (if w.inh then
          w'.hloops = ⟨canon57 (w.issueAddr + 8), exitAt, e.2⟩ :: w.hloops ∧ w'.hpc = canon57 (w.issueAddr + 8) ∧
            w'.loops = w.loops ∧ w'.lc = w.lc ∧ w'.vpc = w.vpc
        else
          w'.loops = ⟨canon57 (w.issueAddr + 8), exitAt, e.2⟩ :: w.loops ∧ w'.hloops = w.hloops ∧ w'.hpc = w.hpc ∧
            (∀ d, kget w'.lc d 0 = if d = loopDepth w then e.2 else kget w.lc d 0) ∧
            ∀ l < 32, w'.vpcOf l = if laneBit w.active l then (w.issueAddr + 8) % 2 ^ 57 else w.vpcOf l)) ∧
      (w.qGuard h = true → e.2 ≠ 0 → (loopDepth w = 3 ∨ (loopDepth w < 3 ∧ ¬ inside)) →
        Traps e.1 s w .loop 0 (BitVec.allOnes 32) (BitVec.ofNat 32 (loopDepth w))))

/-- The end test of a loop counts down, and a diverged or forbidden end raises LOOP: `LoopEndTestCountsDown`,
`DivergedLoopEndTraps` and `ForbiddenLoopEndsTrap`. -/
def Obligations.LoopEndsCountDownOrTrap : Prop :=
  Claims.LoopEndTestCountsDown ∧ Claims.DivergedLoopEndTraps ∧ Claims.ForbiddenLoopEndsTrap

/-- R87: LBREAK with a true guard closes the innermost record, clears its counter and branches; with no record, or in a
diverged epilogue warp, it raises LOOP, which is DOUBLE in handler mode. With a false guard it does nothing. In handler
mode LIVE is not asked (the model's choice, notes/assumptions/121.md), and VA_RANGE has TINFO 0 (22.md).
Exec answers a next state for: .lbreak. -/
def Obligations.LoopBreakClosesTheInnermostRecord : Prop :=
  ∀ (h : WarpHdr) (off : BitVec 18) (s : State) (w : Warp), s.warp? s.cur = some w → w.wait = none →
    ¬ EndsLoop w (.lbreak h off) →
    (w.qGuard h = false → Branches (.lbreak h off) s w w fun _ => w.issueAddr + 4) ∧
    (w.qGuard h = true → ¬ Reaches w off → Traps (.lbreak h off) s w .vaRange (relative w off) (BitVec.allOnes 32) 0) ∧
    (w.qGuard h = true → Reaches w off →
      (w.inh = true → ∀ r rs, w.hloops = r :: rs → exec (.lbreak h off) s =
        .next (s.setWarp s.cur { placedAs w w with hloops := rs, hpc := relative w off })) ∧
      (w.inh = false → ∀ r rs, w.loops = r :: rs → (w.role = .epilogue → w.active = w.live) → ∃ w',
        exec (.lbreak h off) s = .next (s.setWarp s.cur w') ∧ w' = { placedAs w w' with badRegs := w'.badRegs } ∧
          SoundAfter w w' ∧ w'.loops = rs ∧
          w'.hloops = w.hloops ∧ w'.hpc = w.hpc ∧
          (∀ d, kget w'.lc d 0 = if d = rs.length then 0 else kget w.lc d 0) ∧
          ∀ l < 32, w'.vpcOf l = if laneBit w.active l then relative w off % 2 ^ 57 else w.vpcOf l) ∧
      (w.inh = false → (w.loops = [] ∨ (w.role = .epilogue ∧ w.active ≠ w.live)) →
        Traps (.lbreak h off) s w .loop 0 (BitVec.allOnes 32) (BitVec.ofNat 32 w.loops.length)) ∧
      (w.inh = true → w.hloops = [] → ∃ s' w', exec (.lbreak h off) s = .next s' ∧ s'.warp? s.cur = some w' ∧
        w'.tcause = 25 ∧ w'.dcause = causeCode .loop))

/-- JOIN parks until its mask has arrived, and stuck waiters are released one mask at a time:
`JoinParksUntilItsMaskArrives` and `StuckJoinsReleaseTheLowestWaiter`.
Exec answers a next state for: .join, .joinForcedRelease. -/
def Obligations.JoinsParkAndReleaseTheirLanes : Prop :=
  Claims.JoinParksUntilItsMaskArrives ∧ Claims.StuckJoinsReleaseTheLowestWaiter

/-- SRD and SWR read and write the special registers, CLK the time counter, and NOP does nothing:
`SrdReadsTheSpecialRegisters`, `SwrWritesOneSpecialRegister` and `ClkReadsTheTimeCounter`.
Exec answers a next state for: .srd, .swr, .clk, .nop. -/
def Obligations.SpecialRegistersAreReadAndWritten : Prop :=
  Claims.SrdReadsTheSpecialRegisters ∧ Claims.SwrWritesOneSpecialRegister ∧ Claims.ClkReadsTheTimeCounter

/-- TRAP enters the handler with its cause; without one, or in handler mode, the team is halted: `TrapEntersTheHandler`
and `UnhandledTrapHaltsTheTeam`.
Exec answers a next state for: .trap. -/
def Obligations.TrapWordsEnterTheHandlerOrHaltTheTeam : Prop :=
  Claims.TrapEntersTheHandler ∧ Claims.UnhandledTrapHaltsTheTeam

/-- Decode causes come first, in their order, with no effect; unallocated words are illegal; refused types raise FMT:
`DecodeCausesBarEffects`, `ConversionTypesOutsideTheirListsTrap` and `UnallocatedOpcodesAreIllegal`.
Exec answers a next state for: .unallocatedOpcode. -/
def Obligations.DecodeCausesComeBeforeAnyEffect : Prop :=
  Claims.DecodeCausesBarEffects ∧ Claims.ConversionTypesOutsideTheirListsTrap ∧ Claims.UnallocatedOpcodesAreIllegal

/-- Loads and atomics open their window with their accesses: `LoadsOpenAWindow`, `ScalarLoadsOpenAWindow` and
`AtomicsOpenAWindow`.
Exec answers a next state for: .ld, .lds, .accrd, .sld, .slds, .atom, .atoms, .satom. -/
def Obligations.LoadsAndAtomicsOpenAWindow : Prop :=
  Claims.LoadsOpenAWindow ∧ Claims.ScalarLoadsOpenAWindow ∧ Claims.AtomicsOpenAWindow

/-- A local load fills its lanes from the core's storage; a global load reads its units at their homes:
`LocalLoadsReadTheirBytes`, `ScalarLoadReadsItsHome` and `LaneLoadReadsItsHomes`. -/
def Obligations.LoadsReadTheirBytes : Prop :=
  Claims.LocalLoadsReadTheirBytes ∧ Claims.ScalarLoadReadsItsHome ∧ Claims.LaneLoadReadsItsHomes

/-- Stores, CST, DISCARD and SPCLR enter the store queue with their data: `LaneStoresEnterTheQueue`,
`ScalarStoresEnterTheQueue` and `OtherStoresEnterTheQueue`.
Exec answers a next state for: .st, .sts, .accwr, .sst, .ssts, .cst, .discard, .spclr. -/
def Obligations.StoresEnterTheirQueue : Prop :=
  Claims.LaneStoresEnterTheQueue ∧ Claims.ScalarStoresEnterTheQueue ∧ Claims.OtherStoresEnterTheQueue

/-- R74, R222, R223: a lane memory word whose address is not a multiple of its size in some lane of X raises ALIGN with
those lanes and the size code; else one outside its space in some lanes raises VA_RANGE, SPAD_RANGE or ACC_RANGE with
those lanes. It has no other effect. TINFO = 0 of the range causes is the model's choice (notes/assumptions/22.md). -/
def Obligations.MemoryWordsCheckTheirAddresses : Prop :=
  ∀ (h : LaneHdr) (d a b : Reg) (la : BitVec 4) (sx : Bool) (op : Aop) (off : BitVec 24) (off14 : BitVec 14) (size : Size)
    (scope : Scope) (ord : Ord), off14.toInt = off.toInt →
    ∀ f ∈ laneLoads h d a la sx off size scope ord ++ laneStores h d a off size scope ord ++
        laneAtomics h d a la b op off14 size scope ord,
    ∀ (s : State) (w : Warp) (t : Team) (l : Nat), IssuesLane s w → InTeam s w t → d.toNat + size.regs ≤ w.vregs →
      a.toNat + pointerRegs f.sp ≤ w.vregs → b.toNat + operandRegs op size ≤ w.vregs →
      let ad := laneAt w f.sp a off.toInt
      let crooked := lanesWith (w.exec h) fun l => decide (ad l % size.bytes ≠ 0)
      let cause : Cause := match f.sp with | .glob => .vaRange | .spad => .spadRange | .orang => .accRange
      (IsLowest crooked l →
        Traps f.word s w .align ((ad l) % 2 ^ 64).toNat crooked (BitVec.ofNat 32 size.bits.toNat)) ∧
      ∀ far : LaneMask,
        (∀ k < 32, laneBit far k = true ↔ laneBit (w.exec h) k = true ∧ ¬ LaneInSpace s w t f.sp k (ad k) size.bytes) →
        crooked = 0 → IsLowest far l → Traps f.word s w cause ((ad l) % 2 ^ 64).toNat far 0

/-- Atomics act in lane order, on the scratchpad and at the homes of global memory: `ScratchpadAtomicsApplyInLaneOrder`,
`ScalarAtomicReplacesItsUnitAtHome` and `LaneAtomicsReplaceTheirUnitsAtHome`. -/
def Obligations.AtomicsReplaceTheirUnit : Prop :=
  Claims.ScratchpadAtomicsApplyInLaneOrder ∧ Claims.ScalarAtomicReplacesItsUnitAtHome ∧ Claims.LaneAtomicsReplaceTheirUnitsAtHome

/-- A queued store, DISCARD or SPCLR acts where its addresses say, when it is performed:
`StoresWriteTheirBytesWhenPerformed` and `LaneStoresReachTheirHomes`.
Exec answers a next state for: .storePerformed. -/
def Obligations.QueuedStoresReachTheirPlaces : Prop :=
  Claims.StoresWriteTheirBytesWhenPerformed ∧ Claims.LaneStoresReachTheirHomes

/-- R209, R212, R218, R236: FENCE completes when every earlier load has its value and, with a release, every earlier store
has been performed and nothing is left to write back; with an acquire the copies of its scope are dropped. FENCEA
completes so once its warp has no copy and no engine job left, and drops the copies of what those have written. Otherwise
the warp waits at the word.
Exec answers a next state for: .fence, .fencea. -/
def Obligations.FencesWaitForEarlierAccesses : Prop :=
  ∀ (h : WarpHdr) (sc : Scope) (ord : Ord) (s : State) (w : Warp), Issues s w h → LoadsDone w →
    (FenceHolds s w sc ord → MayEndHere w (.fence h sc ord) → ∃ s1, Fenced s s1 w sc ord ∧
      Completes (.fence h sc ord) s s1 w { w with prologue := false }) ∧
    (FenceHolds s w sc ord → NoAsyncLeft s w → MayEndHere w (.fencea h sc ord) →
      ∃ s1 s2, Fenced s s1 w sc ord ∧ TakesGained s1 s2 w ord ∧ Completes (.fencea h sc ord) s s2 w { w with
        prologue := false, gained := if ord = .acq ∨ ord = .acqrel then [] else w.gained }) ∧
    (ord = .rel ∨ ord = .acqrel → w.storeQ ≠ [] →
      (MayEndHere w (.fence h sc ord) → WaitsAt (.fence h sc ord) s s w w .fence) ∧
      (MayEndHere w (.fencea h sc ord) → WaitsAt (.fencea h sc ord) s s w w .fence)) ∧
    (¬ NoAsyncLeft s w → MayEndHere w (.fencea h sc ord) → WaitsAt (.fencea h sc ord) s s w w .fence)

/-- Prefetches change copies alone; an evicted line reaches its home: `PrefetchesChangeOnlyCopies` and
`EvictedLinesReachTheirHome`.
Exec answers a next state for: .pref, .spref, .rdcEviction. -/
def Obligations.PrefetchesAndEvictionsMoveOnlyCopies : Prop :=
  Claims.PrefetchesChangeOnlyCopies ∧ Claims.EvictedLinesReachTheirHome

/-- SPQRY reads the line bits of a range, CAPQ opens a window with its capability value, and TIERQ answers from the leaf:
`SpqryReadsTheLineBits`, `CapqOpensAWindow` and `TierqAnswersFromTheLeaf`.
Exec answers a next state for: .spqry, .capq, .tierq. -/
def Obligations.SpqryCapqAndTierqAnswer : Prop :=
  Claims.SpqryReadsTheLineBits ∧ Claims.CapqOpensAWindow ∧ Claims.TierqAnswersFromTheLeaf

/-- A window closes at its count, with the data that is there; later data is written to its late lanes, which go on:
`WindowsCloseAtTheirCount` and `LateDataIsWrittenWhenItArrives`.
Exec answers a next state for: .lateDataArrival. -/
def Obligations.WindowsCloseAndTakeTheirData : Prop :=
  Claims.WindowsCloseAtTheirCount ∧ Claims.LateDataIsWrittenWhenItArrives

/-- BAR counts the arrivals of its generation; GBAR waits for its gang: `BarCountsArrivals` and `GbarWaitsForItsGang`.
Exec answers a next state for: .bar, .gbar. -/
def Obligations.BarriersCountTheirArrivals : Prop :=
  Claims.BarCountsArrivals ∧ Claims.GbarWaitsForItsGang

/-- R35 to R37: RACQ of a team below its full allotment parks the team; the oldest parked team of a core is granted its
lines, present and zero, when every core of the team has room for them and no older team is parked there. RREL gives the
lines back when no copy, matrix operation or earlier access of the team addresses them, and waits until then. That RREL
waits for the earlier loads and stores too is the model's reading (notes/assumptions/37.md), and so is RACQ's wait in a
gang (154.md).
Exec answers a next state for: .racq, .rrel, .racqGrant, .rrelDrainDone. -/
def Obligations.ScratchpadAllotmentGrowsAndShrinks : Prop :=
  (∀ (h : WarpHdr) (s : State) (w : Warp) (t : Team), Issues s w h → InTeam s w t → w.taskst = false →
    MayEndHere w (.racq h) → MayEndHere w (.rrel h) →
    let given (t' : Team) : Prop := t' = { t with spads := t'.spads, allot := t.desc.spro } ∧
      ∀ p < t.cores.length, ∀ q < t.desc.spro,
        mget (kget t'.spads p ⟨[], [], []⟩).cells q = mget (kget t.spads p ⟨[], [], []⟩).cells q
    (t.allot = t.desc.sfull → Completes (.racq h) s s w w) ∧
    (t.allot ≠ t.desc.sfull → WaitsAt (.racq h) s (s.setTeam w.team { t with parked := true }) w w .racq) ∧
    (t.allot = t.desc.spro → Completes (.rrel h) s s w w) ∧
    (t.allot ≠ t.desc.spro → LoadsDone w → drainLeft (s.setWarp s.cur w) w.team t = true →
      WaitsAt (.rrel h) s s w w .rrel) ∧
    (t.allot ≠ t.desc.spro → LoadsDone w → drainLeft (s.setWarp s.cur w) w.team t = false →
      ∃ t', given t' ∧ Completes (.rrel h) s (s.setTeam w.team t') w w)) ∧
  (∀ (s : State) (wid : Nat) (w : Warp) (x : Wait) (t : Team), Holding s wid w x → InTeam s w t → x.kind = .rrel →
    drainLeft s w.team t = false → ∃ t' w', exec (.rrelDrainDone wid) s = .next ((s.setTeam w.team t').setWarp wid w') ∧
      t' = { t with spads := t'.spads, allot := t.desc.spro } ∧ Resumes w w' w x) ∧
  ∀ (s : State) (core wid : Nat) (w : Warp) (x : Wait) (t : Team), Holding s wid w x → InTeam s w t → x.kind = .racq →
    core ∈ t.cores → t.parked = true → t.preempting = false →
    (∀ e ∈ s.teams, e.1 = w.team → e.2 = t) → (∀ e ∈ s.warps, e.1 = wid → e.2 = w) →
    (∀ e ∈ s.teams, e.1 ≠ w.team → ∀ c ∈ t.cores, c ∈ e.2.cores → e.2.parked = true → e.2.preempting = false →
      t.admitOrder < e.2.admitOrder) →
    (∀ e ∈ s.warps, e.2.team = w.team → e.1 ≠ wid → ∀ y, e.2.wait = some y → y.kind ≠ .racq) →
    (∀ c ∈ t.cores, t.desc.sfull - t.allot ≤ Config.spadBytes - spadHeld s c) → ∃ t' w',
      exec (.racqGrant core) s = .next ((s.setTeam w.team t').setWarp wid w') ∧ Resumes w w' w x ∧
      t' = { t with spads := t'.spads, allot := t.desc.sfull, parked := false } ∧
      ∀ p < t.cores.length, ∀ line,
        let a := kget t.spads p ⟨[], [], []⟩
        let b := kget t'.spads p ⟨[], [], []⟩
        if t.desc.spro / 128 ≤ line ∧ line < t.desc.spro / 128 + (t.desc.sfull - t.desc.spro) / 128 then
          line ∉ b.absent ∧ line ∉ b.written ∧ ∀ k < 128, mget b.cells (128 * line + k) = 0
        else (line ∈ b.absent ↔ line ∈ a.absent) ∧ (line ∈ b.written ↔ line ∈ a.written) ∧
          ∀ k < 128, mget b.cells (128 * line + k) = mget a.cells (128 * line + k)

/-- EXIT and LEXIT end their lanes; a team parked for 1 ms is stalled: `ExitWordsEndTheirLanes` and
`ParkedTeamsAreStalled`.
Exec answers a next state for: .exit, .lexit, .teamStall. -/
def Obligations.ExitsAndStallsEndOrStopWarps : Prop :=
  Claims.ExitWordsEndTheirLanes ∧ Claims.ParkedTeamsAreStalled

/-- MBINIT, MBEXP, MBARR and MBWAIT act on their record, and a completed phase wakes its waiters:
`BarrierRecordWordsChangeTheirRecord` and `MbwaitAnswersWhetherThePhaseMovedOn`.
Exec answers a next state for: .mbinit, .mbexp, .mbarr, .mbwait, .mbwaitTimeout. -/
def Obligations.BarrierRecordsCountArrivalsAndBytes : Prop :=
  Claims.BarrierRecordWordsChangeTheirRecord ∧ Claims.MbwaitAnswersWhetherThePhaseMovedOn

/-- R94, R412, R413: SLEEP waits for its span of the time counter; EVPOST writes a USER record into the context's event
queue, waits while the queue is full, and has no effect when it is disabled; an RIDX that cannot be corrected is reported to
the host (R404), and the queue counts as full. Inside a task both raise TASK with their opcode. When the issue of a paused
core goes on, the spans of its waits and of its teams' stalls go on from there (R426; that a core at 0 MHz is a paused one
is the model's reading, notes/assumptions/101.md).
Exec answers a next state for: .sleep, .evpost, .sleepEnd, .eventQueueSpace, .issuePauseEnd. -/
def Obligations.SleepAndEvpostActOnTheirContext : Prop :=
  (∀ (h : WarpHdr) (sa sb : Reg) (s : State) (w : Warp) (t : Team), Issues s w h → InTeam s w t →
    MayEndHere w (.sleep h sa) → MayEndHere w (.evpost h sa sb) →
    let q := queueOf s t.ctx
    (w.taskst = false → w.sr sa.toNat = 0 → Completes (.sleep h sa) s s w w) ∧
    (w.taskst = false → w.sr sa.toNat ≠ 0 → WaitsAt (.sleep h sa) s s w w (.sleep s.time.toNat (w.sr sa.toNat))) ∧
    (w.taskst = false → ¬ QueueOn q → Completes (.evpost h sa sb) s s w w) ∧
    (w.taskst = false → QueueOn q → s.homeBad (.own (q.base + 8) 0) 8 = none → QueueFull s q →
      WaitsAt (.evpost h sa sb) s s w w .evpost) ∧
    (∀ k, w.taskst = false → QueueOn q → s.homeBad (.own (q.base + 8) 0) 8 = some k →
      WaitsAt (.evpost h sa sb) s (s.hostError t.ctx 0xFF 0xFFFF (BitVec.ofNat 32 (0x100 + k)) (BitVec.ofNat 32 (q.base + 8)))
        w w .evpost) ∧
    (w.taskst = false → QueueOn q → ¬ QueueFull s q → q.base % 4096 = 0 → q.base + 2 ^ 22 ≤ 2 ^ 63 → ∃ s',
      Posted s s' t.ctx 1 w.num w.core (w.sr sa.toNat) (w.sr sb.toNat) ∧ s'.warps = s.warps ∧
      Completes (.evpost h sa sb) s s' w w) ∧
    (w.taskst = true → ∀ i ∈ [Instr.sleep h sa, .evpost h sa sb],
      Traps i s w .task 0 (BitVec.allOnes 32) (warpOpcode i))) ∧
  (∀ (s : State) (wid : Nat) (w : Warp) (x : Wait) (start : Nat) (span : W32), Holding s wid w x →
    x.kind = .sleep start span → start + span.toNat ≤ s.time.toNat → ∃ w',
      exec (.sleepEnd wid) s = .next (s.setWarp wid w') ∧ Resumes w w' w x) ∧
  (∀ (s : State) (wid : Nat) (w : Warp) (x : Wait) (t : Team) (h : WarpHdr) (sa sb : Reg), Holding s wid w x →
    InTeam s w t → x.kind = .evpost → x.word = .evpost h sa sb →
    (∀ e ∈ s.warps, e.1 = wid → e.2 = w) → (∀ e ∈ s.warps, e.1 ≠ wid → ∀ y, e.2.wait = some y → y.kind = .evpost →
      ∀ u, s.team? e.2.team = some u → u.ctx = t.ctx → x.order < y.order) →
    (∀ e ∈ s.warps, ∀ y, e.2.wait = some y → y.kind = .evpost → s.team? e.2.team ≠ none) →
    let q := queueOf s t.ctx
    (¬ QueueOn q → ∃ w', exec (.eventQueueSpace t.ctx) s = .next (s.setWarp wid w') ∧ Resumes w w' w x) ∧
    (QueueOn q → s.homeBad (.own (q.base + 8) 0) 8 = none → QueueFull s q →
      exec (.eventQueueSpace t.ctx) s = .next s) ∧
    (QueueOn q → ¬ QueueFull s q → q.base % 4096 = 0 → q.base + 2 ^ 22 ≤ 2 ^ 63 → ∃ s1 w',
      exec (.eventQueueSpace t.ctx) s = .next (s1.setWarp wid w') ∧ Resumes w w' w x ∧ s1.warps = s.warps ∧
      Posted s s1 t.ctx 1 w.num w.core (w.sr sa.toNat) (w.sr sb.toNat))) ∧
  ∀ (s : State) (core t0 : Nat), kget? s.paused core = some t0 → t0 ≤ s.time.toNat →
    let later (x : Nat) : Nat := min s.time.toNat (x + min (s.time.toNat - t0) 140000)
    ∃ s', exec (.issuePauseEnd core) s = .next s' ∧
    s' = { s with warps := s'.warps, teams := s'.teams, paused := s'.paused } ∧
    kget? s'.paused core = none ∧ (∀ c, c ≠ core → kget? s'.paused c = kget? s.paused c) ∧
    (∀ k t, s.team? k = some t → s'.team? k = some (if core ∈ t.cores then
      { t with stuckSince := t.stuckSince.map later } else t)) ∧
    ∀ k w, s.warp? k = some w → s'.warp? k = some (if w.core = core then
      { w with wait := w.wait.map fun x => { x with since := later x.since } } else w)

/-- TRET returns the warp and its lanes to TPC, and settles the delivered log entry, a deferred rollback and JOIN waiters:
`TretReturnsToTpc` and `TretSettlesWhatIsOwed`.
Exec answers a next state for: .tret. -/
def Obligations.TretReturnsAndSettles : Prop :=
  Claims.TretReturnsToTpc ∧ Claims.TretSettlesWhatIsOwed

/-- R314, R384 to R386, R390: TRAP_DELIVERY gives a warp outside handler mode its oldest cause: one that stands in no log
entry first, then the oldest entry of the operand log, which stays there as delivered; what its word had asked for is
withdrawn. TEAM_STALL waits while it has still to reach a lower-numbered warp of the team, shows every live lane in TACT
and takes a BAR arrival back. In handler mode the causes of accesses made before the trap stay where they are. That causes
outside the log come first is the model's reading (notes/assumptions/63.md).
Exec answers a next state for: .trapDelivery. -/
def Obligations.PendingCausesAreDelivered : Prop :=
  ∀ (s : State) (wid n : Nat) (w : Warp) (t : Team) (c : Context), s.warp? wid = some w → InTeam s w t → t.halted = none →
    t.preempting = false → w.exited = false → w.tretDue = false → kget? s.contexts t.ctx = some c → c.thand = n → n ≠ 0 →
    (∀ p k rest, w.inh = false → w.wait = none → w.ready ≠ 0 → w.pending = (p, k) :: rest → p.cause ≠ .teamStall →
      exec (.trapDelivery wid) s = .next ((s.dropWaiters (Waiter.ofWord wid)).setWarp wid
        { entered w n p.cause p.addr p.lanes p.info with pending := rest })) ∧
    (∀ e rest, w.inh = false → w.wait = none → w.ready ≠ 0 → w.pending = [] → w.opLog = e :: rest → e.delivered = false →
      e.trap.cause ≠ .teamStall → exec (.trapDelivery wid) s = .next ((s.dropWaiters (Waiter.ofWord wid)).setWarp wid
        { entered w n e.trap.cause e.trap.addr e.trap.lanes e.trap.info with
          opLog := { e with delivered := true } :: rest })) ∧
    (∀ p k rest x b y, w.inh = false → w.wait = some x → x.kind = .bar b → w.pending = (p, k) :: rest →
      p.cause = .teamStall → kget? t.bars b = some y →
      (∀ v ∈ s.warps, v.2.team = w.team → v.2.num < w.num → ∀ q ∈ v.2.pending, q.1.cause ≠ .teamStall) →
      ∃ t', exec (.trapDelivery wid) s =
        .next (((s.setTeam w.team t').dropWaiters (Waiter.ofWord wid)).setWarp wid { entered w n .teamStall p.addr p.lanes p.info with
          pending := rest, tact := w.live, wait := none, tpc := BitVec.ofNat 64 x.pc, t0 := BitVec.ofNat 64 x.pc }) ∧
        t' = { t with bars := kput t.bars b { y with arr := y.arr - 1 } }) ∧
    (∀ p k, w.pending = [(p, k)] → p.cause = .teamStall → w.opLog = [] →
      (∃ v ∈ s.warps, v.2.team = w.team ∧ v.2.num < w.num ∧ ∃ q ∈ v.2.pending, q.1.cause = .teamStall) →
      exec (.trapDelivery wid) s = .next s) ∧
    (w.inh = true → w.pending = [] → (∀ e ∈ w.opLog, e.acc.seq < w.hseq) → exec (.trapDelivery wid) s = .next s)

/-- R164 to R167: with the activation store of its core held by its team and no load in progress, TBLLD fills the bank that
is not active with the image's coefficients, TBLSWP changes the active bank, and FLUT evaluates the lanes of X from the
active bank, in the core cycle of a TBLSWP from the bank before it: a NaN gives the canonical NaN, and a segment whose c1
and c2 are +0 gives c0. A store that another team holds makes the warp wait.
Exec answers a next state for: .tblld, .tblswp, .flut. -/
def Obligations.ActivationTablesLoadSwapAndEvaluate : Prop :=
  ∀ (s : State) (w : Warp) (t : Team), s.warp? s.cur = some w → w.wait = none → InTeam s w t → w.role = .epilogue →
    w.taskst = false → s.bad = [] →
    let a := storeOf s w
    let k := 1 - a.active
    let swapped : Prop := ∃ t b, a.before = some (t, b) ∧ s.sameCycle w.core t s.time.toNat = true
    ∀ serving, (∀ t b, a.before = some (t, b) → s.sameCycle w.core t s.time.toNat = true → serving = b) →
      (¬ swapped → serving = a.active) →
    (∀ (h : WarpHdr) (sa : Reg) (pa key : Nat),
      let i : Instr := .tblld h sa
      let b := srPair w sa
      w.qGuard h = true → MayEndHere w i → sa.toNat + 2 ≤ 64 → a.holder = some w.team → NobodyLoads s w → a.active ≤ 1 → ¬ swapped →
      b % 64 = 0 → InSpace t .glob b 4096 → NothingBefore w → MappedAtHome s w t b 4096 pa key → ∃ s' w', exec i s = .next s' ∧
        s'.warp? s.cur = some w' ∧ GoesPast w w' i ∧ w' = placedAs w w' ∧ SameMemory s s' ∧
        (storeOf s' w).holder = a.holder ∧ (storeOf s' w).active = a.active ∧
        bankOf (storeOf s' w) a.active = bankOf a a.active ∧
        ∀ j < 256, kget (bankOf (storeOf s' w) k) j [] = tab 3 fun q =>
          BitVec.ofNat 32 (unitOf (fun r => s.homeByte (.own (pa + 16 * j + 4 * q + r) key)) 4)) ∧
    (∀ (h : WarpHdr), w.qGuard h = true → MayEndHere w (.tblswp h) →
      (a.holder = some w.team → NobodyLoads s w →
        Completes (.tblswp h) s (s.setCore w.core { s.core w.core with
          act := { a with active := k, before := some (s.time.toNat, serving) } }) w w) ∧
      (∀ u, a.holder = some u → u ≠ w.team → WaitsAt (.tblswp h) s s w w .actStore)) ∧
    (∀ (h : LaneHdr) (d v : Reg),
      let i : Instr := .flut h d v
      let r (l : Nat) : Nat × Fl := flutEval (bankOf a serving) (w.vr l v.toNat).toNat
      w.inh = false → d.toNat < w.vregs → v.toNat < w.vregs → MayEndHere w i →
      (a.holder = some w.team → ({
        word := i, hdr := h, groups := [(d.toNat, 1), (v.toNat, 1)], reg := put d fun _ _ l => BitVec.ofNat 32 (r l).1
        flags := fun _ x => flagsOver x fun l => (r l).2 } : LaneRow).Runs s w) ∧
      (∀ u, a.holder = some u → u ≠ w.team → WaitsAt i s s w w .actStore)) ∧
    (∀ code : W32,
      ((∃ q sg, valOf .f32 code.toNat = .nan q sg) → (flutEval (bankOf a a.active) code.toNat).1 = 0x7FC00000) ∧
      ((∀ q sg, valOf .f32 code.toNat ≠ .nan q sg) → ∀ c0 neg m e,
        kget (bankOf a a.active) (segmentOf (valOf .f32 code.toNat)) [] = [c0, 0, 0] →
        valOf .f32 c0.toNat = .fin neg m e → c0 ≠ 0x80000000 →
        flutEval (bankOf a a.active) code.toNat = (c0.toNat, 0)))

/-- R80: JARR sets the mask it names to the lanes of X, or adds them to it, whichever lanes wait there, and leaves every other
mask as it was; nothing else changes. The next evaluation of R82 is JOIN's (`JoinParksUntilItsMaskArrives`).
Exec answers a next state for: .jarr. -/
def Obligations.JarrSetsItsMask : Prop :=
  ∀ (h : LaneHdr) (acc : Bool) (k : BitVec 3) (s : State) (w : Warp), IssuesLane s w → MayEndHere w (.jarr h acc k) →
    ∃ w1, Completes (.jarr h acc k) s s w w1 ∧ w1 = { w with jm := w1.jm, badRegs := w1.badRegs } ∧ SoundAfter w w1 ∧
      ∀ j, kget w1.jm j 0 = if j = k.toNat then (if acc then kget w.jm j 0 ||| w.exec h else w.exec h) else kget w.jm j 0

/-- R315, R327: ASDECL in the prologue declares its slot, an identical declaration doing nothing, and raises TASK or SET with
its slot number otherwise. ASDROP empties its slot when no task uses it and waits until then.
Exec answers a next state for: .asdecl, .asdrop. -/
def Obligations.AtomicSetsAreDeclaredAndDropped : Prop :=
  ∀ (h : WarpHdr) (sa sb : Reg) (g : BitVec 5) (k : BitVec 4) (s : State) (w : Warp) (t : Team) (c : Context), Issues s w h →
    InTeam s w t → kget? s.contexts t.ctx = some c → sa.toNat + 2 ≤ 64 → sb.toNat + 2 ≤ 64 →
    MayEndHere w (.asdecl h sa sb g k) → MayEndHere w (.asdrop h k) →
    let d : SetDecl := ⟨srPair w sa, srPair w sb, g.toNat⟩
    let i : Instr := .asdecl h sa sb g k
    let refuses (cause : Cause) : Prop := Traps i s w cause 0 (BitVec.allOnes 32) (BitVec.ofNat 32 k.toNat)
    (w.taskst = false → w.prologue = true → ValidSet d c.sets k.toNat →
      (kget? c.sets k.toNat = none → Completes i s
        { s with contexts := kput s.contexts t.ctx { c with sets := kput c.sets k.toNat d } } w w) ∧
      (kget? c.sets k.toNat = some d → Completes i s { s with contexts := kput s.contexts t.ctx c } w w) ∧
      (∀ e, kget? c.sets k.toNat = some e → e ≠ d → refuses .set)) ∧
    (w.taskst = true → refuses .task) ∧
    (w.taskst = false → w.prologue = false ∨ ¬ ValidSet d c.sets k.toNat → refuses .set) ∧
    (w.taskst = false → setInUse s t.ctx k.toNat = true → WaitsAt (.asdrop h k) s s w w .asdrop) ∧
    (w.taskst = false → setInUse s t.ctx k.toNat = false → Completes (.asdrop h k) s
      { s with contexts := kput s.contexts t.ctx { c with sets := kdel c.sets k.toNat } } w w)

/-- TBEGIN, TEND and TABORT begin, commit and abort a task; its loads and stores go through its buffer:
`TaskWordsBeginCommitAndAbort`, `SetStoresEnterTheirBuffer` and `SetLoadsReadHomeAndBuffer`.
Exec answers a next state for: .tbegin, .tend, .tabort. -/
def Obligations.TasksBeginAccessMemoryAndEnd : Prop :=
  Claims.TaskWordsBeginCommitAndAbort ∧ Claims.SetStoresEnterTheirBuffer ∧ Claims.SetLoadsReadHomeAndBuffer

/-- R326: TSTAT gives the buffer units in use, the granules held or requested up to 1,023, PENDING and TASKST, in a task or
outside one, in either mode.
Exec answers a next state for: .tstat. -/
def Obligations.TstatReportsTheTask : Prop :=
  ∀ (h : WarpHdr) (sd : Reg) (s : State) (w : Warp),
    let bits : Nat := (if w.taskPending then 2 else 0) + (if w.taskst then 1 else 0)
    let gives (n : Nat) : WarpRow :=
      { word := .tstat h sd, hdr := h, cls := some .epilogue, reg := putS sd fun _ => BitVec.ofNat 32 (bits + n) }
    (gives 0).Ready s w →
    (w.task = none → (gives 0).Runs s w) ∧
    ∀ k x, SlotOf s w k x →
      (gives (2 ^ 22 * x.buf.length + 2 ^ 12 * min 1023 (x.held.length + x.asked.length + x.unsent.length))).Runs s w

/-- R318 to R320, R324, R328 to R331: a task's requests go out in their order; one is granted when nobody holds its
granule, its slice has room and no request waits for an entry there; it waits behind a holder, who is wounded when
younger, and at a full slice whose youngest holder is wounded when younger. A released granule goes to its oldest request.
A wound rolls its task back, or waits for TRET in handler mode. A waiting TBEGIN takes a slot that is free, and a waiting
TEND commits.
Exec answers a next state for: .granuleRequest, .granuleGrant, .wound, .taskSlotGrant, .taskCommit. -/
def Obligations.GranulesSlotsAndWoundsGoByAge : Prop :=
  ∀ (s : State) (wid : Nat) (w : Warp), s.warp? wid = some w → s.bad = [] →
    (∀ t k g, SlotOf s w t k → (∀ rest, k.unsent ≠ g :: rest) → exec (.granuleRequest wid g) s = .next s) ∧
    (∀ t k g rest, SlotOf s w t k → k.unsent = g :: rest →
      (kget? s.locks g = none → s.sliceUse (granuleSlice s g) < 512 → (∀ x ∈ s.lockWait, x.1 ≠ granuleSlice s g) → ∃ s',
        exec (.granuleRequest wid g) s = .next s' ∧ Granted s s' wid w t k g [] ∧ SameMemory s s') ∧
      (∀ e o a v tv, kget? s.locks g = some e → e.holder = some (o, a) → o ≠ wid → s.warp? o = some v →
        v.task = some tv → ∃ s', exec (.granuleRequest wid g) s = .next s' ∧ SameMemory s s' ∧
        kget? s'.locks g = some { e with waiters := e.waiters ++ [(wid, w.age)] } ∧ s'.warp? wid = some w ∧
        (OlderStamp w.age a → s'.warp? o = some { v with task := some { tv with wounded := true } }) ∧
        (¬ OlderStamp w.age a → s'.warp? o = some v)) ∧
      (kget? s.locks g = none → 512 ≤ s.sliceUse (granuleSlice s g) → ∃ s', exec (.granuleRequest wid g) s = .next s' ∧
        SameMemory s s' ∧ s'.locks = s.locks ∧ s'.lockWait = s.lockWait ++ [(granuleSlice s g, wid, w.age, g)] ∧
        ∀ o a v tv, Youngest s (granuleSlice s g) o a → s.warp? o = some v → v.task = some tv → OlderStamp w.age a →
          s'.warp? o = some { v with task := some { tv with wounded := true } })) ∧
    (∀ t k g e, SlotOf s w t k → kget? s.locks g = some e → e.holder = none → (wid, w.age) ∈ e.waiters →
      (∀ x ∈ e.waiters, x ≠ (wid, w.age) → x.1 ≠ wid ∧ OlderStamp w.age x.2 ∧ ¬ OlderStamp x.2 w.age) →
      (∀ x ∈ s.lockWait, x.1 ≠ e.slice) →
      ∃ s', exec (.granuleGrant g) s = .next s' ∧ SameMemory s s' ∧
        Granted s s' wid w t k g (e.waiters.filter fun x => x.1 != wid)) ∧
    (∀ t k, SlotOf s w t k → t.wounded = true →
      (w.inh = true → exec (.wound wid) s = .next (s.setWarp wid { w with deferredWound := true })) ∧
      (w.inh = false → ∃ s' w', exec (.wound wid) s = .next s' ∧ s'.warp? wid = some w' ∧ RolledBack w w' t k.snap ∧
        TaskFreed s s' wid w t ∧ SameMemory s s')) ∧
    (∀ x h sd k, w.wait = some x → x.kind = .taskSlot → x.word = .tbegin h sd → w.inh = false → wid < 2 ^ 64 →
      (∀ e ∈ s.warps, e.1 = wid → e.2 = w) → SlotFree s w wid k → ∃ w1 w',
        exec (.taskSlotGrant w.core) s = .next ((begun s w wid w.issueAddr k).1.setWarp wid w') ∧
        WithScalar (begun s w wid w.issueAddr k).2 w1 sd (if w.taskPending then w.trc else 0) ∧ Resumes w w' w1 x) ∧
    ∀ x t k, w.wait = some x → x.kind = .commit → SlotOf s w t k → CommitReady s w k → k.buf = [] → ∃ s1 w',
      exec (.taskCommit wid) s = .next (s1.setWarp wid w') ∧ TaskFreed s s1 wid w t ∧ SameMemory s s1 ∧
      Resumes w w' { w with taskst := false, task := none } x

/-- R245 to R247, R250, R251, R256, R260, R264: an accepted copy word enters its core's table with what it has latched. With
every earlier store and atomic performed it may go, and a load makes its lines absent; else its place is the end of the store
queue. It waits while the table is full. An empty slot, a group past s63 and a crooked address are
refused in that order. TLREC fills its slot; TWAIT waits until few enough copies of its warp are left.
Exec answers a next state for: .tcopy, .tstore, .tloadx, .tstorex, .tlrec, .twait. -/
def Obligations.CopyWordsEnterTheTable : Prop :=
  ∀ (h : WarpHdr) (sd sa sb : Reg) (slot : BitVec 4) (bar : BitVec 5) (nobar : Bool) (chain : BitVec 3) (n : BitVec 8)
    (s : State) (w : Warp) (t : Team), Issues s w h → InTeam s w t → w.role = .copy → sa.toNat + 2 ≤ 64 → s.bad = [] →
    (∀ f ∈ copyForms h sd sa sb slot bar nobar chain, MayEndHere w f.1 →
      (kget? t.layouts slot.toNat = none → Traps f.1 s w .fmt 0 (BitVec.allOnes 32) 0x20) ∧
      ∀ rcd, kget? t.layouts slot.toNat = some rcd →
        let x := latched w f.2.1 f.2.2 rcd sd sa sb
        (64 < sb.toNat + recRank rcd → Traps f.1 s w .regRange 0 (BitVec.allOnes 32) (firstWord f.1)) ∧
        (sb.toNat + recRank rcd ≤ 64 → x.img % 16 ≠ 0 → Traps f.1 s w .align x.img (BitVec.allOnes 32) 4) ∧
        (sb.toNat + recRank rcd ≤ 64 → x.img % 16 = 0 → x.tbase % 16 ≠ 0 →
          Traps f.1 s w .align x.tbase (BitVec.allOnes 32) 4) ∧
        (CopyAccepted t w x sb bar nobar → LoadsDone w → 128 ≤ (s.core w.core).copies.length →
          WaitsAt f.1 s s w w .atIssue) ∧
        (CopyAccepted t w x sb bar nobar → AllPerformed w → (s.core w.core).copies.length < 128 → ∃ s1 k e t',
          Completes f.1 s s1 w { w with seq := w.seq + 1 } ∧ kget? (s.core w.core).copies k = none ∧
          (s1.core w.core).copies = kput (s.core w.core).copies k e ∧ Entered w s.cur x bar nobar e ∧ e.go = true ∧
          s1.team? w.team = some t' ∧ Clears t t' w.part e.left ∧
          s1 = { s with cores := s1.cores, teams := s1.teams, stamp := s.stamp + 1 }) ∧
        (CopyAccepted t w x sb bar nobar → LoadsDone w → w.storeQ ≠ [] → (s.core w.core).copies.length < 128 →
          ∃ s1 k e y, Completes f.1 s s1 w { w with seq := w.seq + 1, storeQ := w.storeQ ++ [y] } ∧
          kget? (s.core w.core).copies k = none ∧ (s1.core w.core).copies = kput (s.core w.core).copies k e ∧
          Entered w s.cur x bar nobar e ∧ e.go = false ∧ y.kind = .copyGo w.core k ∧ y.seq = w.seq ∧
          s1 = { s with cores := s1.cores, stamp := s.stamp + 1 })) ∧
    (∀ pa key,
      let i : Instr := .tlrec h sa slot
      let a := srPair w sa
      let bytes := tab 128 fun k => s.homeByte (.own (pa + k) key)
      MayEndHere w i → NothingBefore w → a % 64 = 0 → InSpace t .glob a 128 → MappedAtHome s w t a 128 pa key →
      (recRefusal bytes = none → ∃ s' w', exec i s = .next s' ∧ s'.warp? s.cur = some w' ∧ GoesPast w w' i ∧
        w' = placedAs w w' ∧ s'.team? w.team = some { t with layouts := kput t.layouts slot.toNat bytes } ∧
        SameMemory s s') ∧
      (∀ c, recRefusal bytes = some c → Traps i s w .fmt 0 (BitVec.allOnes 32) c)) ∧
    (MayEndHere w (.twait h n) →
      (copiesLeft s w ≤ n.toNat → Completes (.twait h n) s s w w) ∧
      (n.toNat < copiesLeft s w → WaitsAt (.twait h n) s s w w .twait))

/-- R248, R249, R256, R257, R259, R261: a chunk of a plain load of one row of bytes writes them to the scratchpad as they
stand in the tensor; a line is delivered once the copy has written it, becomes present when no other copy of the team owes
it (one that entered later owes it from its clearing on, notes/assumptions/147.md), and credits the barrier; a copy with
no chunk and no line left, each line that a load touches being present, leaves the table, a store crediting its bytes
then.
Exec answers a next state for: .copyChunk, .copyLineDelivery, .copyComplete. -/
def Obligations.CopiesMoveBytesAndCreditTheirBarrier : Prop :=
  ∀ (s : State) (core k : Nat) (e : Copy) (t : Team), kget? (s.core core).copies k = some e → s.team? e.team = some t →
    s.bad = [] →
    (∀ pa key, e.xf.load = true → e.xf.chain = 0 → e.stopped = false → e.go = true → e.chunk = 0 → e.work = Chunk.fresh →
      t.preempting = false → (∀ c ∈ (s.core core).copies, e.order < c.2.order → c.2.team ≠ e.team) →
      let x := e.xf
      let n := recBox x.rcd 0
      let a := x.tbase + (x.c.getD 0 0).toNat
      recEt x.rcd = 4 → recRank x.rcd = 1 → (∀ d < 3, recBox x.rcd (d + 1) = 1) → 0 < n → n ≤ 256 → 0 ≤ x.c.getD 0 0 →
      x.c.getD 0 0 + n ≤ recDim x.rcd 0 → MappedOn s core t.ctx (a / 16 * 16) (n + 32) pa key → ∃ s' t',
        exec (.copyChunk (.copy core k)) s = .next s' ∧ s'.team? e.team = some t' ∧ t' = { t with spads := t'.spads } ∧
        kget? (s'.core core).copies k = some { e with chunk := 1, work := Chunk.fresh } ∧ SameMemory s s' ∧ s'.warps = s.warps ∧
        ∀ q, mget (kget t'.spads e.part ⟨[], [], []⟩).cells q =
          if x.img ≤ q ∧ q < x.img + n then s.homeByte (.own (pa + (a % 16) + (q - x.img)) key)
          else mget (kget t.spads e.part ⟨[], [], []⟩).cells q) ∧
    (∀ line, ksorted (s.core core).copies = true → line ∈ e.left → e.xf.lineWritten line (4096 * e.chunk) = true →
      (∀ w ∈ s.warps, ∀ y, w.2.wait = some y → ∀ b ph qd st lim, y.kind ≠ .mbwait b ph qd st lim) → ∃ s' t',
      exec (.copyLineDelivery core k line) s = .next s' ∧ s'.team? e.team = some t' ∧
      Credited t t' e.part e.bar (e.xf.lineBytes line) ∧
      kget? (s'.core core).copies k = some { e with left := e.left.filter fun l => l != line } ∧ SameMemory s s' ∧
      s'.warps = s.warps ∧
      let a := kget t.spads e.part ⟨[], [], []⟩
      let b := kget t'.spads e.part ⟨[], [], []⟩
      b = { a with absent := b.absent } ∧
      (∀ l, l ≠ line → (l ∈ b.absent ↔ l ∈ a.absent)) ∧
      (line ∈ b.absent ↔ line ∈ a.absent ∧ ∃ c ∈ (s.core core).copies, c.1 ≠ k ∧ c.2.team = e.team ∧
        (c.2.go = true ∨ c.2.order < e.order) ∧ line ∈ c.2.left)) ∧
    (e.xf.chunks ≤ e.chunk → e.left = [] →
      (e.xf.load = true → ∀ line, touches e.xf line → line ∉ (kget t.spads e.part ⟨[], [], []⟩).absent) →
      (∀ w ∈ s.warps, ∀ y, w.2.wait = some y → ∀ b ph qd st lim, y.kind ≠ .mbwait b ph qd st lim) → ∃ s' t',
      exec (.copyComplete core k) s = .next s' ∧ kget? (s'.core core).copies k = none ∧
      (∀ j, j ≠ k → kget? (s'.core core).copies j = kget? (s.core core).copies j) ∧ s'.team? e.team = some t' ∧
      t' = { t with mbars := t'.mbars } ∧ SameMemory s s' ∧ s'.warps = s.warps ∧
      (e.xf.load = true → t' = t) ∧ (e.xf.load = false → Credited t t' e.part e.bar e.xf.size))

/-- R16, R265, R267 to R270: XJOB takes a ticket for its card, with the layout record of a transform, once the engine is
ready and fewer than 64 jobs of the stream are left; a job starts on a free engine of its kind when every earlier job it
must follow is complete, waits while none is free, and completes with 0x08 when a job before it failed; once its writes
have been performed, its record holds ticket, status and detail (one at an address that is not canonical is not written,
notes/assumptions/54.md). XWAIT gives the status of a complete job and waits for one that is not.
Exec answers a next state for: .xjob, .xwait, .jobStart, .jobComplete. -/
def Obligations.JobsRunInTheOrderOfTheirRegions : Prop :=
  (∀ (h : WarpHdr) (sd sa : Reg) (stream : BitVec 4) (s : State) (w : Warp) (t : Team) (pa key : Nat), Issues s w h →
    InTeam s w t → sa.toNat + 2 ≤ 64 → w.taskst = false → s.bad = [] → MayEndHere w (.xjob h sd sa stream) →
    let i : Instr := .xjob h sd sa stream
    let a := srPair w sa
    let x := streamOf s t.ctx stream.toNat
    let j : Job :=
      { ticket := x.next, card := tab 256 fun k => s.homeByte (.own (pa + k) key), rcd := [], started := false, chunk := 0
        engine := none, work := Chunk.fresh, draw := 0, written := 0, result := none, complete := false, warp := s.cur
        bits := [], block := [] }
    (a % 256 ≠ 0 → Traps i s w .align a (BitVec.allOnes 32) 8) ∧
    let takes (j : Job) : Prop := ∃ s' w', exec i s = .next s' ∧ s'.warp? s.cur = some w' ∧ GoesPast w w' i ∧
      WithScalar (placedAs { w with prologue := false } w') w' sd x.next ∧
      streamOf s' t.ctx stream.toNat = { next := x.next + 1, jobs := x.jobs ++ [j] } ∧ SameMemory s s'
    (a % 256 = 0 → InSpace t .glob a 256 → NothingBefore w → MappedAtHome s w t a 256 pa key →
      (x.jobs.filter fun j => !j.complete).length < 64 →
      (j.kind = 2 ∨ j.kind = 3 → j.badField = none → s.regs.ready.getLsbD 7 = true → takes j) ∧
      ∀ pr kr, let l := j.field 0x88 8
        let j1 := { j with rcd := tab 128 fun k => s.homeByte (.own (pr + k) kr) }
        j.kind = 1 → InSpace t .glob l 128 → MappedAtHome s w t l 128 pr kr → j1.recordBad = false → j1.badField = none →
          s.regs.ready.getLsbD 8 = true → takes j1)) ∧
  (∀ (h : WarpHdr) (sd sa sb : Reg) (s : State) (w : Warp) (t : Team), Issues s w h → InTeam s w t →
    MayEndHere w (.xwait h sd sa sb) →
    let i : Instr := .xwait h sd sa sb
    let x := streamOf s t.ctx ((w.sr sa.toNat).toNat % 16)
    let age := (x.next - w.sr sb.toNat).toNat
    (age = 0 ∨ 2 ^ 31 < age → ({ word := i, hdr := h, reg := putS sd fun _ => 0xFF } : WarpRow).Runs s w) ∧
    (256 < age → age ≤ 2 ^ 31 → ({ word := i, hdr := h, reg := putS sd fun _ => 0xFE } : WarpRow).Runs s w) ∧
    ∀ n j, 1 ≤ age → age ≤ 256 → JobAt s t.ctx ((w.sr sa.toNat).toNat % 16) n j → j.ticket = w.sr sb.toNat →
      (j.complete = true → ∃ s1 w1, Acquired s s1 w.core .device ∧
        WithScalar w w1 sd (BitVec.ofNat 32 (j.result.getD (0, 0)).1) ∧ Completes i s s1 w w1) ∧
      (j.complete = false → WaitsAt i s s w w .xwait)) ∧
  ∀ (s : State) (ctx k n : Nat) (j : Job), JobAt s ctx k n j →
    (∀ c, kget? s.contexts ctx = some c → c.active = true → c.retiring = false → j.started = false →
      (∀ m i, m < n → (streamOf s ctx k).jobs[m]? = some i → MustFollow j i → i.complete = true) →
      ((∀ m i, m < n → (streamOf s ctx k).jobs[m]? = some i → MustFollow j i → (i.result.getD (0, 0)).1 = 0) →
        ((∃ e, EngineFree s j.kind e) → ∃ e f, EngineFree s j.kind e ∧ exec (.jobStart ctx k j.ticket.toNat) s =
          .next (withJob { s with freeCtr := f } ctx k n
            { j with started := true, engine := some e, draw := s.freeCtr })) ∧
        ((∀ e, ¬ EngineFree s j.kind e) → exec (.jobStart ctx k j.ticket.toNat) s = .next s)) ∧
      ((∃ m i, m < n ∧ (streamOf s ctx k).jobs[m]? = some i ∧ MustFollow j i ∧ (i.result.getD (0, 0)).1 ≠ 0) →
        exec (.jobStart ctx k j.ticket.toNat) s =
          .next (withJob s ctx k n { j with started := true, result := some (0x08, 0) }))) ∧
    ∀ status detail, j.result = some (status, detail) → j.complete = false →
      (j.work = Chunk.fresh → (∃ r ∈ s.fab, ∃ u, r.2.who = .job ctx k j.ticket.toNat u ∧ r.2.op ≠ .read ∧ r.2.answer = none) →
        exec (.jobComplete ctx k j.ticket.toNat) s = .next s) ∧
      (s.fab = [] → j.compl = 0 ∨ ¬ (Canonical j.compl ∧ Canonical (j.compl + 15)) →
        exec (.jobComplete ctx k j.ticket.toNat) s = .next (withJob s ctx k n { j with complete := true })) ∧
      ∀ s1 pa key tier, j.compl ≠ 0 → j.compl % 16 = 0 → Canonical j.compl → s.fab = [] → j.work = Chunk.fresh →
        translate s (.job ctx k j.ticket.toNat (2 ^ 60)) ctx none
          (match j.engine with | none => 0 | some e => 2 * e / (match j.kind with | 1 => 16 | 2 => 8 | _ => 4))
          j.compl .engineWrite = .ok s1 (.own pa key) tier →
        pa % 16 = 0 → pa + 16 ≤ 2 ^ 63 → key < 128 → ∃ s', exec (.jobComplete ctx k j.ticket.toNat) s = .next s' ∧
          SameElsewhere s s' pa 16 key ∧ (streamOf s' ctx k).jobs[n]? = some { j with complete := true } ∧
          ∀ f ∈ [(0, 4, j.ticket.toNat), (4, 4, status), (8, 8, detail)], ∀ q < f.2.1,
            s'.homeByte (.own (pa + f.1 + q) key) = BitVec.ofNat 8 (f.2.2 / 256 ^ q)

/-- Pergola words act on their queue; parked ones go in order: `PergolaWordsActOnTheirQueue` and
`ParkedPergolaWordsGoInOrder`.
Exec answers a next state for: .qinit, .qpush, .qpop, .qtry, .qclose, .qlen, .pergolaParkedWord. -/
def Obligations.PergolaWordsActInTheirOrder : Prop :=
  Claims.PergolaWordsActOnTheirQueue ∧ Claims.ParkedPergolaWordsGoInOrder

/-- Matrix words enter their queue and step through their tile to exact results: `MatrixWordsEnterTheirQueue` and
`MatrixOperationsStepThroughTheirTile`.
Exec answers a next state for: .mma, .mmas, .mmap, .accz, .acccpy, .mwait, .matrixStep, .matrixOpComplete. -/
def Obligations.MatrixWordsQueueAndStep : Prop :=
  Claims.MatrixWordsEnterTheirQueue ∧ Claims.MatrixOperationsStepThroughTheirTile

/-- R337, R339, R356, R383: an activation reads the context's two records and makes the context active, or reports a
malformed record with 1 and a PASID in use with 2; a context created anew counts its jobs from 0
(notes/assumptions/134.md). A retire marks its context, waits while something of it is left, and then withdraws its
translations. A key slot takes the register's material, or is emptied, and no copy of a line under it stays behind; KEYCMD
reads the command back.
Exec answers a next state for: .ctxcmdActivate, .ctxcmdRetire, .keycmdLoad, .keycmdErase. -/
def Obligations.ContextsAndKeySlotsChangeAsTheirCommandsSay : Prop :=
  ∀ (s : State) (n : Nat), ReadyFor s 4 → s.bad = [] →
    (s.regs.ctxBusy = none → n < 64 →
      let f (off size : Nat) : Nat := homeNat s (s.regs.ctxtab + 128 * n + off) size
      let g (off size : Nat) : Nat := homeNat s (s.regs.rectab + 64 * n + off) size
      let taken : Prop := ∃ e ∈ s.contexts, e.1 ≠ n ∧ e.2.active = true ∧ e.2.pasid = f 0x08 4
      let fails (k : Nat) : Prop := ∃ s', exec (.ctxcmdActivate n) s = .next s' ∧
        s' = { s with contexts := s'.contexts, regs := { s.regs with ctxResult := k } } ∧
        (∀ c, kget? s'.contexts n = some c → c.active = false) ∧ ∀ m, m ≠ n → kget? s'.contexts m = kget? s.contexts m
      (RecordsGood f g → ¬ taken → ∃ st, exec (.ctxcmdActivate n) s = .next
        { s with
          contexts := kput s.contexts n (describes (kget? s.contexts n) f g), regs := { s.regs with ctxResult := 0 }
          streams := st } ∧ (CreatedAnew s n → st = s.streams.filter fun x => x.1 / 16 != n) ∧
        (¬ CreatedAnew s n → st = s.streams)) ∧
      (¬ RecordsGood f g → fails 1) ∧ (RecordsGood f g → taken → fails 2)) ∧
    (∀ c, s.regs.ctxBusy = none → n < 64 → kget? s.contexts n = some c →
      ((∃ t ∈ s.teams, t.2.ctx = n) → exec (.ctxcmdRetire n) s = .next
        { s with contexts := kput s.contexts n { c with retiring := true }, regs := { s.regs with ctxBusy := some n } }) ∧
      (NothingLeft s n → ∃ s', exec (.ctxcmdRetire n) s = .next s' ∧
        kget? s'.contexts n = some { c with active := false, retiring := false } ∧
        s' = { s with
          contexts := s'.contexts, regs := { s.regs with ctxResult := 0 }, cores := s'.cores, tlb0 := s'.tlb0
          tlb1 := s'.tlb1, ats := s.ats.filter fun r => r.2.ctx != n } ∧ SameCores s s' ∧
        (∀ m, m ≠ n → kget? s'.contexts m = kget? s.contexts m) ∧ TlbWithout s s' fun e => e.ctx == n)) ∧
    let k := s.regs.keyIdx
    ∀ i, i = (Instr.keycmdLoad, KeySlot.mk true s.regs.keyData, 1) ∨ i = (.keycmdErase, ⟨false, []⟩, 2) → k ≠ 0 → ∃ s',
      exec i.1 s = .next s' ∧ s'.keys = kput s.keys k i.2.1 ∧
      s'.regs = { s.regs with keyOp := i.2.2, keyData := List.replicate 64 0 } ∧
      s'.warps = s.warps ∧ s'.teams = s.teams ∧ s'.contexts = s.contexts ∧
      (∀ e ∈ s'.l2, ¬ ofSlot k e.1) ∧ (∀ e ∈ s'.rdc0 ++ s'.rdc1, ¬ ofSlot k e.1) ∧
      (∀ c, ∀ e ∈ (s'.core c).l1, ¬ ofSlot k e.1) ∧
      ((∀ e ∈ s.l2 , ¬ ofSlot k e.1) → (∀ e ∈ s.rdc0 ++ s.rdc1, ¬ ofSlot k e.1) → (∀ e ∈ s.keyTag, e.2 ≠ k) →
        s' = { s with keys := s'.keys, regs := s'.regs, cores := s'.cores })

/-- R349, R351 to R353, R362: a page response ends its request: after Success the page is tried again, and refused for its
waiters at the third without effect; Invalid refuses it for them, and Failure the whole context; a translation from the
host enters its die's TLB with the rights that both sides give; invalidations queue up to sixteen, and complete in order,
their pages withdrawn, once no access is out. That the host's invalidations complete before those of INVGO is the model's
reading (notes/assumptions/74.md).
Exec answers a next state for: .priResponse, .atsCompletion, .atsInvalidateRequest, .invgo, .invalidationComplete. -/
def Obligations.TranslationServicesAnswerTheirRequests : Prop :=
  (∀ (s : State) (n : Nat) (r : PriReq) (c : Context), kget? s.pri n = some r → kget? s.contexts r.ctx = some c → s.bad = [] →
    (∀ w ∈ r.waiters, ∀ a b, w ≠ .hwm a b) →
    (r.past = 0 → ∃ s', exec (.priResponse n .success) s = .next s' ∧
      SameCores s s' ∧ TlbWithout s s' (fun e => e.tier == 3 && e.covers r.ctx r.page) ∧
      let base (x : State) : Prop :=
        s' = { x with pri := kdel s.pri n, cores := s'.cores, tlb0 := s'.tlb0, tlb1 := s'.tlb1, priTries := s'.priTries }
      let tries := triesFor s (siteOf r) r.page
      let counts (k : Nat) : Prop := ∀ m p, triesFor s' m p = if m = siteOf r ∧ p = r.page then k else triesFor s m p
      let refused := r.waiters.map fun w => (w, r.page, (0x105 : W32))
      (r.perm = true → base { s with priGranted := s.priGranted ++ r.waiters.map fun w => (w, r.page) } ∧
        s'.priTries = s.priTries) ∧
      (r.perm = false → walk s r.ctx c r.page ≠ .invalid → base s ∧ counts 0) ∧
      (r.perm = false → walk s r.ctx c r.page = .invalid → tries < 2 → base s ∧ counts (tries + 1)) ∧
      (r.perm = false → walk s r.ctx c r.page = .invalid → 2 ≤ tries →
        base { s with priDenied := s.priDenied ++ refused } ∧ counts 0)) ∧
    (∃ s', exec (.priResponse n .invalid) s = .next s' ∧
      s' = { s with pri := kdel s.pri n, priDenied := s.priDenied ++ r.waiters.map fun w => (w, r.page, 0x01) }) ∧
    (s.bad = [] → (∀ e ∈ s.pri, ∀ w ∈ e.2.waiters, ∀ a b, w ≠ .hwm a b) → ∃ s', exec (.priResponse n .failure) s = .next s' ∧
      s' = { s with
        pri := s'.pri, priDenied := s'.priDenied, l2 := s'.l2
        contexts := kput s.contexts r.ctx { c with priOff := true } } ∧
      (∀ e, e ∈ s'.pri ↔ e ∈ s.pri ∧ ∀ q, (e.1, q) ∈ s.pri → q.ctx ≠ r.ctx) ∧
      (∀ d, d ∈ s'.priDenied ↔ d ∈ s.priDenied ∨
        ∃ e ∈ s.pri, e.2.ctx = r.ctx ∧ ∃ w ∈ e.2.waiters, d = (w, e.2.page, 0x0F)) ∧
      let flags := s.regs.ctxtab + 128 * r.ctx + 0x0C
      SameElsewhere s s' flags 1 0 ∧
        s'.homeByte (.own flags 0) = s.homeByte (.own flags 0) ||| 2)) ∧
  (∀ (s : State) (n hpa log : Nat) (rd wr : Bool) (r : AtsReq), kget? s.ats n = some r → r.die ≤ 1 →
    let b := max 12 (min r.leaf.size (max 12 log))
    let va := r.va % 2 ^ 57 - r.va % 2 ^ b
    let e : TlbEntry :=
      { r.leaf with
        va := va, size := b, frame := hpa - hpa % 2 ^ max 12 log + va % 2 ^ max 12 log
        rd := r.leaf.rd && rd, wr := r.leaf.wr && wr, ex := false }
    b ≤ 57 → ∃ s', exec (.atsCompletion n hpa log rd wr) s = .next s' ∧
      s' = { s with ats := kdel s.ats n, tlb0 := s'.tlb0, tlb1 := s'.tlb1 } ∧
      s'.tlb0 = (if r.die = 0 then (e :: s.tlb0).take 16384 else s.tlb0) ∧
      s'.tlb1 = if r.die = 1 then (e :: s.tlb1).take 16384 else s.tlb1) ∧
  (∀ (s : State) (pasid va len : Nat),
    ((∀ e ∈ s.contexts, e.2.active = true → e.2.pasid ≠ pasid) →
      exec (.atsInvalidateRequest pasid va len) s = .next { s with atsDone := s.atsDone + 1 }) ∧
    ∀ n c, kget? s.contexts n = some c → c.active = true → c.pasid = pasid →
      (∀ e ∈ s.contexts, e.2.active = true → e.2.pasid = pasid → e.1 = n) →
      exec (.atsInvalidateRequest pasid va len) s = .next { s with atsInv := s.atsInv ++ [⟨n, va, len, 0⟩] }) ∧
  ∀ (s : State),
    (ReadyFor s 4 →
      (s.invQ.length < 16 → exec .invgo s = .next
        { s with invQ := s.invQ ++ [⟨s.regs.invCtx, s.regs.invVa, s.regs.invLen, s.regs.invSig⟩] }) ∧
      (16 ≤ s.invQ.length → exec .invgo s = .next { s with regs := { s.regs with invErr := true } })) ∧
    ∀ (c : InvCmd) (cs : List InvCmd), NothingOut s →
      (s.atsInv = c :: cs → ∃ s', exec .invalidationComplete s = .next s' ∧ SameCores s s' ∧
        TlbWithout s s' (fun e => e.tier == 3 && named c e) ∧
        s' = { s with
          atsInv := cs, atsDone := s.atsDone + 1, cores := s'.cores, tlb0 := s'.tlb0, tlb1 := s'.tlb1
          ats := s.ats.filter fun r => !named c { r.2.leaf with ctx := r.2.ctx } }) ∧
      (s.atsInv = [] → s.invQ = c :: cs → c.sig + 8 ≤ 2 ^ 63 → s.bad = [] → ∃ s', exec .invalidationComplete s = .next s' ∧
        SameCores s s' ∧ TlbWithout s s' (named c) ∧ SameElsewhere s s' c.sig 8 0 ∧
        homeNat s' c.sig 8 = (homeNat s c.sig 8 + 1) % 2 ^ 64 ∧
        s' = { s with
          invQ := cs, l2 := s'.l2, cores := s'.cores, tlb0 := s'.tlb0, tlb1 := s'.tlb1
          ats := s.ats.filter fun r => !named c { r.2.leaf with ctx := r.2.ctx } })

/-- R31, R293 to R296, R422: a doorbell to a valid queue of an active context takes its header's fields. A queue's next
packet begins once the packet before it and its waits allow, and its index is advanced: a barrier packet is complete, an
unknown type has status 0x10, a misaligned one 0x11, a kernel's descriptor is then read, and it waits for its teams or has
its code. A wait signal that has come is kept, and one that cannot be read begins its packet with 0x12. A doorbell whose
entry cannot be corrected is ignored, and such a packet does not begin (the model's choice, notes/assumptions/137.md).
Readings of the model: a met wait stays met (notes/assumptions/75.md), 0x11 comes before 0x10 (76.md), and headers are
read under key slot 0 (66.md).
Exec answers a next state for: .doorbell, .packetBegin, .waitSignalPoll. -/
def Obligations.QueuesBeginTheirPackets : Prop :=
  (∀ (s : State) (ctx queue : Nat), ReadyFor s 5 → ctx < 64 → queue < 64 →
    let place := kget s.regs.lqtab ctx 0 + 8 * queue
    let entry := homeNat s place 8
    let h := entry - entry % 4096
    let logn := homeNat s (h + 0x10) 1
    let prio := homeNat s (h + 0x11) 1
    let known : Prop := ∃ c, kget? s.contexts ctx = some c ∧ c.active = true
    let good : Prop := known ∧ entry % 2 = 1 ∧ 4 ≤ logn ∧ logn ≤ 16 ∧ prio ≤ 3
    (s.homeBad (.own place 0) 8 ≠ none → ∃ s', exec (.doorbell ctx queue) s = .next s' ∧ s'.queues = s.queues) ∧
    (s.bad = [] → ¬ good → exec (.doorbell ctx queue) s = .next s) ∧
    (s.bad = [] → good → ∃ q, exec (.doorbell ctx queue) s = .next { s with queues := kput s.queues (ctx * 64 + queue) q } ∧
      q.header = h ∧ q.logn = logn ∧ q.prio = prio ∧ q.widx = homeNat s h 8 ∧
      ((∀ p, kget? s.queues (ctx * 64 + queue) = some p → p.header ≠ h) →
        q.ridx = homeNat s (h + 8) 8 ∧ q.met0 = false ∧ q.met1 = false) ∧
      ∀ p, kget? s.queues (ctx * 64 + queue) = some p → p.header = h →
        q.ridx = p.ridx ∧ q.met0 = p.met0 ∧ q.met1 = p.met1)) ∧
  (∀ (s : State) (ctx queue : Nat) (q : LaunchQ), HasPacket s ctx queue q →
    s.homeBad (.own (q.header + 64 + 64 * (q.ridx % 2 ^ q.logn)) 0) 64 ≠ none →
    ∀ i, i = Instr.packetBegin ctx queue ∨ i = .waitSignalPoll ctx queue →
      ∃ s', exec i s = .next s' ∧ s'.queues = s.queues ∧ s'.launches = s.launches) ∧
  ∀ (s : State) (ctx queue : Nat) (q : LaunchQ), HasPacket s ctx queue q → q.header + 2 ^ 23 ≤ 2 ^ 63 → s.bad = [] →
    let p := packetField s q
    let runs (d : Desc) (layouts : List (List Byte)) (status : Option Nat) : Prop :=
      ∃ s', exec (.packetBegin ctx queue) s = .next s' ∧ Begun s s' ctx queue q d layouts status
    let unused : Prop := p 0x10 8 = 0 ∧ p 0x20 8 = 0
    (¬ PacketTurn s ctx queue q → exec (.packetBegin ctx queue) s = .next s) ∧
    (PacketTurn s ctx queue q → ¬ PacketAligned s q → runs (descOf []) [] (some 0x11)) ∧
    (PacketTurn s ctx queue q → PacketAligned s q → unused →
      (p 0 1 = 0 ∨ p 0 1 = 2 → runs (descOf []) [] (some 0)) ∧
      (3 ≤ p 0 1 → runs (descOf []) [] (some 0x10)) ∧
      ∀ pa key c, p 0 1 = 1 → kget? s.contexts ctx = some c → DeviceMaps s ctx (p 0x08 8) 256 pa key →
        (pa + 256 ≤ q.header + 8 ∨ q.header + 16 ≤ pa) →
        let d := descOf (tab 256 fun k => s.homeByte (.own (pa + k) key))
        (∀ k, d.refusal = some k → runs (descOf []) [] (some k)) ∧
        (d.refusal = none → d.asCount = 0 → d.lrCount = 0 → c.nPriv = 0 ∨ d.privLane ≤ c.hwm → runs d [] none)) ∧
    (PacketTurn s ctx queue q → PacketAligned s q → p 0x10 8 ≠ 0 → q.met0 = false → ¬ Canonical (p 0x10 8) →
      ∀ i, i = Instr.packetBegin ctx queue ∨ i = .waitSignalPoll ctx queue →
        ∃ s', exec i s = .next s' ∧ Begun s s' ctx queue q (descOf []) [] (some 0x12)) ∧
    ∀ pa key, PacketAligned s q → p 0x10 8 ≠ 0 → p 0x20 8 = 0 → q.met0 = false →
      DeviceMaps s ctx (p 0x10 8 - p 0x10 8 % 16) 16 pa key →
      let a := pa + p 0x10 8 % 16
      let met := decide (p 0x18 8 ≤ unitOf (fun i => s.homeByte (.own (a + i) key)) 8)
      let s' : State := { s with queues := kput s.queues (ctx * 64 + queue) { q with met0 := met, met1 := true } }
      (¬ PacketTurn s ctx queue q → exec (.waitSignalPoll ctx queue) s = .next s) ∧
        (PacketTurn s ctx queue q → exec (.waitSignalPoll ctx queue) s = .next s' ∧
          (met = false → exec (.packetBegin ctx queue) s = .next s'))

/-- Teams enter and leave their cores; a launch completes with its record and signal: `TeamsEnterAndLeaveTheirCores` and
`LaunchesCompleteWithTheirRecord`.
Exec answers a next state for: .teamAdmit, .gangReserve, .teamRetire, .launchComplete. -/
def Obligations.TeamsAndLaunchesBeginAndEnd : Prop :=
  Claims.TeamsEnterAndLeaveTheirCores ∧ Claims.LaunchesCompleteWithTheirRecord

/-- R372 to R374, R376, R380: LEASECMD: OP 0 offers a borrower's record or grants a lender's, whose copies are given up
first; OP 1 reclaims, OP 2 returns, OP 3 retires; a wrong record or state ends with its result. The borrower accepts a
grant that it has offered for, and a peer that is silent for 100 µs ends the command. That a malformed record gives RESULT
3 whatever its state is the model's reading (notes/assumptions/83.md).
Exec answers a next state for: .leasecmdOfferGrant, .leasecmdReclaim, .leasecmdReturn, .leasecmdRetire, .leasePeerTimeout,
.grantMessage. -/
def Obligations.LeaseCommandsAndGrantsChangeTheirRecord : Prop :=
  ∀ (s : State) (k : Nat), FabricIdle s → s.pri = [] → s.priDenied = [] → s.regs.leasetab + 64 * 64 ≤ 2 ^ 63 → s.bad = [] →
    let f := leaseField s k
    let r := leaseRecord f
    let offer := exec (.leasecmdOfferGrant k) s
    let clash : Prop := r.lender = true ∧ ∃ e ∈ s.leases, e.1 ≠ k ∧ e.2.lender = true ∧
      e.2.lbase < r.lbase + r.size ∧ r.lbase < e.2.lbase + e.2.size
    (LeaseFree s k →
      (kget? s.leases k ≠ none ∨ f 1 1 ≠ 0 ∨ f 0 1 = 0 → offer = .next (withResult s 3)) ∧
      (kget? s.leases k = none → f 1 1 = 0 → f 0 1 ≠ 0 →
        (¬ LeaseGood f ∨ clash → offer = .next (withResult s 1)) ∧
        (LeaseGood f → ¬ clash → r.lender = false → ∃ s1, LeaseSet s s1 k { r with st := .offered } ∧
          offer = .next (withResult s1 0)) ∧
        (LeaseGood f → ¬ clash → r.lender = true → s.rdc0 = [] → s.rdc1 = [] → ∃ s1 s2,
          s1 = { s with cores := s1.cores, leases := kput s.leases k r } ∧ L1Without s s1 (lentLine r) ∧ Messages s1 s2 k r 0 ∧
          offer = .next (busyWith s2 k 0))) ∧
      (kget? s.leases k = none → ∀ i ∈ [Instr.leasecmdReclaim k, .leasecmdReturn k, .leasecmdRetire k],
        exec i s = .next (withResult s 3)) ∧
      (∀ r, kget? s.leases k = some r →
        (r.lender = true → r.st = .active → ∃ s1 s2, LeaseSet s s1 k { r with st := .reclaiming, trecl := s.time } ∧
          Messages s1 s2 k r 1 ∧ exec (.leasecmdReclaim k) s = .next (busyWith s2 k 1)) ∧
        (r.lender = false ∨ r.st ≠ .active → exec (.leasecmdReclaim k) s = .next (withResult s 3)) ∧
        (r.lender = false → r.st = .active → ∃ s1,
          LeaseSet s s1 k { r with st := .reclaiming, returning := true, stopped := true } ∧
          exec (.leasecmdReturn k) s = .next (busyWith s1 k 2)) ∧
        (r.lender = true ∨ r.st ≠ .active → exec (.leasecmdReturn k) s = .next (withResult s 3)) ∧
        (r.st = .demoted ∨ r.st = .ended ∨ r.st = .failed → ∃ s1, LeaseSet s s1 k { r with st := .idle } ∧
          exec (.leasecmdRetire k) s = .next (withResult s1 0)) ∧
        (¬ (r.st = .demoted ∨ r.st = .ended ∨ r.st = .failed) → exec (.leasecmdRetire k) s = .next (withResult s 3)))) ∧
    (∀ r, kget? s.leases k = some r → s.rdc0 = [] → s.rdc1 = [] → r.lender = false → r.returning = true → r.quiesced = false →
      r.st = .reclaiming → ∀ since, s.regs.leaseBusy = some (k, 2, since) → ∃ s1 s2 s3, L1Without s s1 (lentLine r) ∧
      s1 = { s with cores := s1.cores } ∧ LeaseSet s1 s2 k { r with quiesced := true } ∧ Messages s2 s3 k r 3 ∧
      exec (.leasecmdReturn k) s = .next (busyWith s3 k 2)) ∧
    (∀ r op since, kget? s.leases k = some r → s.regs.leaseBusy = some (k, op, since) →
      since + 100 * 1400 ≤ s.time.toNat →
      (op = 0 → exec (.leasePeerTimeout k) s = .next (withResult { s with leases := kdel s.leases k } 2)) ∧
      (op = 1 → exec (.leasePeerTimeout k) s =
        .next (withResult { s with leases := kput s.leases k { r with unsent := none } } 2)) ∧
      (op = 2 → r.quiesced = true → ∃ s1, LeaseSet s s1 k { r with st := .failed, unsent := none } ∧
        exec (.leasePeerTimeout k) s = .next (withResult s1 2))) ∧
    ∀ (peer id lbase size : Nat),
      let matches' (e : Nat × Lease) : Prop := e.2.lender = false ∧ e.2.st = .offered ∧ e.2.peer = peer ∧ e.2.id.toNat = id ∧
        e.2.lbase = lbase ∧ e.2.size = size
      (∀ r, kget? s.leases k = some r → matches' (k, r) → (∀ e ∈ s.leases, matches' e → e = (k, r)) → ∃ s1,
        LeaseSet s s1 k { r with st := .active, deadline := deadlineOf r } ∧
        exec (.grantMessage peer id lbase size) s = .next (answering s1 peer true [])) ∧
      ((∀ e ∈ s.leases, ¬ matches' e) → exec (.grantMessage peer id lbase size) s = .next (answering s peer false []))

/-- R376, R378, R379: the eviction handshake: the borrower takes the reclaim's time, stops, gives up its copies and says
so; the lender streams the chunks into the borrower's fallback, one that the borrower awaits next, else the lowest, and at
the lender a chunk that is not due becomes awaited (the model's form of the borrower's report, notes/assumptions/40.md);
with every chunk moved, or without a fallback, the records end, and a TIER_DEMOTE record is posted. A borrower without
chunks for the time-out has failed, and a lender's range returns at its deadline, with undefined contents where the
borrower has not fallen quiet.
Exec answers a next state for: .reclaimArrival, .quiesceMessage, .chunkMoved, .leaseDemote, .leaseDeadline, .leaseFailed. -/
def Obligations.ReclaimedLeasesMoveToTheirFallback : Prop :=
  ∀ (s : State) (k : Nat) (r : Lease), FabricIdle s → s.pri = [] → s.priDenied = [] → s.regs.leasetab + 64 * 64 ≤ 2 ^ 63 →
    s.bad = [] → kget? s.leases k = some r → r.st ≠ .idle →
    let arrives := exec (.reclaimArrival k) s
    (r.lender = true → r.st = .active → ∃ s1 s2, LeaseSet s s1 k { r with st := .reclaiming, trecl := s.time } ∧
      Messages s1 s2 k r 1 ∧ firmwareReclaim s k = s2) ∧
    (r.lender = false → r.st = .active → ∃ s1, LeaseSet s s1 k { r with st := .reclaiming, trecl := s.time } ∧
      arrives = .next s1) ∧
    (r.lender = false → r.st = .reclaiming → r.returning = false → r.quiesced = false →
      (r.stopped = false → ∃ s1, LeaseSet s s1 k { r with stopped := true } ∧ arrives = .next s1) ∧
      (r.stopped = true → s.rdc0 = [] → s.rdc1 = [] → ∃ s1 s2 s3, L1Without s s1 (lentLine r) ∧
        s1 = { s with cores := s1.cores } ∧ LeaseSet s1 s2 k { r with quiesced := true, lastMove := s.time.toNat } ∧
        Messages s2 s3 k r 2 ∧ arrives = .next s3)) ∧
    (r.lender = true → ∀ fb,
      let told (ret : Bool) (r' : Lease) : Prop := ∃ s1, LeaseSet s s1 k r' ∧
        exec (.quiesceMessage k fb ret) s = .next (answering s1 r.peer true [])
      (r.st = .active → told true { r with st := .ended }) ∧
      (r.st = .reclaiming → r.quiesced = false →
        told false (if fb then { r with quiesced := true, lastMove := s.time.toNat } else { r with st := .ended }))) ∧
    (∀ chunk, r.st = .reclaiming → r.quiesced = true → r.returning = false → chunk < r.size / 2 ^ 21 → chunk ∉ r.moved →
      let moved : Lease := { r with
        moved := r.moved ++ [chunk], lastMove := s.time.toNat, awaited := r.awaited.filter (· != chunk) }
      let due : Prop := chunk ∈ r.awaited ∨ (r.awaited = [] ∧ ∀ j < chunk, j ∈ r.moved)
      (r.lender = false → ¬ due → exec (.chunkMoved k chunk) s = .next s) ∧
      (r.lender = true → due → ∃ s1, LeaseSet s s1 k moved ∧ exec (.chunkMoved k chunk) s = .next s1) ∧
      (r.lender = true → ¬ due → ∃ s1, LeaseSet s s1 k { r with awaited := r.awaited ++ [chunk] } ∧
        exec (.chunkMoved k chunk) s = .next s1) ∧
      (r.lender = false → r.fb = true → due → (kget s.keys r.key ⟨false, []⟩).loaded = true → 1 ≤ r.key → r.key < 128 →
        r.fbase % 2 ^ 21 = 0 → r.fbase + r.size ≤ Config.hbmBytes → ∃ s1 s2, s1 = { s with l2 := s1.l2 } ∧
        SameElsewhere s s1 (r.fbase + chunk * 2 ^ 21) (2 ^ 21) r.key ∧
        (∀ i < 2 ^ 21, s1.homeByte (.own (r.fbase + chunk * 2 ^ 21 + i) r.key) =
          s.homeByte (.peer r.peer (r.lbase + chunk * 2 ^ 21 + i))) ∧
        LeaseSet s1 s2 k moved ∧ exec (.chunkMoved k chunk) s = .next s2) ∧
      (r.lender = false → r.fb = true → due → (kget s.keys r.key ⟨false, []⟩).loaded = false → ∃ s1 s2,
        LeaseSet s s1 k { r with st := .failed } ∧ Demotes s1 s2 k r 2 ∧ exec (.chunkMoved k chunk) s = .next s2)) ∧
    (r.st = .reclaiming → r.quiesced = true → r.returning = false → r.size / 2 ^ 21 ≤ r.moved.length →
      (r.lender = true → ∃ s1, LeaseSet s s1 k { r with st := .ended } ∧ exec (.leaseDemote k) s = .next s1) ∧
      (r.lender = false → ∃ s1 s2, LeaseSet s s1 k { r with st := .demoted } ∧ Demotes s1 s2 k r 0 ∧
        exec (.leaseDemote k) s = .next s2)) ∧
    (r.lender = true → r.st = .reclaiming → r.lbase % 128 = 0 → r.size % 128 = 0 →
      r.trecl.toNat + r.deadline * 1400 ≤ s.time.toNat → ∃ s1 s2, LeaseSet s s1 k { r with st := .ended } ∧
      s2 = { s1 with l2 := s2.l2, keyTag := s2.keyTag, undef := s2.undef, freeCtr := s2.freeCtr } ∧
      (∀ q key, key < 128 → (q < r.lbase ∨ r.lbase + r.size ≤ q) →
        s2.homeByte (.own q key) = s1.homeByte (.own q key)) ∧ (r.quiesced = true → s2 = s1) ∧
      exec (.leaseDeadline k) s = .next s2) ∧
    (r.lender = false → r.st = .reclaiming → r.quiesced = true → r.returning = false →
      r.moved.length < r.size / 2 ^ 21 → r.lastMove + s.fabricTimeout * 1400 ≤ s.time.toNat → ∃ s1 s2,
      LeaseSet s s1 k { r with st := .failed, unsent := none } ∧ Demotes s1 s2 k r 2 ∧ exec (.leaseFailed k) s = .next s2)

/-- R366 to R369, R371, R403, R410, R411: a lender performs a request that lies in a record of its sender, and refuses any
other. An answer performs its request at its home, or fails it with its code; so does a time-out, which a write may have
come before. A dead port sends its entries to another, which they take once nothing of their fold is out. A DISCARD drops
the home's dirty copy (the model's choice, notes/assumptions/86.md), and SHARED counts a port still to be taken (a
reading, 87.md).
Exec answers a next state for: .fabricRequest, .fabricReply, .fabricTimeout, .planeFailure, .planeDrainDone, .portUp. -/
def Obligations.FabricRequestsAndPlanesAreServed : Prop :=
  (∀ (s : State) (dev : Nat), s.bad = [] →
    let req (q : RemoteReq) := exec (.fabricRequest dev q) s
    (∀ pa n, (∀ r, ¬ Covered s dev pa n r) → req (.read pa n) = .next (answering s dev false [])) ∧
    (∀ pa n r, Covered s dev pa n r → (∀ r', Covered s dev pa n r' → r'.key = r.key) → r.key < 128 → pa + 128 ≤ 2 ^ 63 →
      (n = 0 ∨ 128 < pa % 128 + n → req (.read pa n) = .next (answering s dev false [])) ∧ (0 < n → pa % 128 + n ≤ 128 →
      req (.read pa n) = .next (answering s dev true (tab n fun i => s.homeByte (.own (pa + i) r.key))) ∧
      (∀ bytes : List (Option Byte), bytes.length = n → ∃ s1, s1 = { s with l2 := s1.l2 } ∧ SameElsewhere s s1 pa n r.key ∧
        (∀ i < n, s1.homeByte (.own (pa + i) r.key) =
          (bytes.getD i none).getD (s.homeByte (.own (pa + i) r.key))) ∧
        req (.write pa bytes) = .next (answering s1 dev true [])) ∧
      (∀ size op x x2, n = size.bytes → pa % n = 0 → atomicSize op size →
        let old := unitOf (fun i => s.homeByte (.own (pa + i) r.key)) n
        let low (y : W128) : Nat := y.toNat % 2 ^ (8 * n)
        ∃ s1, s1 = { s with l2 := s1.l2 } ∧ SameElsewhere s s1 pa n r.key ∧
          unitOf (fun i => s1.homeByte (.own (pa + i) r.key)) n = atomicNew op (8 * n) old (low x) (low x2) ∧
          req (.atomic pa size op x x2) =
            .next (answering s1 dev true (tab n fun i => BitVec.ofNat 8 (old / 256 ^ i)))) ∧
      (pa % 128 = 0 → n = 128 →
        req (.discard pa) = .next (answering { s with l2 := kdel s.l2 (pa + r.key) } dev true []))))) ∧
  (∀ (s : State) (n : Nat) (r : FabReq), kget? s.fab n = some r → r.answer = none → (∀ k, r.op ≠ .message k) →
    (∀ w a b, r.who ≠ .lane w a b) → (∀ w a b, r.who ≠ .store w a b) → (∀ w, r.who ≠ .fetch w) → (∀ w a, r.who ≠ .word w a) →
    (∀ d t, r.who ≠ .rdc d t) → s.bad = [] →
    (FirstOfLine s r → ∃ s1 o, Performed s s1 r o ∧ exec (.fabricReply n .done) s = .next (Answers s1 n r (.inr o))) ∧
    (¬ FirstOfLine s r → exec (.fabricReply n .done) s = .next s) ∧
    exec (.fabricReply n .refused) s = .next (Answers s n r (failed r 2)) ∧
    exec (.fabricReply n .portFailed) s = .next (Answers s n r (failed r 3)) ∧
    (r.since + r.tmo * 1400 ≤ s.time.toNat →
      (r.op = .read ∨ ¬ FirstOfLine s r → exec (.fabricTimeout n) s = .next (Answers s n r (failed r 1))) ∧
      (r.op ≠ .read → FirstOfLine s r → ∃ s1, exec (.fabricTimeout n) s = .next (Answers s1 n r (failed r 1)) ∧
        let s0 : State := { s with freeCtr := s.freeCtr + 1 }
        (s1 = s0 ∨ ∃ o, Performed s0 s1 r o)))) ∧
  ∀ (s : State) (port k : Nat), port < 18 → k < 16 → s.planeNext.length = 16 → s.planeDrain.length = 16 →
    s.planePort.length = 16 → (∀ c ∈ s.contexts, c.2.active = false) → (∀ l ∈ s.leases, l.2.unsent = none) →
    exec (.portUp port) s = .next { s with portUp := s.portUp ||| BitVec.ofNat 18 (2 ^ port) } ∧
    (∀ up, up = s.portUp &&& ~~~BitVec.ofNat 18 (2 ^ port) →
      ((∀ j < 16, portOf s j ≠ port) → exec (.planeFailure port) s = .next { s with portUp := up }) ∧
      (portOf s k = port → (∀ j < 16, portOf s j = port → j = k) → ∀ p,
        SparePort s up k p → ∃ s',
        exec (.planeFailure port) s = .next s' ∧
        s' = { s with
          portUp := up, planeNext := s.planeNext.set k (some p), planeDrain := s.planeDrain.set k true
          planeShared := s'.planeShared } ∧
        ∀ j < 16, (s'.planeShared.getD j false = true ↔ ∃ i < 16, i ≠ j ∧ portOf s' i = portOf s' j))) ∧
    ∀ p, s.planeNext.getD k none = some p →
      ((∃ e ∈ s.fab, e.2.answer = none ∧ foldOf e.2.pa = k) → exec (.planeDrainDone k) s = .next s) ∧
      ((∀ e ∈ s.fab, e.2.answer = none → foldOf e.2.pa ≠ k) → exec (.planeDrainDone k) s = .next
        { s with
          planePort := s.planePort.set k p, planeDrain := s.planeDrain.set k false, planeNext := s.planeNext.set k none })

/-- Pre-emption stops and saves teams, and frames restore them: `PreemptionStopsAndSavesTeams` and
`FramesRestoreTheirTeams`.
Exec answers a next state for: .precmdPreempt, .precmdResume, .precmdDiscard, .pageFaultSwapOut, .frameSave,
.frameRestore. -/
def Obligations.PreemptedTeamsAreSavedAndRestored : Prop :=
  Claims.PreemptionStopsAndSavesTeams ∧ Claims.FramesRestoreTheirTeams

/-- A damaged register raises SOFT and a damaged unit DATA_ERR; lost links, scrubs and control-state errors act as their
rules say: `DamagedRegistersRaiseSoft`, `DamagedUnitsAreNeverLoaded` and `LostLinksAndScrubsActAsTheirRulesSay`.
Exec answers a next state for: .pcieLinkDown, .pcieLinkUp, .ucieLinkFailure, .patrolScrub, .controlStateParityError. -/
def Obligations.DamageAndLostLinksAreContained : Prop :=
  Claims.DamagedRegistersRaiseSoft ∧ Claims.DamagedUnitsAreNeverLoaded ∧ Claims.LostLinksAndScrubsActAsTheirRulesSay

/-- R423, R424, R406: a request at the peer aperture is answered with Unsupported Request where its window does not serve it;
else it is performed at BASE plus its offset under the window's key. A write drops the L1 copies of its lines and leaves the
RDCs alone.
Exec answers a next state for: .peerRequest. -/
def Obligations.PeerRequestsAreServedThroughTheirWindow : Prop :=
  ∀ (s : State) (w o : Nat), o < 2 ^ 32 → w < 16 →
    let x := kget s.regs.apwin w 0
    let pa := windowBase x + o
    let key := windowKey x
    let unsupported : Out := .next { s with reply := some (.peer .unsupported) }
    (∀ len, ¬ ReadyFor s 10 ∨ ¬ WindowServes s x o len false → exec (.peerRequest (w * 2 ^ 32 + o) (.read len)) s = unsupported) ∧
    (∀ bytes, ¬ ReadyFor s 10 ∨ ¬ WindowServes s x o bytes.length true →
      exec (.peerRequest (w * 2 ^ 32 + o) (.write bytes)) s = unsupported) ∧
    (ReadyFor s 10 → s.bad = [] → windowBase x + 2 ^ 32 ≤ Config.hbmBytes →
      (∀ len, WindowServes s x o len false → o + len ≤ 2 ^ 32 →
        exec (.peerRequest (w * 2 ^ 32 + o) (.read len)) s = .next
          { s with reply := some (.peer (.done (tab len fun i => s.homeByte (.own (pa + i) key)))) }) ∧
      ∀ bytes, WindowServes s x o bytes.length true → o + bytes.length ≤ 2 ^ 32 → ∃ s',
        exec (.peerRequest (w * 2 ^ 32 + o) (.write bytes)) s = .next s' ∧
        s' = { s with l2 := s'.l2, cores := s'.cores, reply := some (.peer (.done [])) } ∧
        SameElsewhere s s' pa bytes.length key ∧ (∀ i < bytes.length, s'.homeByte (.own (pa + i) key) = bytes.getD i 0) ∧
        ∀ c, { s'.core c with l1 := [] } = { s.core c with l1 := [] } ∧
          ∀ e, e ∈ (s'.core c).l1 ↔ e ∈ (s.core c).l1 ∧
            ∀ q k, locOfLine e.1 = .own q k → ¬ (q < pa + bytes.length ∧ pa < q + 128))

/-- R338, R366, R382, R409, R410, R413, R417, R419, R421, R423, R426: a write to a register of the management BAR takes
the field that its block gives it, or starts the command that it names; a block that is not ready ignores it. An event
queue that becomes enabled starts over at 0. FWCMD's GO sets BUSY; the verification of the image in HBM ends it with
RESULT 0 to 3. What an image's bytes hold, and that one outside HBM or at no multiple of 4 KiB is malformed, is the
model's choice (notes/assumptions/157.md).
Exec answers a next state for: .registerWrite, .devnumWrite, .fwcmdGo, .eventQueueEnable. -/
def Obligations.RegisterWritesActAsTheirBlocksSay : Prop :=
  ∀ (s : State) (v : W64) (n : Nat),
    let write (off : Nat) := exec (.registerWrite off v) s
    let field (k : Nat) : Nat := (v.toNat % 2 ^ k)
    let regs (r : Regs) : Out := .next { s with regs := r }
    (ReadyFor s 0 →
      write 0x18 = exec (.devnumWrite v) s ∧
      ((∃ c ∈ s.contexts, c.2.active = true) → exec (.devnumWrite v) s = .next s) ∧
      ((∀ c ∈ s.contexts, c.2.active = false) → exec (.devnumWrite v) s = .next { s with devnum := v &&& 0x800003FF }) ∧
      write 0x20 = regs { s.regs with fwstage := v.toNat } ∧
      write 0x28 = (if v.getLsbD 0 = true ∧ s.regs.fwBusy = none then exec .fwcmdGo s else .next s) ∧
      (s.regs.fwBusy = none → exec .fwcmdGo s = regs { s.regs with fwBusy := some s.regs.fwstage }) ∧
      ∀ a, s.regs.fwBusy = some a → s.bad = [] →
        let bytes := s.homeBytes (.own a 0) Config.fwImageBytes
        let image := Config.fwImage bytes
        let r := if a % 4096 ≠ 0 ∨ Config.hbmBytes < a + Config.fwImageBytes ∨ image.malformed = true then 3
          else if image.badSignature = true ∨ image.keyDigest ≠ Config.fusedDigest then 1
          else if image.version < s.fwFused then 2 else 0
        exec .fwcmdGo s = regs { s.regs with
          fwBusy := none, fwResult := r, fwPending := if r = 0 then some bytes else s.regs.fwPending }) ∧
    (ReadyFor s 5 → n < 64 → write (0x10000 + 16 * n) = regs { s.regs with lqtab := kput s.regs.lqtab n v.toNat }) ∧
    (ReadyFor s 4 →
      write 0x20000 = regs { s.regs with ctxtab := v.toNat } ∧ write 0x20010 = regs { s.regs with invCtx := field 8 } ∧
      write 0x20018 = regs { s.regs with invVa := v.toNat } ∧ write 0x20020 = regs { s.regs with invLen := v.toNat } ∧
      write 0x20028 = regs { s.regs with invSig := v.toNat } ∧ write 0x20040 = regs { s.regs with keyIdx := field 7 } ∧
      (v.getLsbD 31 = true →
        write 0x20008 = exec (if v.getLsbD 8 then .ctxcmdRetire (field 6) else .ctxcmdActivate (field 6)) s) ∧
      (v.getLsbD 31 = false → v.getLsbD 0 = true → write 0x20030 = exec .invgo s) ∧
      (v.getLsbD 31 = true → v.getLsbD 0 = false → write 0x20030 = regs { s.regs with invErr := false }) ∧
      (field 2 = 1 → write 0x20044 = exec .keycmdLoad s) ∧ (field 2 = 2 → write 0x20044 = exec .keycmdErase s) ∧
      (field 2 ≠ 1 → field 2 ≠ 2 → write 0x20044 = regs { s.regs with keyOp := field 2 }) ∧
      (n < 8 → s.regs.keyData.length = 64 → ∃ d, write (0x20080 + 8 * n) = regs { s.regs with keyData := d } ∧
        d.length = 64 ∧ ∀ i < 64, d.getD i 0 =
          if i / 8 = n then (v >>> (8 * (i % 8))).setWidth 8 else s.regs.keyData.getD i 0) ∧
      write 0x40000 = regs { s.regs with rectab := v.toNat } ∧ write 0x40010 = regs { s.regs with presig := v.toNat } ∧
      (v.getLsbD 31 = true → ∀ i, ((v >>> 8).toNat % 4, i) ∈
        [(0, Instr.precmdPreempt (field 6)), (1, .precmdResume (field 6)), (2, .precmdDiscard (field 6))] →
        write 0x40008 = exec i s) ∧
      write 0x50000 = .next { s with err := { s.err with log := v.toNat } } ∧
      (∃ e, write 0x50008 = .next { s with err := e } ∧ e = { s.err with ctl := v &&& 0x8000001F, widx := e.widx } ∧
        e.widx = if v.getLsbD 31 && !s.err.ctl.getLsbD 31 then 0 else s.err.widx) ∧
      write 0x50018 = .next { s with err := { s.err with ridx := v.toNat } } ∧
      write 0x50028 = .next { s with err :=
        { s.err with lost := (BitVec.ofNat 32 s.err.lost &&& ~~~v.setWidth 32).toNat } } ∧
      (n < 64 → write (0x60008 + 16 * n) = exec (.eventQueueEnable n v) s ∧
        let q := queueOf s n
        let q' : EventQ := { q with enabled := v.getLsbD 31, logn := field 5 }
        (QueueOn q → write (0x60000 + 16 * n) = .next s) ∧
        (¬ QueueOn q → write (0x60000 + 16 * n) = .next { s with events := kput s.events n { q with base := v.toNat } }) ∧
        (QueueOn q → q'.logn ≠ q.logn → exec (.eventQueueEnable n v) s = .next s) ∧
        ((QueueOn q ∧ q'.logn = q.logn) ∨ ¬ QueueOn q' →
          (QueueOn q → q'.logn = q.logn) → exec (.eventQueueEnable n v) s = .next { s with events := kput s.events n q' }) ∧
        (¬ QueueOn q → QueueOn q' → q.base + 8 ≤ 2 ^ 63 → ∃ s', exec (.eventQueueEnable n v) s = .next s' ∧
          s' = { s with l2 := s'.l2, bad := s'.bad, events := kput s.events n { q' with count := 0 } } ∧ SameElsewhere s s' q.base 8 0 ∧
          homeNat s' q.base 8 = 0))) ∧
    (ReadyFor s 6 →
      write 0x30000 = regs { s.regs with leasetab := v.toNat } ∧
      write 0x30028 = .next { s with fabricTimeout := (
        if field 14 < 10 then 10 else if 10000 < field 14 then 10000 else field 14) } ∧
      (v.getLsbD 31 = true → ∀ i, ((v >>> 8).toNat % 4, i) ∈
        [(0, Instr.leasecmdOfferGrant (field 6)), (1, .leasecmdReclaim (field 6)), (2, .leasecmdReturn (field 6)),
          (3, .leasecmdRetire (field 6))] → write 0x30008 = exec i s)) ∧
    (ReadyFor s 9 → write 0x70000 = regs { s.regs with pwrcap := (
      if field 16 < 500 then 500 else if 3200 < field 16 then 3200 else field 16) }) ∧
    (ReadyFor s 10 → n < 16 → write (0x80000 + 8 * n) = regs { s.regs with apwin := kput s.regs.apwin n v }) ∧
    ∀ e ∈ [(0, 0), (1, 5), (2, 4), (3, 6), (4, 4), (5, 4), (6, 4), (7, 9), (8, 10)], ¬ ReadyFor s e.2 → n < 0x10000 →
      write (0x10000 * e.1 + n) = .next s

/-- R420, R425: after a reset the device is as it was at first, but for what lies outside it, its fuses and what HBM holds,
which is undefined; an accepted image runs, and its version is the fused minimum from then on. A function sets its READY bit
once those it depends on are ready, and raises vector 1: bit 0 with the verification of the running image, the others only
where that found no fault. The SPDM responder answers each request. That bits 3 and 6 to 10 need bit 0, and what a reset
leaves, are deduced (notes/assumptions/97.md and 98.md).
Exec answers a next state for: .deviceReset, .functionReady, .getVersion, .getCapabilities, .negotiateAlgorithms,
.getDigests, .getCertificate, .challenge, .getMeasurements. -/
def Obligations.ResetAndBringUpLeadToReadyFunctions : Prop :=
  ∀ (s : State),
    (∃ s', exec .deviceReset s = .next s' ∧ s' =
      { State.reset with
        l2 := s'.l2, keyTag := s'.keyTag, undef := s'.undef, freeCtr := s'.freeCtr, bad := s'.bad
        hostMem := s.hostMem, fabMem := s.fabMem, hostAtomics := s.hostAtomics, nguyx := s.nguyx
        correctable := s'.correctable, agenda := s.agenda
        fwImage := if s.regs.fwPending = none then s.fwImage else s.regs.fwPending
        fwFused := match s.regs.fwPending with | none => s.fwFused | some b => (Config.fwImage b).version }) ∧
    (∀ bit, bit < 11 → ¬ ReadyFor s bit → s.diesStopped = false →
      let needs : List Nat := if bit = 0 then [] else if bit = 4 then [0, 1, 2] else if bit = 5 then [0, 4] else [0]
      let image := Config.fwImage (s.fwImage.getD Config.partImage)
      ((∃ k ∈ needs, ¬ ReadyFor s k) ∨ (bit ≠ 0 ∧ s.fwGood = false) → exec (.functionReady bit) s = .next s) ∧
      ((∀ k ∈ needs, ReadyFor s k) → (bit = 0 ∨ s.fwGood = true) →
        ∃ (c : Nat) (r : Regs) (good : Bool), exec (.functionReady bit) s = .next { s with
          keys := if bit = 1 then kput s.keys 0 ⟨true, []⟩ else s.keys, fwGood := good, freeCtr := c
          regs := { r with msix := kput s.regs.msix 1 (kget s.regs.msix 1 0 + 1) } } ∧
        (∀ k, r.ready.getLsbD k = true ↔ ReadyFor s k ∨ k = bit) ∧
        (good = true ↔ if bit = 0 then image.malformed = false ∧ image.badSignature = false ∧
          image.keyDigest = Config.fusedDigest ∧ s.fwFused ≤ image.version else s.fwGood = true) ∧
        (if bit = 9 then Sensed s.regs { r with ready := s.regs.ready } else c = s.freeCtr ∧ r = { s.regs with ready := r.ready }))) ∧
    (ReadyFor s 0 →
      let answers (i : Instr) (a : SpdmAnswer) : Prop := exec i s = .next { s with reply := some (.spdm a) }
      answers .getVersion (.version 1 2) ∧ answers .getCapabilities (.capabilities false) ∧
      answers .negotiateAlgorithms (.algorithms .rsassaPss3072 .sha256) ∧ (∃ d, answers .getDigests (.digests d)) ∧
      (∃ c : List Byte, ∀ off len, answers (.getCertificate off len) (.certificate ((c.drop off).take len))) ∧
      (∀ nonce, ∃ r, exec (.challenge nonce) s = .next
        { s with freeCtr := s.freeCtr + 1, reply := some (.spdm (.challenge nonce r)) }) ∧
      ∀ index, 1 ≤ index → index ≤ 5 → ∃ m, answers (.getMeasurements index) (.measurements index m))

/-- R113 to R115, R354, R418, R426: a core's clock is not taken below 350 MHz, where a core may pause; reductions and
pauses are counted, and a condition that becomes set raises vector 2, on a module that has it; a gated core has no
translation and no copy; a halted core is marked until it resumes; a Nguyx object becomes its instructions' words, once in
a context, with its labels resolved, or is refused with 0x21 for an unmet capability and 0x22 for an instruction of a
later level. The pause at 0 MHz, TEMP at 840, what a gated core holds and an object's form are the model's
(notes/assumptions/101.md, 15.md, 102.md, 103.md).
Exec answers a next state for: .thermalThrottle, .moduleFault, .moduleFaultEnd, .corePowerGate, .debuggerHalt,
.debuggerResume, .nguyxFinalise. -/
def Obligations.PowerDebugAndFinalisationActAsTheirRulesSay : Prop :=
  ∀ (s : State),
    let counted (s1 : State) : State := { s1 with regs := { s1.regs with thrcnt := min (s1.regs.thrcnt + 1) (2 ^ 64 - 1) } }
    let now (k : Nat) : Nat := kget s.clocks k 1400
    let reads (r r' : Regs) (s1 : State) (o : Out) : Prop := ∃ c, Sensed r r' ∧ o = .next { s1 with freeCtr := c, regs := r' }
    let met (what : ModuleFault) : Bool :=
      match what with | .vr => s.regs.vrFault | .flow => s.regs.flowFault | .temperature => s.regs.overTemp
    let put (what : ModuleFault) (x : Bool) : Regs := match what with
      | .vr => { s.regs with vrFault := x } | .flow => { s.regs with flowFault := x } | .temperature => { s.regs with overTemp := x }
    (ReadyFor s 9 → ∀ island, island < 512 →
      (∀ mhz, (if island < 384 then 350 else 1) ≤ mhz →
        let clocks := if 1400 ≤ mhz then kdel s.clocks island else kput s.clocks island mhz
        ∃ r, reads (if mhz < now island then counted s else s).regs r { s with clocks := clocks }
          (exec (.thermalThrottle island mhz) s)) ∧
      (∀ mhz, island < 384 → 0 < mhz → mhz < 350 → exec (.thermalThrottle island mhz) s = .next s) ∧
      (if island < 384 ∧ now island = 350 ∧ kget? s.paused island = none then
          ∃ r, reads (counted s).regs r { s with paused := kput s.paused island s.time.toNat } (exec (.thermalThrottle island 0) s)
        else exec (.thermalThrottle island 0) s = .next s)) ∧
    (∀ what, what ≠ .temperature → Config.onModule = false → exec (.moduleFault what) s = .next s) ∧
    (∀ what, what = .temperature ∨ Config.onModule = true → ∃ c r, Sensed (put what true) r ∧ exec (.moduleFault what) s =
      .next { s with
        freeCtr := c, regs := { r with msix := if met what then r.msix else kput r.msix 2 (kget r.msix 2 0 + 1) } }) ∧
    (∀ what, ∃ r, reads (put what false) r s (exec (.moduleFaultEnd what) s)) ∧
    (∀ core, core ∉ s.gated → (∀ e ∈ s.teams, core ∉ e.2.cores) → ∃ s', exec (.corePowerGate core true) s = .next s' ∧
      s' = { s with gated := core :: s.gated, cores := s'.cores } ∧
      s'.core core = { s.core core with tlb := [], l1 := [] } ∧ ∀ c, c ≠ core → s'.core c = s.core c) ∧
    (∀ core, exec (.corePowerGate core false) s = .next { s with gated := s.gated.filter (· != core) }) ∧
    (∀ core, core ∉ s.dbgHalted → exec (.debuggerHalt core) s = .next { s with dbgHalted := core :: s.dbgHalted }) ∧
    (∀ core, exec (.debuggerResume core) s = .next { s with dbgHalted := s.dbgHalted.filter (· != core) }) ∧
    ∀ ctx obj o, kget? s.nguyx obj = some o →
      let found := ∃ r, (ctx, obj, r) ∈ s.finalised ∧ r ≠ .refused 0x21
      let others := s.finalised.filter fun f => !(f.1 == ctx && f.2.1 == obj)
      let result (r : Finalised) : Prop := exec (.nguyxFinalise ctx obj) s = .next { s with finalised := (ctx, obj, r) :: others }
      let capsMet := ∀ c ∈ o.caps, ∀ k < 32, c.2.testBit k = true → ((s.capability c.1).getD 0).testBit k = true
      (found → exec (.nguyxFinalise ctx obj) s = .next s) ∧
      let plain (is : List Instr) : List NguyxText := is.map fun i => .instr 1 i none
      let whole (is : List Instr) : Prop := ∀ i ∈ is, encode i ≠ []
      let bytesOf (is : List Instr) : Nat := lsum (is.map (·.len))
      (¬ found → ¬ capsMet → result (.refused 0x21)) ∧
      (¬ found → capsMet → (∃ level i use, .instr level i use ∈ o.text ∧ 1 < level) → result (.refused 0x22)) ∧
      (∀ is, ¬ found → capsMet → whole is → o = ⟨o.caps, plain is, [], [], []⟩ → result (.native (is.flatMap encode) [] [] [] [])) ∧
      (∀ h x is l, ¬ found → capsMet → whole is →
        o = ⟨o.caps, .instr 1 (.bra h x) (some (.target ⟨l, 0⟩)) :: plain is ++ [.label l], [], [], []⟩ →
        let d := 4 + bytesOf is
        d < 2 ^ 19 → result (.native (encode (.bra h (BitVec.ofNat 18 (d / 4))) ++ is.flatMap encode) [] [] [] [])) ∧
      ∀ h sd x is l (hi : Bool), ¬ found → capsMet → whole is →
        o = ⟨o.caps, .instr 1 (.smovi h sd x) (some (if hi then .hi32 ⟨l, 0⟩ else .lo32 ⟨l, 0⟩)) :: plain is ++ [.label l], [], [], []⟩ →
        result (.native (encode (.smovi h sd 0) ++ is.flatMap encode) [] [] []
          [⟨if hi then .hi32 else .lo32, .text, 4, .text, 8 + bytesOf is⟩])
end

