-- ==== Sys2Proof/Laws/Encoding.lean ====
section
/-! SUPPORT. Fields of encoded words: what the decoder's field reads give on a word that the encoder put together. -/

namespace Sys2Proof

theorem fld_append_high {n m : Nat} (a : BitVec n) (b : BitVec m) (lo w : Nat) (h : m ≤ lo) :
    fld (a ++ b) lo w = fld a (lo - m) w := by
  apply BitVec.eq_of_getLsbD_eq; intro i _
  simp only [fld, BitVec.getLsbD_extractLsb', BitVec.getLsbD_append]
  rw [if_neg (by omega)]; congr 2; omega

theorem fld_append_low {n m : Nat} (a : BitVec n) (b : BitVec m) (lo w : Nat) (h : lo + w ≤ m) :
    fld (a ++ b) lo w = fld b lo w := by
  apply BitVec.eq_of_getLsbD_eq; intro i hi
  simp only [fld, BitVec.getLsbD_extractLsb', BitVec.getLsbD_append, hi, decide_true, Bool.true_and]
  rw [if_pos (by omega)]

/-- A whole field. -/
@[simp] theorem fld_whole {n : Nat} (a : BitVec n) : fld a 0 n = a := by
  apply BitVec.eq_of_getLsbD_eq; intro i hi
  simp [fld, hi]

@[simp] theorem fld_zero {n : Nat} (lo w : Nat) : fld (0#n) lo w = 0#w := by
  apply BitVec.eq_of_getLsbD_eq; intro i _
  simp [fld]

theorem bit_append_high {n m : Nat} (a : BitVec n) (b : BitVec m) (i : Nat) (h : m ≤ i) : bit (a ++ b) i = bit a (i - m) := by
  simp only [bit, BitVec.getLsbD_append]; rw [if_neg (by omega)]

theorem bit_append_low {n m : Nat} (a : BitVec n) (b : BitVec m) (i : Nat) (h : i < m) : bit (a ++ b) i = bit b i := by
  simp only [bit, BitVec.getLsbD_append]; rw [if_pos h]

@[simp] theorem bit_ofBool (b : Bool) : bit (BitVec.ofBool b) 0 = b := by cases b <;> rfl
@[simp] theorem bit_zero {n : Nat} (i : Nat) : bit (0#n) i = false := by simp [bit]
theorem isZ_eq {n : Nat} (x : BitVec n) (lo w : Nat) : isZ x lo w = (fld x lo w == 0) := rfl

/-- The four bytes of a word read back as the word. -/
theorem wordOfBytes_bytesOfWord (w : W32) (r : List Byte) : wordOfBytes (bytesOfWord w ++ r) = some (w, r) := by
  simp only [bytesOfWord, List.cons_append, List.nil_append, wordOfBytes, Option.some.injEq, Prod.mk.injEq, and_true]
  apply BitVec.eq_of_getLsbD_eq; intro i hi
  simp only [fld, BitVec.getLsbD_append, BitVec.getLsbD_extractLsb']
  split
  · simp [*]
  · split
    · simp only [*, decide_true, Bool.true_and]; congr 1; omega
    · split
      · simp only [*, decide_true, Bool.true_and]; congr 1; omega
      · rw [decide_eq_true (by omega), Bool.true_and]; congr 1; omega

/-! ## Lane words (R61) -/

@[simp] theorem laneWord_op (h : LaneHdr) (op : BitVec 8) (x : BitVec 18) : fld (laneWord h op x) 18 8 = op := by
  unfold laneWord
  repeat first | rw [fld_append_low _ _ _ _ (by decide)] | rw [fld_append_high _ _ _ _ (by decide)]
  rw [fld_whole]

@[simp] theorem laneWord_low (h : LaneHdr) (op : BitVec 8) (x : BitVec 18) : fld (laneWord h op x) 0 18 = x := by
  unfold laneWord
  rw [fld_append_low _ _ _ _ (by decide), fld_whole]

@[simp] theorem laneWord_set (h : LaneHdr) (op : BitVec 8) (x : BitVec 18) : bit (laneWord h op x) 31 = false := by
  unfold laneWord
  repeat first | rw [bit_append_low _ _ _ (by decide)] | rw [bit_append_high _ _ _ (by decide)]
  rfl

@[simp] theorem laneWord_hdr (h : LaneHdr) (op : BitVec 8) (x : BitVec 18) : laneHdr (laneWord h op x) = h := by
  unfold laneHdr laneWord
  repeat first | rw [bit_append_low _ _ _ (by decide)] | rw [bit_append_high _ _ _ (by decide)]
  repeat first | rw [fld_append_low _ _ _ _ (by decide)] | rw [fld_append_high _ _ _ _ (by decide)]
  simp

theorem opcodeAllocated_eq (w : W32) : opcodeAllocated w =
    if bit w 31 then warpOpAllocated (fld w 18 9).toNat else laneOpAllocated (fld w 18 8).toNat := rfl

@[simp] theorem opcodeAllocated_laneWord (h : LaneHdr) (op : BitVec 8) (x : BitVec 18) :
    opcodeAllocated (laneWord h op x) = laneOpAllocated op.toNat := by
  rw [opcodeAllocated_eq, laneWord_set, laneWord_op]; rfl

@[simp] theorem twoWords_laneWord (h : LaneHdr) (op : BitVec 8) (x : BitVec 18) :
    twoWords (laneWord h op x) = laneOpTwoWords op.toNat := by
  rw [twoWords, laneWord_set, laneWord_op]; rfl

/-! ## Warp words (R62) -/

@[simp] theorem warpWord_op (h : WarpHdr) (op : BitVec 9) (x : BitVec 18) : fld (warpWord h op x) 18 9 = op := by
  unfold warpWord
  repeat first | rw [fld_append_low _ _ _ _ (by decide)] | rw [fld_append_high _ _ _ _ (by decide)]
  rw [fld_whole]

@[simp] theorem warpWord_low (h : WarpHdr) (op : BitVec 9) (x : BitVec 18) : fld (warpWord h op x) 0 18 = x := by
  unfold warpWord
  rw [fld_append_low _ _ _ _ (by decide), fld_whole]

@[simp] theorem warpWord_set (h : WarpHdr) (op : BitVec 9) (x : BitVec 18) : bit (warpWord h op x) 31 = true := by
  unfold warpWord
  repeat first | rw [bit_append_low _ _ _ (by decide)] | rw [bit_append_high _ _ _ (by decide)]
  rfl

@[simp] theorem warpWord_hdr (h : WarpHdr) (op : BitVec 9) (x : BitVec 18) : warpHdr (warpWord h op x) = h := by
  unfold warpHdr warpWord
  repeat first | rw [bit_append_low _ _ _ (by decide)] | rw [bit_append_high _ _ _ (by decide)]
  repeat first | rw [fld_append_low _ _ _ _ (by decide)] | rw [fld_append_high _ _ _ _ (by decide)]
  simp

@[simp] theorem opcodeAllocated_warpWord (h : WarpHdr) (op : BitVec 9) (x : BitVec 18) :
    opcodeAllocated (warpWord h op x) = warpOpAllocated op.toNat := by
  rw [opcodeAllocated_eq, warpWord_set, warpWord_op]; rfl

@[simp] theorem twoWords_warpWord (h : WarpHdr) (op : BitVec 9) (x : BitVec 18) :
    twoWords (warpWord h op x) = warpOpTwoWords op.toNat := by
  rw [twoWords, warpWord_set, warpWord_op]; rfl

/-! ## Field codes read back (R65) -/

@[simp] theorem Scope.ofBits_bits (a : Scope) : Scope.ofBits a.bits = some a := by cases a <;> rfl
@[simp] theorem Ord.ofBits_bits (a : Ord) : Ord.ofBits a.bits = some a := by cases a <;> rfl
@[simp] theorem Size.ofBits_bits (a : Size) : Size.ofBits a.bits = some a := by cases a <;> rfl
@[simp] theorem Aop.ofBits_bits (a : Aop) : Aop.ofBits a.bits = some a := by cases a <;> rfl
@[simp] theorem Cond.ofBits_bits (a : Cond) : Cond.ofBits a.bits = some a := by cases a <;> rfl
@[simp] theorem Bop.ofBits_bits (a : Bop) : Bop.ofBits a.bits = some a := by cases a <;> rfl
@[simp] theorem Ty.ofBits_bits (a : Ty) : Ty.ofBits a.bits = some a := by cases a <;> rfl
@[simp] theorem Rm.ofBits_bits (a : Rm) : Rm.ofBits a.bits = some a := by cases a <;> rfl
@[simp] theorem RedOp.ofBits_bits (a : RedOp) : RedOp.ofBits a.bits = some a := by cases a <;> rfl
@[simp] theorem ShflMode.ofBits_bits (a : ShflMode) : ShflMode.ofBits a.bits = some a := by cases a <;> rfl
@[simp] theorem VoteMode.ofBits_bits (a : VoteMode) : VoteMode.ofBits a.bits = some a := by cases a <;> rfl
@[simp] theorem CmpT.ofBits_bits (a : CmpT) : CmpT.ofBits a.bits = some a := by cases a <;> rfl
@[simp] theorem GbarCls.ofBits_bits (a : GbarCls) : GbarCls.ofBits a.bits = some a := by cases a <;> rfl

end Sys2Proof
end

