-- ==== Sys2Proof/Laws/Maps.lean ====
section
/-! SUPPORT. Finite maps: reading after writing, and the ascending order of keys. -/

namespace Sys2Proof.Machine

variable {α : Type}

@[simp] theorem kget?_nil (k : Nat) : kget? ([] : KMap α) k = none := rfl
@[simp] theorem kget_nil (k : Nat) (d : α) : kget ([] : KMap α) k d = d := rfl

theorem kget?_cons (k : Nat) (v : α) (m : KMap α) (j : Nat) :
    kget? ((k, v) :: m) j = if k = j then some v else kget? m j := rfl

/-- Reading a key after writing it. -/
@[simp] theorem kget?_kput_same (m : KMap α) (k : Nat) (a : α) : kget? (kput m k a) k = some a := by
  induction m with
  | nil => simp [kput, kget?_cons]
  | cons e m ih =>
    obtain ⟨j, v⟩ := e
    simp only [kput]
    split
    · simp [kget?_cons]
    · split
      · simp [kget?_cons]
      · rw [kget?_cons, if_neg (by omega), ih]

/-- Reading another key after a write. -/
theorem kget?_kput_other (m : KMap α) {k j : Nat} (a : α) (h : j ≠ k) : kget? (kput m k a) j = kget? m j := by
  induction m with
  | nil => simp [kput, kget?_cons, Ne.symm h]
  | cons e m ih =>
    obtain ⟨i, v⟩ := e
    simp only [kput]
    split
    · rw [kget?_cons, if_neg (Ne.symm h)]
    · split
      · next hk => rw [kget?_cons, if_neg (Ne.symm h), kget?_cons, if_neg (by omega)]
      · rw [kget?_cons, kget?_cons, ih]

@[simp] theorem kget_kput_same (m : KMap α) (k : Nat) (a d : α) : kget (kput m k a) k d = a := by simp [kget]

theorem kget_kput_other (m : KMap α) {k j : Nat} (a d : α) (h : j ≠ k) : kget (kput m k a) j d = kget m j d := by
  simp [kget, kget?_kput_other m a h]

theorem kget?_kput (m : KMap α) (k j : Nat) (a : α) : kget? (kput m k a) j = if j = k then some a else kget? m j := by
  split
  · next h => subst h; simp
  · next h => exact kget?_kput_other m a h

/-- The later of two writes to one key stands. -/
@[simp] theorem kput_kput (m : KMap α) (k : Nat) (a b : α) : kput (kput m k a) k b = kput m k b := by
  induction m with
  | nil => simp [kput]
  | cons e m ih =>
    obtain ⟨j, v⟩ := e
    simp only [kput]
    split
    · next h => simp [kput]
    · split
      · simp [kput]
      · next h1 h2 => simp [kput, h1, h2, ih]

@[simp] theorem kget?_kdel_same (m : KMap α) (k : Nat) : kget? (kdel m k) k = none := by
  induction m with
  | nil => rfl
  | cons e m ih =>
    obtain ⟨j, v⟩ := e
    simp only [kdel]
    split
    · exact ih
    · next h => rw [kget?_cons, if_neg h, ih]

theorem kget?_kdel_other (m : KMap α) {k j : Nat} (h : j ≠ k) : kget? (kdel m k) j = kget? m j := by
  induction m with
  | nil => rfl
  | cons e m ih =>
    obtain ⟨i, v⟩ := e
    simp only [kdel]
    split
    · next hk => subst hk; rw [kget?_cons, if_neg (Ne.symm h), ih]
    · rw [kget?_cons, kget?_cons, ih]

@[simp] theorem kget?_kmap (f : Nat → α → α) (m : KMap α) (k : Nat) : kget? (kmap f m) k = (kget? m k).map (f k) := by
  induction m with
  | nil => rfl
  | cons e m ih =>
    obtain ⟨j, v⟩ := e
    simp only [kmap, kget?_cons]
    split
    · next h => subst h; rfl
    · exact ih

theorem kget?_kmod (m : KMap α) (k j : Nat) (f : α → α) :
    kget? (kmod m k f) j = if j = k then (kget? m k).map f else kget? m j := by
  unfold kmod
  split
  · next a h => rw [kget?_kput]; split <;> simp [h]
  · next h => split <;> simp_all

/-- An entry that is read stands in the list. -/
theorem mem_of_kget? {m : KMap α} {k : Nat} {a : α} (h : kget? m k = some a) : (k, a) ∈ m := by
  induction m with
  | nil => cases h
  | cons e m ih =>
    obtain ⟨j, v⟩ := e
    rw [kget?_cons] at h
    split at h
    · next hk => subst hk; cases h; exact List.mem_cons_self
    · exact List.mem_cons_of_mem _ (ih h)

/-! ## Ascending keys -/

theorem ksorted_cons {k : Nat} {v : α} {m : KMap α} (h : ksorted ((k, v) :: m) = true) :
    ksorted m = true ∧ ∀ e ∈ m, k < e.1 := by
  induction m generalizing k v with
  | nil => simp [ksorted]
  | cons e m ih =>
    obtain ⟨j, b⟩ := e
    simp only [ksorted, Bool.and_eq_true, decide_eq_true_eq] at h
    refine ⟨h.2, ?_⟩
    intro e he
    rcases List.mem_cons.mp he with rfl | hm
    · exact h.1
    · exact lt_trans h.1 ((ih h.2).2 e hm)

theorem ksorted_of {k : Nat} {v : α} {m : KMap α} (h : ksorted m = true) (hk : ∀ e ∈ m, k < e.1) :
    ksorted ((k, v) :: m) = true := by
  cases m with
  | nil => rfl
  | cons e m =>
    simp only [ksorted, Bool.and_eq_true, decide_eq_true_eq]
    exact ⟨hk e List.mem_cons_self, h⟩

theorem mem_kput {m : KMap α} {k : Nat} {a : α} {e : Nat × α} (h : e ∈ kput m k a) : e = (k, a) ∨ e ∈ m := by
  induction m with
  | nil => simpa [kput] using h
  | cons f m ih =>
    obtain ⟨j, v⟩ := f
    simp only [kput] at h
    split at h
    · simpa using h
    · split at h
      · rcases List.mem_cons.mp h with h | h
        · exact .inl h
        · exact .inr (List.mem_cons_of_mem _ h)
      · rcases List.mem_cons.mp h with h | h
        · exact .inr (h ▸ List.mem_cons_self)
        · exact (ih h).imp_right (List.mem_cons_of_mem _)

/-- A write keeps the keys ascending. -/
theorem ksorted_kput {m : KMap α} (h : ksorted m = true) (k : Nat) (a : α) : ksorted (kput m k a) = true := by
  induction m with
  | nil => rfl
  | cons e m ih =>
    obtain ⟨j, v⟩ := e
    obtain ⟨hm, hj⟩ := ksorted_cons h
    simp only [kput]
    split
    · next hk => exact ksorted_of h (by
        intro e he
        rcases List.mem_cons.mp he with rfl | he
        · exact hk
        · exact lt_trans hk (hj e he))
    · split
      · next hk => subst hk; exact ksorted_of hm hj
      · next h1 h2 => exact ksorted_of (ih hm) (by
          intro e he
          rcases mem_kput he with rfl | he
          · simp only; omega
          · exact hj e he)

theorem mem_kdel {m : KMap α} {k : Nat} {e : Nat × α} (h : e ∈ kdel m k) : e ∈ m ∧ e.1 ≠ k := by
  induction m with
  | nil => cases h
  | cons f m ih =>
    obtain ⟨j, v⟩ := f
    simp only [kdel] at h
    split at h
    · exact ⟨List.mem_cons_of_mem _ (ih h).1, (ih h).2⟩
    · next hk =>
      rcases List.mem_cons.mp h with rfl | h
      · exact ⟨List.mem_cons_self, hk⟩
      · exact ⟨List.mem_cons_of_mem _ (ih h).1, (ih h).2⟩

/-- A removal keeps the keys ascending. -/
theorem ksorted_kdel {m : KMap α} (h : ksorted m = true) (k : Nat) : ksorted (kdel m k) = true := by
  induction m with
  | nil => rfl
  | cons e m ih =>
    obtain ⟨j, v⟩ := e
    obtain ⟨hm, hj⟩ := ksorted_cons h
    simp only [kdel]
    split
    · exact ih hm
    · exact ksorted_of (ih hm) fun e he => hj e (mem_kdel he).1

end Sys2Proof.Machine
end

