-- ==== Sys2Proof/Laws/Memory.lean ====
section
/-! SUPPORT. Byte memories: reading after writing, and every operation keeps the canonical form. -/

namespace Sys2Proof.Machine

open Sys2Proof

/-- Reading a byte after writing it. -/
@[simp] theorem mget_mput_same (m : List Host.Cell) (a : Nat) (b : Byte) : mget (mput m a b) a = b := by
  unfold mget mput
  split
  · next h => simp [kget, h]
  · simp

/-- Reading another byte after a write. -/
theorem mget_mput_other (m : List Host.Cell) {a c : Nat} (b : Byte) (h : c ≠ a) : mget (mput m a b) c = mget m c := by
  unfold mget mput
  split
  · simp [kget, kget?_kdel_other m h]
  · exact kget_kput_other m b 0 h

theorem wf_iff (m : List Host.Cell) : Memory.wf m = true ↔ ksorted m = true ∧ ∀ e ∈ m, e.2 ≠ 0 := by
  simp [Memory.wf, List.all_eq_true]

@[simp] theorem wf_nil : Memory.wf [] = true := rfl

/-- A write keeps the canonical form. -/
theorem wf_mput {m : List Host.Cell} (h : Memory.wf m = true) (a : Nat) (b : Byte) : Memory.wf (mput m a b) = true := by
  rw [wf_iff] at h ⊢
  unfold mput
  split
  · exact ⟨ksorted_kdel h.1 a, fun e he => h.2 e (mem_kdel he).1⟩
  · next hb =>
    refine ⟨ksorted_kput h.1 a b, fun e he => ?_⟩
    rcases mem_kput he with rfl | he
    · exact hb
    · exact h.2 e he

/-- A run of writes keeps the canonical form. -/
theorem wf_foldl_mput {ι : Type} (l : List ι) (a : ι → Nat) (b : ι → Byte) {m : List Host.Cell} (h : Memory.wf m = true) :
    Memory.wf (l.foldl (fun m i => mput m (a i) (b i)) m) = true := by
  induction l generalizing m with
  | nil => exact h
  | cons i l ih => exact ih (wf_mput h _ _)

/-! ## The state's memories -/

/-- States with the same three memories are canonical together. -/
theorem memOk_of_eq {s t : State} (h : State.memOk s) (h1 : t.hbm = s.hbm) (h2 : t.hostMem = s.hostMem)
    (h3 : t.fabMem = s.fabMem) : State.memOk t := by
  unfold State.memOk at *; rw [h1, h2, h3]; exact h

theorem memOk_putHome {s : State} (h : State.memOk s) (l : Loc) (b : Byte) : State.memOk (s.putHome l b) := by
  obtain ⟨h1, h2, h3⟩ := h
  cases l with
  | own pa key => exact ⟨h1, h2, h3⟩
  | peer dev pa => exact ⟨h1, h2, wf_mput h3 _ _⟩
  | host a => exact ⟨h1, wf_mput h2 _ _, h3⟩

theorem memOk_putHomes {s : State} (h : State.memOk s) (l : Loc) (bs : List Byte) : State.memOk (s.putHomes l bs) := by
  induction bs generalizing s l with
  | nil => exact h
  | cons b bs ih => exact ih (memOk_putHome h l b) _

theorem memOk_mendHome {s : State} (h : State.memOk s) (l : Loc) (n : Nat) : State.memOk (s.mendHome l n) := by
  unfold State.mendHome
  by_cases hb : s.bad.isEmpty = true
  · rw [if_pos hb]; exact h
  · rw [if_neg hb]; exact h

theorem memOk_writeHome {s : State} (h : State.memOk s) (l : Loc) (bs : List Byte) : State.memOk (s.writeHome l bs) :=
  memOk_mendHome (memOk_putHomes h l bs) l bs.length

theorem memOk_putHomeAt {s : State} (h : State.memOk s) (l : Loc) (ws : List (Nat × Byte)) :
    State.memOk (s.putHomeAt l ws) := by
  unfold State.putHomeAt
  generalize runsOf ws = rs
  induction rs generalizing s with
  | nil => exact h
  | cons r rs ih => exact ih (memOk_writeHome h _ _)

theorem memOk_l2Evict {s : State} (h : State.memOk s) (t : Nat) : State.memOk (s.l2Evict t) := by
  unfold State.l2Evict
  split
  · exact h
  · exact ⟨wf_foldl_mput _ _ _ h.1, h.2.1, h.2.2⟩

theorem memOk_scramble {s : State} (h : State.memOk s) (base size : Nat) : State.memOk (s.scramble base size) := h

theorem memOk_devWrite {s : State} (h : State.memOk s) (pa : Nat) (bs : List Byte) : State.memOk (s.devWrite pa bs) :=
  memOk_writeHome h _ bs

theorem memOk_mendBad {s : State} (h : State.memOk s) (kind owner unit a n : Nat) :
    State.memOk (s.mendBad kind owner unit a n) := by
  unfold State.mendBad
  split
  · exact h
  · exact h

/-- The three memories after reset. -/
theorem reset_memories : State.reset.hbm = [] ∧ State.reset.hostMem = [] ∧ State.reset.fabMem = [] := ⟨rfl, rfl, rfl⟩

/-! ## Reading a home after writing it -/

@[simp] theorem homeByte_putHome_peer (s : State) (d pa : Nat) (b : Byte) :
    (s.putHome (.peer d pa) b).homeByte (.peer d pa) = b := by simp [State.putHome, State.homeByte]

@[simp] theorem homeByte_putHome_host (s : State) (a : Nat) (b : Byte) :
    (s.putHome (.host a) b).homeByte (.host a) = b := by simp [State.putHome, State.homeByte]

theorem tab_getD {β : Type} (n : Nat) (f : Nat → β) (i : Nat) (d : β) (h : i < n) : (tab n f).getD i d = f i := by
  simp [tab, h]

@[simp] theorem homeByte_putHome_own (s : State) (pa key : Nat) (b : Byte) :
    (s.putHome (.own pa key) b).homeByte (.own pa key) = b := by
  have hlt : pa % 128 < 128 := Nat.mod_lt _ (by decide)
  simp only [State.putHome, State.homeByte, State.ownByte, kget?_kput_same]
  rw [if_pos, tab_getD _ _ _ _ hlt, if_pos rfl]
  simp [hlt]

end Sys2Proof.Machine
end

