-- ==== Sys2Proof/Laws/Frame.lean ====
section
/-! SUPPORT. An update of a field that is no memory keeps the memories canonical: one lemma per field of the state. -/

namespace Sys2Proof.Machine

open Sys2Proof

theorem memOk_with_time {s : State} (h : State.memOk s) (x : W64) : State.memOk { s with time := x } := h
theorem memOk_with_warps {s : State} (h : State.memOk s) (x : KMap Warp) : State.memOk { s with warps := x } := h
theorem memOk_with_teams {s : State} (h : State.memOk s) (x : KMap Team) : State.memOk { s with teams := x } := h
theorem memOk_with_cores {s : State} (h : State.memOk s) (x : KMap Core) : State.memOk { s with cores := x } := h
theorem memOk_with_l2 {s : State} (h : State.memOk s) (x : KMap L2Line) : State.memOk { s with l2 := x } := h
theorem memOk_with_rdc0 {s : State} (h : State.memOk s) (x : KMap RdcLine) : State.memOk { s with rdc0 := x } := h
theorem memOk_with_rdc1 {s : State} (h : State.memOk s) (x : KMap RdcLine) : State.memOk { s with rdc1 := x } := h
theorem memOk_with_stamp {s : State} (h : State.memOk s) (x : Nat) : State.memOk { s with stamp := x } := h
theorem memOk_with_keyTag {s : State} (h : State.memOk s) (x : KMap Nat) : State.memOk { s with keyTag := x } := h
theorem memOk_with_undef {s : State} (h : State.memOk s) (x : List (Nat × Nat × Nat)) : State.memOk { s with undef := x } := h
theorem memOk_with_bad {s : State} (h : State.memOk s) (x : List (Nat × Nat × Nat)) : State.memOk { s with bad := x } := h
theorem memOk_with_hostAtomics {s : State} (h : State.memOk s) (x : Bool) : State.memOk { s with hostAtomics := x } := h
theorem memOk_with_contexts {s : State} (h : State.memOk s) (x : KMap Context) : State.memOk { s with contexts := x } := h
theorem memOk_with_locks {s : State} (h : State.memOk s) (x : KMap LockEntry) : State.memOk { s with locks := x } := h
theorem memOk_with_lockWait {s : State} (h : State.memOk s) (x : List (Nat × Nat × W64 × Nat)) : State.memOk { s with lockWait := x } := h
theorem memOk_with_tlb0 {s : State} (h : State.memOk s) (x : List TlbEntry) : State.memOk { s with tlb0 := x } := h
theorem memOk_with_tlb1 {s : State} (h : State.memOk s) (x : List TlbEntry) : State.memOk { s with tlb1 := x } := h
theorem memOk_with_pri {s : State} (h : State.memOk s) (x : KMap PriReq) : State.memOk { s with pri := x } := h
theorem memOk_with_priDenied {s : State} (h : State.memOk s) (x : List (Waiter × Nat × W32)) : State.memOk { s with priDenied := x } := h
theorem memOk_with_priTries {s : State} (h : State.memOk s) (x : List (Nat × Nat × Nat)) : State.memOk { s with priTries := x } := h
theorem memOk_with_priGranted {s : State} (h : State.memOk s) (x : List (Waiter × Nat)) : State.memOk { s with priGranted := x } := h
theorem memOk_with_ats {s : State} (h : State.memOk s) (x : KMap AtsReq) : State.memOk { s with ats := x } := h
theorem memOk_with_keys {s : State} (h : State.memOk s) (x : KMap KeySlot) : State.memOk { s with keys := x } := h
theorem memOk_with_fab {s : State} (h : State.memOk s) (x : KMap FabReq) : State.memOk { s with fab := x } := h
theorem memOk_with_leases {s : State} (h : State.memOk s) (x : KMap Lease) : State.memOk { s with leases := x } := h
theorem memOk_with_streams {s : State} (h : State.memOk s) (x : KMap Stream) : State.memOk { s with streams := x } := h
theorem memOk_with_frames {s : State} (h : State.memOk s) (x : KMap Frame) : State.memOk { s with frames := x } := h
theorem memOk_with_queues {s : State} (h : State.memOk s) (x : KMap LaunchQ) : State.memOk { s with queues := x } := h
theorem memOk_with_launches {s : State} (h : State.memOk s) (x : KMap Launch) : State.memOk { s with launches := x } := h
theorem memOk_with_nextId {s : State} (h : State.memOk s) (x : Nat) : State.memOk { s with nextId := x } := h
theorem memOk_with_regs {s : State} (h : State.memOk s) (x : Regs) : State.memOk { s with regs := x } := h
theorem memOk_with_invQ {s : State} (h : State.memOk s) (x : List InvCmd) : State.memOk { s with invQ := x } := h
theorem memOk_with_atsInv {s : State} (h : State.memOk s) (x : List InvCmd) : State.memOk { s with atsInv := x } := h
theorem memOk_with_atsDone {s : State} (h : State.memOk s) (x : Nat) : State.memOk { s with atsDone := x } := h
theorem memOk_with_planePort {s : State} (h : State.memOk s) (x : List Nat) : State.memOk { s with planePort := x } := h
theorem memOk_with_planeDrain {s : State} (h : State.memOk s) (x : List Bool) : State.memOk { s with planeDrain := x } := h
theorem memOk_with_planeShared {s : State} (h : State.memOk s) (x : List Bool) : State.memOk { s with planeShared := x } := h
theorem memOk_with_planeNext {s : State} (h : State.memOk s) (x : List (Option Nat)) : State.memOk { s with planeNext := x } := h
theorem memOk_with_portUp {s : State} (h : State.memOk s) (x : BitVec 18) : State.memOk { s with portUp := x } := h
theorem memOk_with_fabricTimeout {s : State} (h : State.memOk s) (x : Nat) : State.memOk { s with fabricTimeout := x } := h
theorem memOk_with_events {s : State} (h : State.memOk s) (x : KMap EventQ) : State.memOk { s with events := x } := h
theorem memOk_with_err {s : State} (h : State.memOk s) (x : ErrBlock) : State.memOk { s with err := x } := h
theorem memOk_with_pcieUp {s : State} (h : State.memOk s) (x : Bool) : State.memOk { s with pcieUp := x } := h
theorem memOk_with_diesStopped {s : State} (h : State.memOk s) (x : Bool) : State.memOk { s with diesStopped := x } := h
theorem memOk_with_devnum {s : State} (h : State.memOk s) (x : W64) : State.memOk { s with devnum := x } := h
theorem memOk_with_correctable {s : State} (h : State.memOk s) (x : List (Nat × Nat × Nat)) : State.memOk { s with correctable := x } := h
theorem memOk_with_clocks {s : State} (h : State.memOk s) (x : KMap Nat) : State.memOk { s with clocks := x } := h
theorem memOk_with_paused {s : State} (h : State.memOk s) (x : KMap Nat) : State.memOk { s with paused := x } := h
theorem memOk_with_gated {s : State} (h : State.memOk s) (x : List Nat) : State.memOk { s with gated := x } := h
theorem memOk_with_dbgHalted {s : State} (h : State.memOk s) (x : List Nat) : State.memOk { s with dbgHalted := x } := h
theorem memOk_with_nguyx {s : State} (h : State.memOk s) (x : KMap NguyxObject) : State.memOk { s with nguyx := x } := h
theorem memOk_with_finalised {s : State} (h : State.memOk s) (x : List (Nat × Nat × Finalised)) : State.memOk { s with finalised := x } := h
theorem memOk_with_fwImage {s : State} (h : State.memOk s) (x : Option (List Byte)) : State.memOk { s with fwImage := x } := h
theorem memOk_with_fwFused {s : State} (h : State.memOk s) (x : Nat) : State.memOk { s with fwFused := x } := h
theorem memOk_with_fwGood {s : State} (h : State.memOk s) (x : Bool) : State.memOk { s with fwGood := x } := h
theorem memOk_with_reply {s : State} (h : State.memOk s) (x : Option Reply) : State.memOk { s with reply := x } := h
theorem memOk_with_cur {s : State} (h : State.memOk s) (x : Nat) : State.memOk { s with cur := x } := h
theorem memOk_with_curLate {s : State} (h : State.memOk s) (x : LaneMask) : State.memOk { s with curLate := x } := h
theorem memOk_with_freeCtr {s : State} (h : State.memOk s) (x : Nat) : State.memOk { s with freeCtr := x } := h
theorem memOk_with_agenda {s : State} (h : State.memOk s) (x : List Turn) : State.memOk { s with agenda := x } := h

theorem memOk_with_hbm {s : State} (h : State.memOk s) (m : List Host.Cell) (hm : Memory.wf m = true) :
    State.memOk { s with hbm := m } := ⟨hm, h.2.1, h.2.2⟩
theorem memOk_with_hostMem {s : State} (h : State.memOk s) (m : List Host.Cell) (hm : Memory.wf m = true) :
    State.memOk { s with hostMem := m } := ⟨h.1, hm, h.2.2⟩
theorem memOk_with_fabMem {s : State} (h : State.memOk s) (m : List Host.Cell) (hm : Memory.wf m = true) :
    State.memOk { s with fabMem := m } := ⟨h.1, h.2.1, hm⟩

end Sys2Proof.Machine
end

