-- ==== Sys2Proof/Laws/State.lean ====
section
/-! SUPPORT. What each small update of the state or of a warp leaves of every field: one lemma per field per update. -/

namespace Sys2Proof.Machine

open Sys2Proof

/-! ## State.setWarp -/

@[simp] theorem State.setWarp_time (s : State) (k : Nat) (w : Warp) : (s.setWarp k w).time = s.time := rfl
@[simp] theorem State.setWarp_warps (s : State) (k : Nat) (w : Warp) : (s.setWarp k w).warps = kput s.warps k w := rfl
@[simp] theorem State.setWarp_teams (s : State) (k : Nat) (w : Warp) : (s.setWarp k w).teams = s.teams := rfl
@[simp] theorem State.setWarp_cores (s : State) (k : Nat) (w : Warp) : (s.setWarp k w).cores = s.cores := rfl
@[simp] theorem State.setWarp_hbm (s : State) (k : Nat) (w : Warp) : (s.setWarp k w).hbm = s.hbm := rfl
@[simp] theorem State.setWarp_l2 (s : State) (k : Nat) (w : Warp) : (s.setWarp k w).l2 = s.l2 := rfl
@[simp] theorem State.setWarp_rdc0 (s : State) (k : Nat) (w : Warp) : (s.setWarp k w).rdc0 = s.rdc0 := rfl
@[simp] theorem State.setWarp_rdc1 (s : State) (k : Nat) (w : Warp) : (s.setWarp k w).rdc1 = s.rdc1 := rfl
@[simp] theorem State.setWarp_stamp (s : State) (k : Nat) (w : Warp) : (s.setWarp k w).stamp = s.stamp := rfl
@[simp] theorem State.setWarp_keyTag (s : State) (k : Nat) (w : Warp) : (s.setWarp k w).keyTag = s.keyTag := rfl
@[simp] theorem State.setWarp_undef (s : State) (k : Nat) (w : Warp) : (s.setWarp k w).undef = s.undef := rfl
@[simp] theorem State.setWarp_bad (s : State) (k : Nat) (w : Warp) : (s.setWarp k w).bad = s.bad := rfl
@[simp] theorem State.setWarp_hostMem (s : State) (k : Nat) (w : Warp) : (s.setWarp k w).hostMem = s.hostMem := rfl
@[simp] theorem State.setWarp_fabMem (s : State) (k : Nat) (w : Warp) : (s.setWarp k w).fabMem = s.fabMem := rfl
@[simp] theorem State.setWarp_hostAtomics (s : State) (k : Nat) (w : Warp) : (s.setWarp k w).hostAtomics = s.hostAtomics := rfl
@[simp] theorem State.setWarp_contexts (s : State) (k : Nat) (w : Warp) : (s.setWarp k w).contexts = s.contexts := rfl
@[simp] theorem State.setWarp_locks (s : State) (k : Nat) (w : Warp) : (s.setWarp k w).locks = s.locks := rfl
@[simp] theorem State.setWarp_lockWait (s : State) (k : Nat) (w : Warp) : (s.setWarp k w).lockWait = s.lockWait := rfl
@[simp] theorem State.setWarp_tlb0 (s : State) (k : Nat) (w : Warp) : (s.setWarp k w).tlb0 = s.tlb0 := rfl
@[simp] theorem State.setWarp_tlb1 (s : State) (k : Nat) (w : Warp) : (s.setWarp k w).tlb1 = s.tlb1 := rfl
@[simp] theorem State.setWarp_pri (s : State) (k : Nat) (w : Warp) : (s.setWarp k w).pri = s.pri := rfl
@[simp] theorem State.setWarp_priDenied (s : State) (k : Nat) (w : Warp) : (s.setWarp k w).priDenied = s.priDenied := rfl
@[simp] theorem State.setWarp_priTries (s : State) (k : Nat) (w : Warp) : (s.setWarp k w).priTries = s.priTries := rfl
@[simp] theorem State.setWarp_priGranted (s : State) (k : Nat) (w : Warp) : (s.setWarp k w).priGranted = s.priGranted := rfl
@[simp] theorem State.setWarp_ats (s : State) (k : Nat) (w : Warp) : (s.setWarp k w).ats = s.ats := rfl
@[simp] theorem State.setWarp_keys (s : State) (k : Nat) (w : Warp) : (s.setWarp k w).keys = s.keys := rfl
@[simp] theorem State.setWarp_fab (s : State) (k : Nat) (w : Warp) : (s.setWarp k w).fab = s.fab := rfl
@[simp] theorem State.setWarp_leases (s : State) (k : Nat) (w : Warp) : (s.setWarp k w).leases = s.leases := rfl
@[simp] theorem State.setWarp_streams (s : State) (k : Nat) (w : Warp) : (s.setWarp k w).streams = s.streams := rfl
@[simp] theorem State.setWarp_frames (s : State) (k : Nat) (w : Warp) : (s.setWarp k w).frames = s.frames := rfl
@[simp] theorem State.setWarp_queues (s : State) (k : Nat) (w : Warp) : (s.setWarp k w).queues = s.queues := rfl
@[simp] theorem State.setWarp_launches (s : State) (k : Nat) (w : Warp) : (s.setWarp k w).launches = s.launches := rfl
@[simp] theorem State.setWarp_nextId (s : State) (k : Nat) (w : Warp) : (s.setWarp k w).nextId = s.nextId := rfl
@[simp] theorem State.setWarp_regs (s : State) (k : Nat) (w : Warp) : (s.setWarp k w).regs = s.regs := rfl
@[simp] theorem State.setWarp_invQ (s : State) (k : Nat) (w : Warp) : (s.setWarp k w).invQ = s.invQ := rfl
@[simp] theorem State.setWarp_atsInv (s : State) (k : Nat) (w : Warp) : (s.setWarp k w).atsInv = s.atsInv := rfl
@[simp] theorem State.setWarp_atsDone (s : State) (k : Nat) (w : Warp) : (s.setWarp k w).atsDone = s.atsDone := rfl
@[simp] theorem State.setWarp_planePort (s : State) (k : Nat) (w : Warp) : (s.setWarp k w).planePort = s.planePort := rfl
@[simp] theorem State.setWarp_planeDrain (s : State) (k : Nat) (w : Warp) : (s.setWarp k w).planeDrain = s.planeDrain := rfl
@[simp] theorem State.setWarp_planeShared (s : State) (k : Nat) (w : Warp) : (s.setWarp k w).planeShared = s.planeShared := rfl
@[simp] theorem State.setWarp_planeNext (s : State) (k : Nat) (w : Warp) : (s.setWarp k w).planeNext = s.planeNext := rfl
@[simp] theorem State.setWarp_portUp (s : State) (k : Nat) (w : Warp) : (s.setWarp k w).portUp = s.portUp := rfl
@[simp] theorem State.setWarp_fabricTimeout (s : State) (k : Nat) (w : Warp) : (s.setWarp k w).fabricTimeout = s.fabricTimeout := rfl
@[simp] theorem State.setWarp_events (s : State) (k : Nat) (w : Warp) : (s.setWarp k w).events = s.events := rfl
@[simp] theorem State.setWarp_err (s : State) (k : Nat) (w : Warp) : (s.setWarp k w).err = s.err := rfl
@[simp] theorem State.setWarp_pcieUp (s : State) (k : Nat) (w : Warp) : (s.setWarp k w).pcieUp = s.pcieUp := rfl
@[simp] theorem State.setWarp_diesStopped (s : State) (k : Nat) (w : Warp) : (s.setWarp k w).diesStopped = s.diesStopped := rfl
@[simp] theorem State.setWarp_devnum (s : State) (k : Nat) (w : Warp) : (s.setWarp k w).devnum = s.devnum := rfl
@[simp] theorem State.setWarp_correctable (s : State) (k : Nat) (w : Warp) : (s.setWarp k w).correctable = s.correctable := rfl
@[simp] theorem State.setWarp_clocks (s : State) (k : Nat) (w : Warp) : (s.setWarp k w).clocks = s.clocks := rfl
@[simp] theorem State.setWarp_paused (s : State) (k : Nat) (w : Warp) : (s.setWarp k w).paused = s.paused := rfl
@[simp] theorem State.setWarp_gated (s : State) (k : Nat) (w : Warp) : (s.setWarp k w).gated = s.gated := rfl
@[simp] theorem State.setWarp_dbgHalted (s : State) (k : Nat) (w : Warp) : (s.setWarp k w).dbgHalted = s.dbgHalted := rfl
@[simp] theorem State.setWarp_nguyx (s : State) (k : Nat) (w : Warp) : (s.setWarp k w).nguyx = s.nguyx := rfl
@[simp] theorem State.setWarp_finalised (s : State) (k : Nat) (w : Warp) : (s.setWarp k w).finalised = s.finalised := rfl
@[simp] theorem State.setWarp_fwImage (s : State) (k : Nat) (w : Warp) : (s.setWarp k w).fwImage = s.fwImage := rfl
@[simp] theorem State.setWarp_fwFused (s : State) (k : Nat) (w : Warp) : (s.setWarp k w).fwFused = s.fwFused := rfl
@[simp] theorem State.setWarp_fwGood (s : State) (k : Nat) (w : Warp) : (s.setWarp k w).fwGood = s.fwGood := rfl
@[simp] theorem State.setWarp_reply (s : State) (k : Nat) (w : Warp) : (s.setWarp k w).reply = s.reply := rfl
@[simp] theorem State.setWarp_cur (s : State) (k : Nat) (w : Warp) : (s.setWarp k w).cur = s.cur := rfl
@[simp] theorem State.setWarp_curLate (s : State) (k : Nat) (w : Warp) : (s.setWarp k w).curLate = s.curLate := rfl
@[simp] theorem State.setWarp_freeCtr (s : State) (k : Nat) (w : Warp) : (s.setWarp k w).freeCtr = s.freeCtr := rfl
@[simp] theorem State.setWarp_agenda (s : State) (k : Nat) (w : Warp) : (s.setWarp k w).agenda = s.agenda := rfl

/-! ## State.setTeam -/

@[simp] theorem State.setTeam_time (s : State) (k : Nat) (t : Team) : (s.setTeam k t).time = s.time := rfl
@[simp] theorem State.setTeam_warps (s : State) (k : Nat) (t : Team) : (s.setTeam k t).warps = s.warps := rfl
@[simp] theorem State.setTeam_teams (s : State) (k : Nat) (t : Team) : (s.setTeam k t).teams = kput s.teams k t := rfl
@[simp] theorem State.setTeam_cores (s : State) (k : Nat) (t : Team) : (s.setTeam k t).cores = s.cores := rfl
@[simp] theorem State.setTeam_hbm (s : State) (k : Nat) (t : Team) : (s.setTeam k t).hbm = s.hbm := rfl
@[simp] theorem State.setTeam_l2 (s : State) (k : Nat) (t : Team) : (s.setTeam k t).l2 = s.l2 := rfl
@[simp] theorem State.setTeam_rdc0 (s : State) (k : Nat) (t : Team) : (s.setTeam k t).rdc0 = s.rdc0 := rfl
@[simp] theorem State.setTeam_rdc1 (s : State) (k : Nat) (t : Team) : (s.setTeam k t).rdc1 = s.rdc1 := rfl
@[simp] theorem State.setTeam_stamp (s : State) (k : Nat) (t : Team) : (s.setTeam k t).stamp = s.stamp := rfl
@[simp] theorem State.setTeam_keyTag (s : State) (k : Nat) (t : Team) : (s.setTeam k t).keyTag = s.keyTag := rfl
@[simp] theorem State.setTeam_undef (s : State) (k : Nat) (t : Team) : (s.setTeam k t).undef = s.undef := rfl
@[simp] theorem State.setTeam_bad (s : State) (k : Nat) (t : Team) : (s.setTeam k t).bad = s.bad := rfl
@[simp] theorem State.setTeam_hostMem (s : State) (k : Nat) (t : Team) : (s.setTeam k t).hostMem = s.hostMem := rfl
@[simp] theorem State.setTeam_fabMem (s : State) (k : Nat) (t : Team) : (s.setTeam k t).fabMem = s.fabMem := rfl
@[simp] theorem State.setTeam_hostAtomics (s : State) (k : Nat) (t : Team) : (s.setTeam k t).hostAtomics = s.hostAtomics := rfl
@[simp] theorem State.setTeam_contexts (s : State) (k : Nat) (t : Team) : (s.setTeam k t).contexts = s.contexts := rfl
@[simp] theorem State.setTeam_locks (s : State) (k : Nat) (t : Team) : (s.setTeam k t).locks = s.locks := rfl
@[simp] theorem State.setTeam_lockWait (s : State) (k : Nat) (t : Team) : (s.setTeam k t).lockWait = s.lockWait := rfl
@[simp] theorem State.setTeam_tlb0 (s : State) (k : Nat) (t : Team) : (s.setTeam k t).tlb0 = s.tlb0 := rfl
@[simp] theorem State.setTeam_tlb1 (s : State) (k : Nat) (t : Team) : (s.setTeam k t).tlb1 = s.tlb1 := rfl
@[simp] theorem State.setTeam_pri (s : State) (k : Nat) (t : Team) : (s.setTeam k t).pri = s.pri := rfl
@[simp] theorem State.setTeam_priDenied (s : State) (k : Nat) (t : Team) : (s.setTeam k t).priDenied = s.priDenied := rfl
@[simp] theorem State.setTeam_priTries (s : State) (k : Nat) (t : Team) : (s.setTeam k t).priTries = s.priTries := rfl
@[simp] theorem State.setTeam_priGranted (s : State) (k : Nat) (t : Team) : (s.setTeam k t).priGranted = s.priGranted := rfl
@[simp] theorem State.setTeam_ats (s : State) (k : Nat) (t : Team) : (s.setTeam k t).ats = s.ats := rfl
@[simp] theorem State.setTeam_keys (s : State) (k : Nat) (t : Team) : (s.setTeam k t).keys = s.keys := rfl
@[simp] theorem State.setTeam_fab (s : State) (k : Nat) (t : Team) : (s.setTeam k t).fab = s.fab := rfl
@[simp] theorem State.setTeam_leases (s : State) (k : Nat) (t : Team) : (s.setTeam k t).leases = s.leases := rfl
@[simp] theorem State.setTeam_streams (s : State) (k : Nat) (t : Team) : (s.setTeam k t).streams = s.streams := rfl
@[simp] theorem State.setTeam_frames (s : State) (k : Nat) (t : Team) : (s.setTeam k t).frames = s.frames := rfl
@[simp] theorem State.setTeam_queues (s : State) (k : Nat) (t : Team) : (s.setTeam k t).queues = s.queues := rfl
@[simp] theorem State.setTeam_launches (s : State) (k : Nat) (t : Team) : (s.setTeam k t).launches = s.launches := rfl
@[simp] theorem State.setTeam_nextId (s : State) (k : Nat) (t : Team) : (s.setTeam k t).nextId = s.nextId := rfl
@[simp] theorem State.setTeam_regs (s : State) (k : Nat) (t : Team) : (s.setTeam k t).regs = s.regs := rfl
@[simp] theorem State.setTeam_invQ (s : State) (k : Nat) (t : Team) : (s.setTeam k t).invQ = s.invQ := rfl
@[simp] theorem State.setTeam_atsInv (s : State) (k : Nat) (t : Team) : (s.setTeam k t).atsInv = s.atsInv := rfl
@[simp] theorem State.setTeam_atsDone (s : State) (k : Nat) (t : Team) : (s.setTeam k t).atsDone = s.atsDone := rfl
@[simp] theorem State.setTeam_planePort (s : State) (k : Nat) (t : Team) : (s.setTeam k t).planePort = s.planePort := rfl
@[simp] theorem State.setTeam_planeDrain (s : State) (k : Nat) (t : Team) : (s.setTeam k t).planeDrain = s.planeDrain := rfl
@[simp] theorem State.setTeam_planeShared (s : State) (k : Nat) (t : Team) : (s.setTeam k t).planeShared = s.planeShared := rfl
@[simp] theorem State.setTeam_planeNext (s : State) (k : Nat) (t : Team) : (s.setTeam k t).planeNext = s.planeNext := rfl
@[simp] theorem State.setTeam_portUp (s : State) (k : Nat) (t : Team) : (s.setTeam k t).portUp = s.portUp := rfl
@[simp] theorem State.setTeam_fabricTimeout (s : State) (k : Nat) (t : Team) : (s.setTeam k t).fabricTimeout = s.fabricTimeout := rfl
@[simp] theorem State.setTeam_events (s : State) (k : Nat) (t : Team) : (s.setTeam k t).events = s.events := rfl
@[simp] theorem State.setTeam_err (s : State) (k : Nat) (t : Team) : (s.setTeam k t).err = s.err := rfl
@[simp] theorem State.setTeam_pcieUp (s : State) (k : Nat) (t : Team) : (s.setTeam k t).pcieUp = s.pcieUp := rfl
@[simp] theorem State.setTeam_diesStopped (s : State) (k : Nat) (t : Team) : (s.setTeam k t).diesStopped = s.diesStopped := rfl
@[simp] theorem State.setTeam_devnum (s : State) (k : Nat) (t : Team) : (s.setTeam k t).devnum = s.devnum := rfl
@[simp] theorem State.setTeam_correctable (s : State) (k : Nat) (t : Team) : (s.setTeam k t).correctable = s.correctable := rfl
@[simp] theorem State.setTeam_clocks (s : State) (k : Nat) (t : Team) : (s.setTeam k t).clocks = s.clocks := rfl
@[simp] theorem State.setTeam_paused (s : State) (k : Nat) (t : Team) : (s.setTeam k t).paused = s.paused := rfl
@[simp] theorem State.setTeam_gated (s : State) (k : Nat) (t : Team) : (s.setTeam k t).gated = s.gated := rfl
@[simp] theorem State.setTeam_dbgHalted (s : State) (k : Nat) (t : Team) : (s.setTeam k t).dbgHalted = s.dbgHalted := rfl
@[simp] theorem State.setTeam_nguyx (s : State) (k : Nat) (t : Team) : (s.setTeam k t).nguyx = s.nguyx := rfl
@[simp] theorem State.setTeam_finalised (s : State) (k : Nat) (t : Team) : (s.setTeam k t).finalised = s.finalised := rfl
@[simp] theorem State.setTeam_fwImage (s : State) (k : Nat) (t : Team) : (s.setTeam k t).fwImage = s.fwImage := rfl
@[simp] theorem State.setTeam_fwFused (s : State) (k : Nat) (t : Team) : (s.setTeam k t).fwFused = s.fwFused := rfl
@[simp] theorem State.setTeam_fwGood (s : State) (k : Nat) (t : Team) : (s.setTeam k t).fwGood = s.fwGood := rfl
@[simp] theorem State.setTeam_reply (s : State) (k : Nat) (t : Team) : (s.setTeam k t).reply = s.reply := rfl
@[simp] theorem State.setTeam_cur (s : State) (k : Nat) (t : Team) : (s.setTeam k t).cur = s.cur := rfl
@[simp] theorem State.setTeam_curLate (s : State) (k : Nat) (t : Team) : (s.setTeam k t).curLate = s.curLate := rfl
@[simp] theorem State.setTeam_freeCtr (s : State) (k : Nat) (t : Team) : (s.setTeam k t).freeCtr = s.freeCtr := rfl
@[simp] theorem State.setTeam_agenda (s : State) (k : Nat) (t : Team) : (s.setTeam k t).agenda = s.agenda := rfl

/-! ## State.setCore -/

@[simp] theorem State.setCore_time (s : State) (c : Nat) (x : Core) : (s.setCore c x).time = s.time := rfl
@[simp] theorem State.setCore_warps (s : State) (c : Nat) (x : Core) : (s.setCore c x).warps = s.warps := rfl
@[simp] theorem State.setCore_teams (s : State) (c : Nat) (x : Core) : (s.setCore c x).teams = s.teams := rfl
@[simp] theorem State.setCore_cores (s : State) (c : Nat) (x : Core) : (s.setCore c x).cores = kput s.cores c x := rfl
@[simp] theorem State.setCore_hbm (s : State) (c : Nat) (x : Core) : (s.setCore c x).hbm = s.hbm := rfl
@[simp] theorem State.setCore_l2 (s : State) (c : Nat) (x : Core) : (s.setCore c x).l2 = s.l2 := rfl
@[simp] theorem State.setCore_rdc0 (s : State) (c : Nat) (x : Core) : (s.setCore c x).rdc0 = s.rdc0 := rfl
@[simp] theorem State.setCore_rdc1 (s : State) (c : Nat) (x : Core) : (s.setCore c x).rdc1 = s.rdc1 := rfl
@[simp] theorem State.setCore_stamp (s : State) (c : Nat) (x : Core) : (s.setCore c x).stamp = s.stamp := rfl
@[simp] theorem State.setCore_keyTag (s : State) (c : Nat) (x : Core) : (s.setCore c x).keyTag = s.keyTag := rfl
@[simp] theorem State.setCore_undef (s : State) (c : Nat) (x : Core) : (s.setCore c x).undef = s.undef := rfl
@[simp] theorem State.setCore_bad (s : State) (c : Nat) (x : Core) : (s.setCore c x).bad = s.bad := rfl
@[simp] theorem State.setCore_hostMem (s : State) (c : Nat) (x : Core) : (s.setCore c x).hostMem = s.hostMem := rfl
@[simp] theorem State.setCore_fabMem (s : State) (c : Nat) (x : Core) : (s.setCore c x).fabMem = s.fabMem := rfl
@[simp] theorem State.setCore_hostAtomics (s : State) (c : Nat) (x : Core) : (s.setCore c x).hostAtomics = s.hostAtomics := rfl
@[simp] theorem State.setCore_contexts (s : State) (c : Nat) (x : Core) : (s.setCore c x).contexts = s.contexts := rfl
@[simp] theorem State.setCore_locks (s : State) (c : Nat) (x : Core) : (s.setCore c x).locks = s.locks := rfl
@[simp] theorem State.setCore_lockWait (s : State) (c : Nat) (x : Core) : (s.setCore c x).lockWait = s.lockWait := rfl
@[simp] theorem State.setCore_tlb0 (s : State) (c : Nat) (x : Core) : (s.setCore c x).tlb0 = s.tlb0 := rfl
@[simp] theorem State.setCore_tlb1 (s : State) (c : Nat) (x : Core) : (s.setCore c x).tlb1 = s.tlb1 := rfl
@[simp] theorem State.setCore_pri (s : State) (c : Nat) (x : Core) : (s.setCore c x).pri = s.pri := rfl
@[simp] theorem State.setCore_priDenied (s : State) (c : Nat) (x : Core) : (s.setCore c x).priDenied = s.priDenied := rfl
@[simp] theorem State.setCore_priTries (s : State) (c : Nat) (x : Core) : (s.setCore c x).priTries = s.priTries := rfl
@[simp] theorem State.setCore_priGranted (s : State) (c : Nat) (x : Core) : (s.setCore c x).priGranted = s.priGranted := rfl
@[simp] theorem State.setCore_ats (s : State) (c : Nat) (x : Core) : (s.setCore c x).ats = s.ats := rfl
@[simp] theorem State.setCore_keys (s : State) (c : Nat) (x : Core) : (s.setCore c x).keys = s.keys := rfl
@[simp] theorem State.setCore_fab (s : State) (c : Nat) (x : Core) : (s.setCore c x).fab = s.fab := rfl
@[simp] theorem State.setCore_leases (s : State) (c : Nat) (x : Core) : (s.setCore c x).leases = s.leases := rfl
@[simp] theorem State.setCore_streams (s : State) (c : Nat) (x : Core) : (s.setCore c x).streams = s.streams := rfl
@[simp] theorem State.setCore_frames (s : State) (c : Nat) (x : Core) : (s.setCore c x).frames = s.frames := rfl
@[simp] theorem State.setCore_queues (s : State) (c : Nat) (x : Core) : (s.setCore c x).queues = s.queues := rfl
@[simp] theorem State.setCore_launches (s : State) (c : Nat) (x : Core) : (s.setCore c x).launches = s.launches := rfl
@[simp] theorem State.setCore_nextId (s : State) (c : Nat) (x : Core) : (s.setCore c x).nextId = s.nextId := rfl
@[simp] theorem State.setCore_regs (s : State) (c : Nat) (x : Core) : (s.setCore c x).regs = s.regs := rfl
@[simp] theorem State.setCore_invQ (s : State) (c : Nat) (x : Core) : (s.setCore c x).invQ = s.invQ := rfl
@[simp] theorem State.setCore_atsInv (s : State) (c : Nat) (x : Core) : (s.setCore c x).atsInv = s.atsInv := rfl
@[simp] theorem State.setCore_atsDone (s : State) (c : Nat) (x : Core) : (s.setCore c x).atsDone = s.atsDone := rfl
@[simp] theorem State.setCore_planePort (s : State) (c : Nat) (x : Core) : (s.setCore c x).planePort = s.planePort := rfl
@[simp] theorem State.setCore_planeDrain (s : State) (c : Nat) (x : Core) : (s.setCore c x).planeDrain = s.planeDrain := rfl
@[simp] theorem State.setCore_planeShared (s : State) (c : Nat) (x : Core) : (s.setCore c x).planeShared = s.planeShared := rfl
@[simp] theorem State.setCore_planeNext (s : State) (c : Nat) (x : Core) : (s.setCore c x).planeNext = s.planeNext := rfl
@[simp] theorem State.setCore_portUp (s : State) (c : Nat) (x : Core) : (s.setCore c x).portUp = s.portUp := rfl
@[simp] theorem State.setCore_fabricTimeout (s : State) (c : Nat) (x : Core) : (s.setCore c x).fabricTimeout = s.fabricTimeout := rfl
@[simp] theorem State.setCore_events (s : State) (c : Nat) (x : Core) : (s.setCore c x).events = s.events := rfl
@[simp] theorem State.setCore_err (s : State) (c : Nat) (x : Core) : (s.setCore c x).err = s.err := rfl
@[simp] theorem State.setCore_pcieUp (s : State) (c : Nat) (x : Core) : (s.setCore c x).pcieUp = s.pcieUp := rfl
@[simp] theorem State.setCore_diesStopped (s : State) (c : Nat) (x : Core) : (s.setCore c x).diesStopped = s.diesStopped := rfl
@[simp] theorem State.setCore_devnum (s : State) (c : Nat) (x : Core) : (s.setCore c x).devnum = s.devnum := rfl
@[simp] theorem State.setCore_correctable (s : State) (c : Nat) (x : Core) : (s.setCore c x).correctable = s.correctable := rfl
@[simp] theorem State.setCore_clocks (s : State) (c : Nat) (x : Core) : (s.setCore c x).clocks = s.clocks := rfl
@[simp] theorem State.setCore_paused (s : State) (c : Nat) (x : Core) : (s.setCore c x).paused = s.paused := rfl
@[simp] theorem State.setCore_gated (s : State) (c : Nat) (x : Core) : (s.setCore c x).gated = s.gated := rfl
@[simp] theorem State.setCore_dbgHalted (s : State) (c : Nat) (x : Core) : (s.setCore c x).dbgHalted = s.dbgHalted := rfl
@[simp] theorem State.setCore_nguyx (s : State) (c : Nat) (x : Core) : (s.setCore c x).nguyx = s.nguyx := rfl
@[simp] theorem State.setCore_finalised (s : State) (c : Nat) (x : Core) : (s.setCore c x).finalised = s.finalised := rfl
@[simp] theorem State.setCore_fwImage (s : State) (c : Nat) (x : Core) : (s.setCore c x).fwImage = s.fwImage := rfl
@[simp] theorem State.setCore_fwFused (s : State) (c : Nat) (x : Core) : (s.setCore c x).fwFused = s.fwFused := rfl
@[simp] theorem State.setCore_fwGood (s : State) (c : Nat) (x : Core) : (s.setCore c x).fwGood = s.fwGood := rfl
@[simp] theorem State.setCore_reply (s : State) (c : Nat) (x : Core) : (s.setCore c x).reply = s.reply := rfl
@[simp] theorem State.setCore_cur (s : State) (c : Nat) (x : Core) : (s.setCore c x).cur = s.cur := rfl
@[simp] theorem State.setCore_curLate (s : State) (c : Nat) (x : Core) : (s.setCore c x).curLate = s.curLate := rfl
@[simp] theorem State.setCore_freeCtr (s : State) (c : Nat) (x : Core) : (s.setCore c x).freeCtr = s.freeCtr := rfl
@[simp] theorem State.setCore_agenda (s : State) (c : Nat) (x : Core) : (s.setCore c x).agenda = s.agenda := rfl

/-! ## State.tick -/

@[simp] theorem State.tick_time (s : State) : s.tick.time = s.time := rfl
@[simp] theorem State.tick_warps (s : State) : s.tick.warps = s.warps := rfl
@[simp] theorem State.tick_teams (s : State) : s.tick.teams = s.teams := rfl
@[simp] theorem State.tick_cores (s : State) : s.tick.cores = s.cores := rfl
@[simp] theorem State.tick_hbm (s : State) : s.tick.hbm = s.hbm := rfl
@[simp] theorem State.tick_l2 (s : State) : s.tick.l2 = s.l2 := rfl
@[simp] theorem State.tick_rdc0 (s : State) : s.tick.rdc0 = s.rdc0 := rfl
@[simp] theorem State.tick_rdc1 (s : State) : s.tick.rdc1 = s.rdc1 := rfl
@[simp] theorem State.tick_stamp (s : State) : s.tick.stamp = s.stamp + 1 := rfl
@[simp] theorem State.tick_keyTag (s : State) : s.tick.keyTag = s.keyTag := rfl
@[simp] theorem State.tick_undef (s : State) : s.tick.undef = s.undef := rfl
@[simp] theorem State.tick_bad (s : State) : s.tick.bad = s.bad := rfl
@[simp] theorem State.tick_hostMem (s : State) : s.tick.hostMem = s.hostMem := rfl
@[simp] theorem State.tick_fabMem (s : State) : s.tick.fabMem = s.fabMem := rfl
@[simp] theorem State.tick_hostAtomics (s : State) : s.tick.hostAtomics = s.hostAtomics := rfl
@[simp] theorem State.tick_contexts (s : State) : s.tick.contexts = s.contexts := rfl
@[simp] theorem State.tick_locks (s : State) : s.tick.locks = s.locks := rfl
@[simp] theorem State.tick_lockWait (s : State) : s.tick.lockWait = s.lockWait := rfl
@[simp] theorem State.tick_tlb0 (s : State) : s.tick.tlb0 = s.tlb0 := rfl
@[simp] theorem State.tick_tlb1 (s : State) : s.tick.tlb1 = s.tlb1 := rfl
@[simp] theorem State.tick_pri (s : State) : s.tick.pri = s.pri := rfl
@[simp] theorem State.tick_priDenied (s : State) : s.tick.priDenied = s.priDenied := rfl
@[simp] theorem State.tick_priTries (s : State) : s.tick.priTries = s.priTries := rfl
@[simp] theorem State.tick_priGranted (s : State) : s.tick.priGranted = s.priGranted := rfl
@[simp] theorem State.tick_ats (s : State) : s.tick.ats = s.ats := rfl
@[simp] theorem State.tick_keys (s : State) : s.tick.keys = s.keys := rfl
@[simp] theorem State.tick_fab (s : State) : s.tick.fab = s.fab := rfl
@[simp] theorem State.tick_leases (s : State) : s.tick.leases = s.leases := rfl
@[simp] theorem State.tick_streams (s : State) : s.tick.streams = s.streams := rfl
@[simp] theorem State.tick_frames (s : State) : s.tick.frames = s.frames := rfl
@[simp] theorem State.tick_queues (s : State) : s.tick.queues = s.queues := rfl
@[simp] theorem State.tick_launches (s : State) : s.tick.launches = s.launches := rfl
@[simp] theorem State.tick_nextId (s : State) : s.tick.nextId = s.nextId := rfl
@[simp] theorem State.tick_regs (s : State) : s.tick.regs = s.regs := rfl
@[simp] theorem State.tick_invQ (s : State) : s.tick.invQ = s.invQ := rfl
@[simp] theorem State.tick_atsInv (s : State) : s.tick.atsInv = s.atsInv := rfl
@[simp] theorem State.tick_atsDone (s : State) : s.tick.atsDone = s.atsDone := rfl
@[simp] theorem State.tick_planePort (s : State) : s.tick.planePort = s.planePort := rfl
@[simp] theorem State.tick_planeDrain (s : State) : s.tick.planeDrain = s.planeDrain := rfl
@[simp] theorem State.tick_planeShared (s : State) : s.tick.planeShared = s.planeShared := rfl
@[simp] theorem State.tick_planeNext (s : State) : s.tick.planeNext = s.planeNext := rfl
@[simp] theorem State.tick_portUp (s : State) : s.tick.portUp = s.portUp := rfl
@[simp] theorem State.tick_fabricTimeout (s : State) : s.tick.fabricTimeout = s.fabricTimeout := rfl
@[simp] theorem State.tick_events (s : State) : s.tick.events = s.events := rfl
@[simp] theorem State.tick_err (s : State) : s.tick.err = s.err := rfl
@[simp] theorem State.tick_pcieUp (s : State) : s.tick.pcieUp = s.pcieUp := rfl
@[simp] theorem State.tick_diesStopped (s : State) : s.tick.diesStopped = s.diesStopped := rfl
@[simp] theorem State.tick_devnum (s : State) : s.tick.devnum = s.devnum := rfl
@[simp] theorem State.tick_correctable (s : State) : s.tick.correctable = s.correctable := rfl
@[simp] theorem State.tick_clocks (s : State) : s.tick.clocks = s.clocks := rfl
@[simp] theorem State.tick_paused (s : State) : s.tick.paused = s.paused := rfl
@[simp] theorem State.tick_gated (s : State) : s.tick.gated = s.gated := rfl
@[simp] theorem State.tick_dbgHalted (s : State) : s.tick.dbgHalted = s.dbgHalted := rfl
@[simp] theorem State.tick_nguyx (s : State) : s.tick.nguyx = s.nguyx := rfl
@[simp] theorem State.tick_finalised (s : State) : s.tick.finalised = s.finalised := rfl
@[simp] theorem State.tick_fwImage (s : State) : s.tick.fwImage = s.fwImage := rfl
@[simp] theorem State.tick_fwFused (s : State) : s.tick.fwFused = s.fwFused := rfl
@[simp] theorem State.tick_fwGood (s : State) : s.tick.fwGood = s.fwGood := rfl
@[simp] theorem State.tick_reply (s : State) : s.tick.reply = s.reply := rfl
@[simp] theorem State.tick_cur (s : State) : s.tick.cur = s.cur := rfl
@[simp] theorem State.tick_curLate (s : State) : s.tick.curLate = s.curLate := rfl
@[simp] theorem State.tick_freeCtr (s : State) : s.tick.freeCtr = s.freeCtr := rfl
@[simp] theorem State.tick_agenda (s : State) : s.tick.agenda = s.agenda := rfl

/-! ## State.advance -/

@[simp] theorem State.advance_time (s : State) (dt : Nat) : (s.advance dt).time = s.time + BitVec.ofNat 64 dt := rfl
@[simp] theorem State.advance_warps (s : State) (dt : Nat) : (s.advance dt).warps = s.warps := rfl
@[simp] theorem State.advance_teams (s : State) (dt : Nat) : (s.advance dt).teams = s.teams := rfl
@[simp] theorem State.advance_cores (s : State) (dt : Nat) : (s.advance dt).cores = s.cores := rfl
@[simp] theorem State.advance_hbm (s : State) (dt : Nat) : (s.advance dt).hbm = s.hbm := rfl
@[simp] theorem State.advance_l2 (s : State) (dt : Nat) : (s.advance dt).l2 = s.l2 := rfl
@[simp] theorem State.advance_rdc0 (s : State) (dt : Nat) : (s.advance dt).rdc0 = s.rdc0 := rfl
@[simp] theorem State.advance_rdc1 (s : State) (dt : Nat) : (s.advance dt).rdc1 = s.rdc1 := rfl
@[simp] theorem State.advance_stamp (s : State) (dt : Nat) : (s.advance dt).stamp = s.stamp := rfl
@[simp] theorem State.advance_keyTag (s : State) (dt : Nat) : (s.advance dt).keyTag = s.keyTag := rfl
@[simp] theorem State.advance_undef (s : State) (dt : Nat) : (s.advance dt).undef = s.undef := rfl
@[simp] theorem State.advance_bad (s : State) (dt : Nat) : (s.advance dt).bad = s.bad := rfl
@[simp] theorem State.advance_hostMem (s : State) (dt : Nat) : (s.advance dt).hostMem = s.hostMem := rfl
@[simp] theorem State.advance_fabMem (s : State) (dt : Nat) : (s.advance dt).fabMem = s.fabMem := rfl
@[simp] theorem State.advance_hostAtomics (s : State) (dt : Nat) : (s.advance dt).hostAtomics = s.hostAtomics := rfl
@[simp] theorem State.advance_contexts (s : State) (dt : Nat) : (s.advance dt).contexts = s.contexts := rfl
@[simp] theorem State.advance_locks (s : State) (dt : Nat) : (s.advance dt).locks = s.locks := rfl
@[simp] theorem State.advance_lockWait (s : State) (dt : Nat) : (s.advance dt).lockWait = s.lockWait := rfl
@[simp] theorem State.advance_tlb0 (s : State) (dt : Nat) : (s.advance dt).tlb0 = s.tlb0 := rfl
@[simp] theorem State.advance_tlb1 (s : State) (dt : Nat) : (s.advance dt).tlb1 = s.tlb1 := rfl
@[simp] theorem State.advance_pri (s : State) (dt : Nat) : (s.advance dt).pri = s.pri := rfl
@[simp] theorem State.advance_priDenied (s : State) (dt : Nat) : (s.advance dt).priDenied = s.priDenied := rfl
@[simp] theorem State.advance_priTries (s : State) (dt : Nat) : (s.advance dt).priTries = s.priTries := rfl
@[simp] theorem State.advance_priGranted (s : State) (dt : Nat) : (s.advance dt).priGranted = s.priGranted := rfl
@[simp] theorem State.advance_ats (s : State) (dt : Nat) : (s.advance dt).ats = s.ats := rfl
@[simp] theorem State.advance_keys (s : State) (dt : Nat) : (s.advance dt).keys = s.keys := rfl
@[simp] theorem State.advance_fab (s : State) (dt : Nat) : (s.advance dt).fab = s.fab := rfl
@[simp] theorem State.advance_leases (s : State) (dt : Nat) : (s.advance dt).leases = s.leases := rfl
@[simp] theorem State.advance_streams (s : State) (dt : Nat) : (s.advance dt).streams = s.streams := rfl
@[simp] theorem State.advance_frames (s : State) (dt : Nat) : (s.advance dt).frames = s.frames := rfl
@[simp] theorem State.advance_queues (s : State) (dt : Nat) : (s.advance dt).queues = s.queues := rfl
@[simp] theorem State.advance_launches (s : State) (dt : Nat) : (s.advance dt).launches = s.launches := rfl
@[simp] theorem State.advance_nextId (s : State) (dt : Nat) : (s.advance dt).nextId = s.nextId := rfl
@[simp] theorem State.advance_regs (s : State) (dt : Nat) : (s.advance dt).regs = s.regs := rfl
@[simp] theorem State.advance_invQ (s : State) (dt : Nat) : (s.advance dt).invQ = s.invQ := rfl
@[simp] theorem State.advance_atsInv (s : State) (dt : Nat) : (s.advance dt).atsInv = s.atsInv := rfl
@[simp] theorem State.advance_atsDone (s : State) (dt : Nat) : (s.advance dt).atsDone = s.atsDone := rfl
@[simp] theorem State.advance_planePort (s : State) (dt : Nat) : (s.advance dt).planePort = s.planePort := rfl
@[simp] theorem State.advance_planeDrain (s : State) (dt : Nat) : (s.advance dt).planeDrain = s.planeDrain := rfl
@[simp] theorem State.advance_planeShared (s : State) (dt : Nat) : (s.advance dt).planeShared = s.planeShared := rfl
@[simp] theorem State.advance_planeNext (s : State) (dt : Nat) : (s.advance dt).planeNext = s.planeNext := rfl
@[simp] theorem State.advance_portUp (s : State) (dt : Nat) : (s.advance dt).portUp = s.portUp := rfl
@[simp] theorem State.advance_fabricTimeout (s : State) (dt : Nat) : (s.advance dt).fabricTimeout = s.fabricTimeout := rfl
@[simp] theorem State.advance_events (s : State) (dt : Nat) : (s.advance dt).events = s.events := rfl
@[simp] theorem State.advance_err (s : State) (dt : Nat) : (s.advance dt).err = s.err := rfl
@[simp] theorem State.advance_pcieUp (s : State) (dt : Nat) : (s.advance dt).pcieUp = s.pcieUp := rfl
@[simp] theorem State.advance_diesStopped (s : State) (dt : Nat) : (s.advance dt).diesStopped = s.diesStopped := rfl
@[simp] theorem State.advance_devnum (s : State) (dt : Nat) : (s.advance dt).devnum = s.devnum := rfl
@[simp] theorem State.advance_correctable (s : State) (dt : Nat) : (s.advance dt).correctable = s.correctable := rfl
@[simp] theorem State.advance_clocks (s : State) (dt : Nat) : (s.advance dt).clocks = s.clocks := rfl
@[simp] theorem State.advance_paused (s : State) (dt : Nat) : (s.advance dt).paused = s.paused := rfl
@[simp] theorem State.advance_gated (s : State) (dt : Nat) : (s.advance dt).gated = s.gated := rfl
@[simp] theorem State.advance_dbgHalted (s : State) (dt : Nat) : (s.advance dt).dbgHalted = s.dbgHalted := rfl
@[simp] theorem State.advance_nguyx (s : State) (dt : Nat) : (s.advance dt).nguyx = s.nguyx := rfl
@[simp] theorem State.advance_finalised (s : State) (dt : Nat) : (s.advance dt).finalised = s.finalised := rfl
@[simp] theorem State.advance_fwImage (s : State) (dt : Nat) : (s.advance dt).fwImage = s.fwImage := rfl
@[simp] theorem State.advance_fwFused (s : State) (dt : Nat) : (s.advance dt).fwFused = s.fwFused := rfl
@[simp] theorem State.advance_fwGood (s : State) (dt : Nat) : (s.advance dt).fwGood = s.fwGood := rfl
@[simp] theorem State.advance_reply (s : State) (dt : Nat) : (s.advance dt).reply = s.reply := rfl
@[simp] theorem State.advance_cur (s : State) (dt : Nat) : (s.advance dt).cur = s.cur := rfl
@[simp] theorem State.advance_curLate (s : State) (dt : Nat) : (s.advance dt).curLate = s.curLate := rfl
@[simp] theorem State.advance_freeCtr (s : State) (dt : Nat) : (s.advance dt).freeCtr = s.freeCtr := rfl
@[simp] theorem State.advance_agenda (s : State) (dt : Nat) : (s.advance dt).agenda = s.agenda := rfl

/-! ## State.modRegs -/

@[simp] theorem State.modRegs_time (s : State) (f : Regs → Regs) : (s.modRegs f).time = s.time := rfl
@[simp] theorem State.modRegs_warps (s : State) (f : Regs → Regs) : (s.modRegs f).warps = s.warps := rfl
@[simp] theorem State.modRegs_teams (s : State) (f : Regs → Regs) : (s.modRegs f).teams = s.teams := rfl
@[simp] theorem State.modRegs_cores (s : State) (f : Regs → Regs) : (s.modRegs f).cores = s.cores := rfl
@[simp] theorem State.modRegs_hbm (s : State) (f : Regs → Regs) : (s.modRegs f).hbm = s.hbm := rfl
@[simp] theorem State.modRegs_l2 (s : State) (f : Regs → Regs) : (s.modRegs f).l2 = s.l2 := rfl
@[simp] theorem State.modRegs_rdc0 (s : State) (f : Regs → Regs) : (s.modRegs f).rdc0 = s.rdc0 := rfl
@[simp] theorem State.modRegs_rdc1 (s : State) (f : Regs → Regs) : (s.modRegs f).rdc1 = s.rdc1 := rfl
@[simp] theorem State.modRegs_stamp (s : State) (f : Regs → Regs) : (s.modRegs f).stamp = s.stamp := rfl
@[simp] theorem State.modRegs_keyTag (s : State) (f : Regs → Regs) : (s.modRegs f).keyTag = s.keyTag := rfl
@[simp] theorem State.modRegs_undef (s : State) (f : Regs → Regs) : (s.modRegs f).undef = s.undef := rfl
@[simp] theorem State.modRegs_bad (s : State) (f : Regs → Regs) : (s.modRegs f).bad = s.bad := rfl
@[simp] theorem State.modRegs_hostMem (s : State) (f : Regs → Regs) : (s.modRegs f).hostMem = s.hostMem := rfl
@[simp] theorem State.modRegs_fabMem (s : State) (f : Regs → Regs) : (s.modRegs f).fabMem = s.fabMem := rfl
@[simp] theorem State.modRegs_hostAtomics (s : State) (f : Regs → Regs) : (s.modRegs f).hostAtomics = s.hostAtomics := rfl
@[simp] theorem State.modRegs_contexts (s : State) (f : Regs → Regs) : (s.modRegs f).contexts = s.contexts := rfl
@[simp] theorem State.modRegs_locks (s : State) (f : Regs → Regs) : (s.modRegs f).locks = s.locks := rfl
@[simp] theorem State.modRegs_lockWait (s : State) (f : Regs → Regs) : (s.modRegs f).lockWait = s.lockWait := rfl
@[simp] theorem State.modRegs_tlb0 (s : State) (f : Regs → Regs) : (s.modRegs f).tlb0 = s.tlb0 := rfl
@[simp] theorem State.modRegs_tlb1 (s : State) (f : Regs → Regs) : (s.modRegs f).tlb1 = s.tlb1 := rfl
@[simp] theorem State.modRegs_pri (s : State) (f : Regs → Regs) : (s.modRegs f).pri = s.pri := rfl
@[simp] theorem State.modRegs_priDenied (s : State) (f : Regs → Regs) : (s.modRegs f).priDenied = s.priDenied := rfl
@[simp] theorem State.modRegs_priTries (s : State) (f : Regs → Regs) : (s.modRegs f).priTries = s.priTries := rfl
@[simp] theorem State.modRegs_priGranted (s : State) (f : Regs → Regs) : (s.modRegs f).priGranted = s.priGranted := rfl
@[simp] theorem State.modRegs_ats (s : State) (f : Regs → Regs) : (s.modRegs f).ats = s.ats := rfl
@[simp] theorem State.modRegs_keys (s : State) (f : Regs → Regs) : (s.modRegs f).keys = s.keys := rfl
@[simp] theorem State.modRegs_fab (s : State) (f : Regs → Regs) : (s.modRegs f).fab = s.fab := rfl
@[simp] theorem State.modRegs_leases (s : State) (f : Regs → Regs) : (s.modRegs f).leases = s.leases := rfl
@[simp] theorem State.modRegs_streams (s : State) (f : Regs → Regs) : (s.modRegs f).streams = s.streams := rfl
@[simp] theorem State.modRegs_frames (s : State) (f : Regs → Regs) : (s.modRegs f).frames = s.frames := rfl
@[simp] theorem State.modRegs_queues (s : State) (f : Regs → Regs) : (s.modRegs f).queues = s.queues := rfl
@[simp] theorem State.modRegs_launches (s : State) (f : Regs → Regs) : (s.modRegs f).launches = s.launches := rfl
@[simp] theorem State.modRegs_nextId (s : State) (f : Regs → Regs) : (s.modRegs f).nextId = s.nextId := rfl
@[simp] theorem State.modRegs_regs (s : State) (f : Regs → Regs) : (s.modRegs f).regs = f s.regs := rfl
@[simp] theorem State.modRegs_invQ (s : State) (f : Regs → Regs) : (s.modRegs f).invQ = s.invQ := rfl
@[simp] theorem State.modRegs_atsInv (s : State) (f : Regs → Regs) : (s.modRegs f).atsInv = s.atsInv := rfl
@[simp] theorem State.modRegs_atsDone (s : State) (f : Regs → Regs) : (s.modRegs f).atsDone = s.atsDone := rfl
@[simp] theorem State.modRegs_planePort (s : State) (f : Regs → Regs) : (s.modRegs f).planePort = s.planePort := rfl
@[simp] theorem State.modRegs_planeDrain (s : State) (f : Regs → Regs) : (s.modRegs f).planeDrain = s.planeDrain := rfl
@[simp] theorem State.modRegs_planeShared (s : State) (f : Regs → Regs) : (s.modRegs f).planeShared = s.planeShared := rfl
@[simp] theorem State.modRegs_planeNext (s : State) (f : Regs → Regs) : (s.modRegs f).planeNext = s.planeNext := rfl
@[simp] theorem State.modRegs_portUp (s : State) (f : Regs → Regs) : (s.modRegs f).portUp = s.portUp := rfl
@[simp] theorem State.modRegs_fabricTimeout (s : State) (f : Regs → Regs) : (s.modRegs f).fabricTimeout = s.fabricTimeout := rfl
@[simp] theorem State.modRegs_events (s : State) (f : Regs → Regs) : (s.modRegs f).events = s.events := rfl
@[simp] theorem State.modRegs_err (s : State) (f : Regs → Regs) : (s.modRegs f).err = s.err := rfl
@[simp] theorem State.modRegs_pcieUp (s : State) (f : Regs → Regs) : (s.modRegs f).pcieUp = s.pcieUp := rfl
@[simp] theorem State.modRegs_diesStopped (s : State) (f : Regs → Regs) : (s.modRegs f).diesStopped = s.diesStopped := rfl
@[simp] theorem State.modRegs_devnum (s : State) (f : Regs → Regs) : (s.modRegs f).devnum = s.devnum := rfl
@[simp] theorem State.modRegs_correctable (s : State) (f : Regs → Regs) : (s.modRegs f).correctable = s.correctable := rfl
@[simp] theorem State.modRegs_clocks (s : State) (f : Regs → Regs) : (s.modRegs f).clocks = s.clocks := rfl
@[simp] theorem State.modRegs_paused (s : State) (f : Regs → Regs) : (s.modRegs f).paused = s.paused := rfl
@[simp] theorem State.modRegs_gated (s : State) (f : Regs → Regs) : (s.modRegs f).gated = s.gated := rfl
@[simp] theorem State.modRegs_dbgHalted (s : State) (f : Regs → Regs) : (s.modRegs f).dbgHalted = s.dbgHalted := rfl
@[simp] theorem State.modRegs_nguyx (s : State) (f : Regs → Regs) : (s.modRegs f).nguyx = s.nguyx := rfl
@[simp] theorem State.modRegs_finalised (s : State) (f : Regs → Regs) : (s.modRegs f).finalised = s.finalised := rfl
@[simp] theorem State.modRegs_fwImage (s : State) (f : Regs → Regs) : (s.modRegs f).fwImage = s.fwImage := rfl
@[simp] theorem State.modRegs_fwFused (s : State) (f : Regs → Regs) : (s.modRegs f).fwFused = s.fwFused := rfl
@[simp] theorem State.modRegs_fwGood (s : State) (f : Regs → Regs) : (s.modRegs f).fwGood = s.fwGood := rfl
@[simp] theorem State.modRegs_reply (s : State) (f : Regs → Regs) : (s.modRegs f).reply = s.reply := rfl
@[simp] theorem State.modRegs_cur (s : State) (f : Regs → Regs) : (s.modRegs f).cur = s.cur := rfl
@[simp] theorem State.modRegs_curLate (s : State) (f : Regs → Regs) : (s.modRegs f).curLate = s.curLate := rfl
@[simp] theorem State.modRegs_freeCtr (s : State) (f : Regs → Regs) : (s.modRegs f).freeCtr = s.freeCtr := rfl
@[simp] theorem State.modRegs_agenda (s : State) (f : Regs → Regs) : (s.modRegs f).agenda = s.agenda := rfl

/-! ## State.modCtx -/

@[simp] theorem State.modCtx_time (s : State) (n : Nat) (f : Context → Context) : (s.modCtx n f).time = s.time := rfl
@[simp] theorem State.modCtx_warps (s : State) (n : Nat) (f : Context → Context) : (s.modCtx n f).warps = s.warps := rfl
@[simp] theorem State.modCtx_teams (s : State) (n : Nat) (f : Context → Context) : (s.modCtx n f).teams = s.teams := rfl
@[simp] theorem State.modCtx_cores (s : State) (n : Nat) (f : Context → Context) : (s.modCtx n f).cores = s.cores := rfl
@[simp] theorem State.modCtx_hbm (s : State) (n : Nat) (f : Context → Context) : (s.modCtx n f).hbm = s.hbm := rfl
@[simp] theorem State.modCtx_l2 (s : State) (n : Nat) (f : Context → Context) : (s.modCtx n f).l2 = s.l2 := rfl
@[simp] theorem State.modCtx_rdc0 (s : State) (n : Nat) (f : Context → Context) : (s.modCtx n f).rdc0 = s.rdc0 := rfl
@[simp] theorem State.modCtx_rdc1 (s : State) (n : Nat) (f : Context → Context) : (s.modCtx n f).rdc1 = s.rdc1 := rfl
@[simp] theorem State.modCtx_stamp (s : State) (n : Nat) (f : Context → Context) : (s.modCtx n f).stamp = s.stamp := rfl
@[simp] theorem State.modCtx_keyTag (s : State) (n : Nat) (f : Context → Context) : (s.modCtx n f).keyTag = s.keyTag := rfl
@[simp] theorem State.modCtx_undef (s : State) (n : Nat) (f : Context → Context) : (s.modCtx n f).undef = s.undef := rfl
@[simp] theorem State.modCtx_bad (s : State) (n : Nat) (f : Context → Context) : (s.modCtx n f).bad = s.bad := rfl
@[simp] theorem State.modCtx_hostMem (s : State) (n : Nat) (f : Context → Context) : (s.modCtx n f).hostMem = s.hostMem := rfl
@[simp] theorem State.modCtx_fabMem (s : State) (n : Nat) (f : Context → Context) : (s.modCtx n f).fabMem = s.fabMem := rfl
@[simp] theorem State.modCtx_hostAtomics (s : State) (n : Nat) (f : Context → Context) : (s.modCtx n f).hostAtomics = s.hostAtomics := rfl
@[simp] theorem State.modCtx_contexts (s : State) (n : Nat) (f : Context → Context) : (s.modCtx n f).contexts = kmod s.contexts n f := rfl
@[simp] theorem State.modCtx_locks (s : State) (n : Nat) (f : Context → Context) : (s.modCtx n f).locks = s.locks := rfl
@[simp] theorem State.modCtx_lockWait (s : State) (n : Nat) (f : Context → Context) : (s.modCtx n f).lockWait = s.lockWait := rfl
@[simp] theorem State.modCtx_tlb0 (s : State) (n : Nat) (f : Context → Context) : (s.modCtx n f).tlb0 = s.tlb0 := rfl
@[simp] theorem State.modCtx_tlb1 (s : State) (n : Nat) (f : Context → Context) : (s.modCtx n f).tlb1 = s.tlb1 := rfl
@[simp] theorem State.modCtx_pri (s : State) (n : Nat) (f : Context → Context) : (s.modCtx n f).pri = s.pri := rfl
@[simp] theorem State.modCtx_priDenied (s : State) (n : Nat) (f : Context → Context) : (s.modCtx n f).priDenied = s.priDenied := rfl
@[simp] theorem State.modCtx_priTries (s : State) (n : Nat) (f : Context → Context) : (s.modCtx n f).priTries = s.priTries := rfl
@[simp] theorem State.modCtx_priGranted (s : State) (n : Nat) (f : Context → Context) : (s.modCtx n f).priGranted = s.priGranted := rfl
@[simp] theorem State.modCtx_ats (s : State) (n : Nat) (f : Context → Context) : (s.modCtx n f).ats = s.ats := rfl
@[simp] theorem State.modCtx_keys (s : State) (n : Nat) (f : Context → Context) : (s.modCtx n f).keys = s.keys := rfl
@[simp] theorem State.modCtx_fab (s : State) (n : Nat) (f : Context → Context) : (s.modCtx n f).fab = s.fab := rfl
@[simp] theorem State.modCtx_leases (s : State) (n : Nat) (f : Context → Context) : (s.modCtx n f).leases = s.leases := rfl
@[simp] theorem State.modCtx_streams (s : State) (n : Nat) (f : Context → Context) : (s.modCtx n f).streams = s.streams := rfl
@[simp] theorem State.modCtx_frames (s : State) (n : Nat) (f : Context → Context) : (s.modCtx n f).frames = s.frames := rfl
@[simp] theorem State.modCtx_queues (s : State) (n : Nat) (f : Context → Context) : (s.modCtx n f).queues = s.queues := rfl
@[simp] theorem State.modCtx_launches (s : State) (n : Nat) (f : Context → Context) : (s.modCtx n f).launches = s.launches := rfl
@[simp] theorem State.modCtx_nextId (s : State) (n : Nat) (f : Context → Context) : (s.modCtx n f).nextId = s.nextId := rfl
@[simp] theorem State.modCtx_regs (s : State) (n : Nat) (f : Context → Context) : (s.modCtx n f).regs = s.regs := rfl
@[simp] theorem State.modCtx_invQ (s : State) (n : Nat) (f : Context → Context) : (s.modCtx n f).invQ = s.invQ := rfl
@[simp] theorem State.modCtx_atsInv (s : State) (n : Nat) (f : Context → Context) : (s.modCtx n f).atsInv = s.atsInv := rfl
@[simp] theorem State.modCtx_atsDone (s : State) (n : Nat) (f : Context → Context) : (s.modCtx n f).atsDone = s.atsDone := rfl
@[simp] theorem State.modCtx_planePort (s : State) (n : Nat) (f : Context → Context) : (s.modCtx n f).planePort = s.planePort := rfl
@[simp] theorem State.modCtx_planeDrain (s : State) (n : Nat) (f : Context → Context) : (s.modCtx n f).planeDrain = s.planeDrain := rfl
@[simp] theorem State.modCtx_planeShared (s : State) (n : Nat) (f : Context → Context) : (s.modCtx n f).planeShared = s.planeShared := rfl
@[simp] theorem State.modCtx_planeNext (s : State) (n : Nat) (f : Context → Context) : (s.modCtx n f).planeNext = s.planeNext := rfl
@[simp] theorem State.modCtx_portUp (s : State) (n : Nat) (f : Context → Context) : (s.modCtx n f).portUp = s.portUp := rfl
@[simp] theorem State.modCtx_fabricTimeout (s : State) (n : Nat) (f : Context → Context) : (s.modCtx n f).fabricTimeout = s.fabricTimeout := rfl
@[simp] theorem State.modCtx_events (s : State) (n : Nat) (f : Context → Context) : (s.modCtx n f).events = s.events := rfl
@[simp] theorem State.modCtx_err (s : State) (n : Nat) (f : Context → Context) : (s.modCtx n f).err = s.err := rfl
@[simp] theorem State.modCtx_pcieUp (s : State) (n : Nat) (f : Context → Context) : (s.modCtx n f).pcieUp = s.pcieUp := rfl
@[simp] theorem State.modCtx_diesStopped (s : State) (n : Nat) (f : Context → Context) : (s.modCtx n f).diesStopped = s.diesStopped := rfl
@[simp] theorem State.modCtx_devnum (s : State) (n : Nat) (f : Context → Context) : (s.modCtx n f).devnum = s.devnum := rfl
@[simp] theorem State.modCtx_correctable (s : State) (n : Nat) (f : Context → Context) : (s.modCtx n f).correctable = s.correctable := rfl
@[simp] theorem State.modCtx_clocks (s : State) (n : Nat) (f : Context → Context) : (s.modCtx n f).clocks = s.clocks := rfl
@[simp] theorem State.modCtx_paused (s : State) (n : Nat) (f : Context → Context) : (s.modCtx n f).paused = s.paused := rfl
@[simp] theorem State.modCtx_gated (s : State) (n : Nat) (f : Context → Context) : (s.modCtx n f).gated = s.gated := rfl
@[simp] theorem State.modCtx_dbgHalted (s : State) (n : Nat) (f : Context → Context) : (s.modCtx n f).dbgHalted = s.dbgHalted := rfl
@[simp] theorem State.modCtx_nguyx (s : State) (n : Nat) (f : Context → Context) : (s.modCtx n f).nguyx = s.nguyx := rfl
@[simp] theorem State.modCtx_finalised (s : State) (n : Nat) (f : Context → Context) : (s.modCtx n f).finalised = s.finalised := rfl
@[simp] theorem State.modCtx_fwImage (s : State) (n : Nat) (f : Context → Context) : (s.modCtx n f).fwImage = s.fwImage := rfl
@[simp] theorem State.modCtx_fwFused (s : State) (n : Nat) (f : Context → Context) : (s.modCtx n f).fwFused = s.fwFused := rfl
@[simp] theorem State.modCtx_fwGood (s : State) (n : Nat) (f : Context → Context) : (s.modCtx n f).fwGood = s.fwGood := rfl
@[simp] theorem State.modCtx_reply (s : State) (n : Nat) (f : Context → Context) : (s.modCtx n f).reply = s.reply := rfl
@[simp] theorem State.modCtx_cur (s : State) (n : Nat) (f : Context → Context) : (s.modCtx n f).cur = s.cur := rfl
@[simp] theorem State.modCtx_curLate (s : State) (n : Nat) (f : Context → Context) : (s.modCtx n f).curLate = s.curLate := rfl
@[simp] theorem State.modCtx_freeCtr (s : State) (n : Nat) (f : Context → Context) : (s.modCtx n f).freeCtr = s.freeCtr := rfl
@[simp] theorem State.modCtx_agenda (s : State) (n : Nat) (f : Context → Context) : (s.modCtx n f).agenda = s.agenda := rfl

/-! ## State.modSlot -/

@[simp] theorem State.modSlot_time (s : State) (core slot : Nat) (f : Slot → Slot) : (s.modSlot core slot f).time = s.time := rfl
@[simp] theorem State.modSlot_warps (s : State) (core slot : Nat) (f : Slot → Slot) : (s.modSlot core slot f).warps = s.warps := rfl
@[simp] theorem State.modSlot_teams (s : State) (core slot : Nat) (f : Slot → Slot) : (s.modSlot core slot f).teams = s.teams := rfl
@[simp] theorem State.modSlot_hbm (s : State) (core slot : Nat) (f : Slot → Slot) : (s.modSlot core slot f).hbm = s.hbm := rfl
@[simp] theorem State.modSlot_l2 (s : State) (core slot : Nat) (f : Slot → Slot) : (s.modSlot core slot f).l2 = s.l2 := rfl
@[simp] theorem State.modSlot_rdc0 (s : State) (core slot : Nat) (f : Slot → Slot) : (s.modSlot core slot f).rdc0 = s.rdc0 := rfl
@[simp] theorem State.modSlot_rdc1 (s : State) (core slot : Nat) (f : Slot → Slot) : (s.modSlot core slot f).rdc1 = s.rdc1 := rfl
@[simp] theorem State.modSlot_stamp (s : State) (core slot : Nat) (f : Slot → Slot) : (s.modSlot core slot f).stamp = s.stamp := rfl
@[simp] theorem State.modSlot_keyTag (s : State) (core slot : Nat) (f : Slot → Slot) : (s.modSlot core slot f).keyTag = s.keyTag := rfl
@[simp] theorem State.modSlot_undef (s : State) (core slot : Nat) (f : Slot → Slot) : (s.modSlot core slot f).undef = s.undef := rfl
@[simp] theorem State.modSlot_bad (s : State) (core slot : Nat) (f : Slot → Slot) : (s.modSlot core slot f).bad = s.bad := rfl
@[simp] theorem State.modSlot_hostMem (s : State) (core slot : Nat) (f : Slot → Slot) : (s.modSlot core slot f).hostMem = s.hostMem := rfl
@[simp] theorem State.modSlot_fabMem (s : State) (core slot : Nat) (f : Slot → Slot) : (s.modSlot core slot f).fabMem = s.fabMem := rfl
@[simp] theorem State.modSlot_hostAtomics (s : State) (core slot : Nat) (f : Slot → Slot) : (s.modSlot core slot f).hostAtomics = s.hostAtomics := rfl
@[simp] theorem State.modSlot_contexts (s : State) (core slot : Nat) (f : Slot → Slot) : (s.modSlot core slot f).contexts = s.contexts := rfl
@[simp] theorem State.modSlot_locks (s : State) (core slot : Nat) (f : Slot → Slot) : (s.modSlot core slot f).locks = s.locks := rfl
@[simp] theorem State.modSlot_lockWait (s : State) (core slot : Nat) (f : Slot → Slot) : (s.modSlot core slot f).lockWait = s.lockWait := rfl
@[simp] theorem State.modSlot_tlb0 (s : State) (core slot : Nat) (f : Slot → Slot) : (s.modSlot core slot f).tlb0 = s.tlb0 := rfl
@[simp] theorem State.modSlot_tlb1 (s : State) (core slot : Nat) (f : Slot → Slot) : (s.modSlot core slot f).tlb1 = s.tlb1 := rfl
@[simp] theorem State.modSlot_pri (s : State) (core slot : Nat) (f : Slot → Slot) : (s.modSlot core slot f).pri = s.pri := rfl
@[simp] theorem State.modSlot_priDenied (s : State) (core slot : Nat) (f : Slot → Slot) : (s.modSlot core slot f).priDenied = s.priDenied := rfl
@[simp] theorem State.modSlot_priTries (s : State) (core slot : Nat) (f : Slot → Slot) : (s.modSlot core slot f).priTries = s.priTries := rfl
@[simp] theorem State.modSlot_priGranted (s : State) (core slot : Nat) (f : Slot → Slot) : (s.modSlot core slot f).priGranted = s.priGranted := rfl
@[simp] theorem State.modSlot_ats (s : State) (core slot : Nat) (f : Slot → Slot) : (s.modSlot core slot f).ats = s.ats := rfl
@[simp] theorem State.modSlot_keys (s : State) (core slot : Nat) (f : Slot → Slot) : (s.modSlot core slot f).keys = s.keys := rfl
@[simp] theorem State.modSlot_fab (s : State) (core slot : Nat) (f : Slot → Slot) : (s.modSlot core slot f).fab = s.fab := rfl
@[simp] theorem State.modSlot_leases (s : State) (core slot : Nat) (f : Slot → Slot) : (s.modSlot core slot f).leases = s.leases := rfl
@[simp] theorem State.modSlot_streams (s : State) (core slot : Nat) (f : Slot → Slot) : (s.modSlot core slot f).streams = s.streams := rfl
@[simp] theorem State.modSlot_frames (s : State) (core slot : Nat) (f : Slot → Slot) : (s.modSlot core slot f).frames = s.frames := rfl
@[simp] theorem State.modSlot_queues (s : State) (core slot : Nat) (f : Slot → Slot) : (s.modSlot core slot f).queues = s.queues := rfl
@[simp] theorem State.modSlot_launches (s : State) (core slot : Nat) (f : Slot → Slot) : (s.modSlot core slot f).launches = s.launches := rfl
@[simp] theorem State.modSlot_nextId (s : State) (core slot : Nat) (f : Slot → Slot) : (s.modSlot core slot f).nextId = s.nextId := rfl
@[simp] theorem State.modSlot_regs (s : State) (core slot : Nat) (f : Slot → Slot) : (s.modSlot core slot f).regs = s.regs := rfl
@[simp] theorem State.modSlot_invQ (s : State) (core slot : Nat) (f : Slot → Slot) : (s.modSlot core slot f).invQ = s.invQ := rfl
@[simp] theorem State.modSlot_atsInv (s : State) (core slot : Nat) (f : Slot → Slot) : (s.modSlot core slot f).atsInv = s.atsInv := rfl
@[simp] theorem State.modSlot_atsDone (s : State) (core slot : Nat) (f : Slot → Slot) : (s.modSlot core slot f).atsDone = s.atsDone := rfl
@[simp] theorem State.modSlot_planePort (s : State) (core slot : Nat) (f : Slot → Slot) : (s.modSlot core slot f).planePort = s.planePort := rfl
@[simp] theorem State.modSlot_planeDrain (s : State) (core slot : Nat) (f : Slot → Slot) : (s.modSlot core slot f).planeDrain = s.planeDrain := rfl
@[simp] theorem State.modSlot_planeShared (s : State) (core slot : Nat) (f : Slot → Slot) : (s.modSlot core slot f).planeShared = s.planeShared := rfl
@[simp] theorem State.modSlot_planeNext (s : State) (core slot : Nat) (f : Slot → Slot) : (s.modSlot core slot f).planeNext = s.planeNext := rfl
@[simp] theorem State.modSlot_portUp (s : State) (core slot : Nat) (f : Slot → Slot) : (s.modSlot core slot f).portUp = s.portUp := rfl
@[simp] theorem State.modSlot_fabricTimeout (s : State) (core slot : Nat) (f : Slot → Slot) : (s.modSlot core slot f).fabricTimeout = s.fabricTimeout := rfl
@[simp] theorem State.modSlot_events (s : State) (core slot : Nat) (f : Slot → Slot) : (s.modSlot core slot f).events = s.events := rfl
@[simp] theorem State.modSlot_err (s : State) (core slot : Nat) (f : Slot → Slot) : (s.modSlot core slot f).err = s.err := rfl
@[simp] theorem State.modSlot_pcieUp (s : State) (core slot : Nat) (f : Slot → Slot) : (s.modSlot core slot f).pcieUp = s.pcieUp := rfl
@[simp] theorem State.modSlot_diesStopped (s : State) (core slot : Nat) (f : Slot → Slot) : (s.modSlot core slot f).diesStopped = s.diesStopped := rfl
@[simp] theorem State.modSlot_devnum (s : State) (core slot : Nat) (f : Slot → Slot) : (s.modSlot core slot f).devnum = s.devnum := rfl
@[simp] theorem State.modSlot_correctable (s : State) (core slot : Nat) (f : Slot → Slot) : (s.modSlot core slot f).correctable = s.correctable := rfl
@[simp] theorem State.modSlot_clocks (s : State) (core slot : Nat) (f : Slot → Slot) : (s.modSlot core slot f).clocks = s.clocks := rfl
@[simp] theorem State.modSlot_paused (s : State) (core slot : Nat) (f : Slot → Slot) : (s.modSlot core slot f).paused = s.paused := rfl
@[simp] theorem State.modSlot_gated (s : State) (core slot : Nat) (f : Slot → Slot) : (s.modSlot core slot f).gated = s.gated := rfl
@[simp] theorem State.modSlot_dbgHalted (s : State) (core slot : Nat) (f : Slot → Slot) : (s.modSlot core slot f).dbgHalted = s.dbgHalted := rfl
@[simp] theorem State.modSlot_nguyx (s : State) (core slot : Nat) (f : Slot → Slot) : (s.modSlot core slot f).nguyx = s.nguyx := rfl
@[simp] theorem State.modSlot_finalised (s : State) (core slot : Nat) (f : Slot → Slot) : (s.modSlot core slot f).finalised = s.finalised := rfl
@[simp] theorem State.modSlot_fwImage (s : State) (core slot : Nat) (f : Slot → Slot) : (s.modSlot core slot f).fwImage = s.fwImage := rfl
@[simp] theorem State.modSlot_fwFused (s : State) (core slot : Nat) (f : Slot → Slot) : (s.modSlot core slot f).fwFused = s.fwFused := rfl
@[simp] theorem State.modSlot_fwGood (s : State) (core slot : Nat) (f : Slot → Slot) : (s.modSlot core slot f).fwGood = s.fwGood := rfl
@[simp] theorem State.modSlot_reply (s : State) (core slot : Nat) (f : Slot → Slot) : (s.modSlot core slot f).reply = s.reply := rfl
@[simp] theorem State.modSlot_cur (s : State) (core slot : Nat) (f : Slot → Slot) : (s.modSlot core slot f).cur = s.cur := rfl
@[simp] theorem State.modSlot_curLate (s : State) (core slot : Nat) (f : Slot → Slot) : (s.modSlot core slot f).curLate = s.curLate := rfl
@[simp] theorem State.modSlot_freeCtr (s : State) (core slot : Nat) (f : Slot → Slot) : (s.modSlot core slot f).freeCtr = s.freeCtr := rfl
@[simp] theorem State.modSlot_agenda (s : State) (core slot : Nat) (f : Slot → Slot) : (s.modSlot core slot f).agenda = s.agenda := rfl

/-! ## State.raiseVec -/

@[simp] theorem State.raiseVec_time (s : State) (v : Nat) : (s.raiseVec v).time = s.time := rfl
@[simp] theorem State.raiseVec_warps (s : State) (v : Nat) : (s.raiseVec v).warps = s.warps := rfl
@[simp] theorem State.raiseVec_teams (s : State) (v : Nat) : (s.raiseVec v).teams = s.teams := rfl
@[simp] theorem State.raiseVec_cores (s : State) (v : Nat) : (s.raiseVec v).cores = s.cores := rfl
@[simp] theorem State.raiseVec_hbm (s : State) (v : Nat) : (s.raiseVec v).hbm = s.hbm := rfl
@[simp] theorem State.raiseVec_l2 (s : State) (v : Nat) : (s.raiseVec v).l2 = s.l2 := rfl
@[simp] theorem State.raiseVec_rdc0 (s : State) (v : Nat) : (s.raiseVec v).rdc0 = s.rdc0 := rfl
@[simp] theorem State.raiseVec_rdc1 (s : State) (v : Nat) : (s.raiseVec v).rdc1 = s.rdc1 := rfl
@[simp] theorem State.raiseVec_stamp (s : State) (v : Nat) : (s.raiseVec v).stamp = s.stamp := rfl
@[simp] theorem State.raiseVec_keyTag (s : State) (v : Nat) : (s.raiseVec v).keyTag = s.keyTag := rfl
@[simp] theorem State.raiseVec_undef (s : State) (v : Nat) : (s.raiseVec v).undef = s.undef := rfl
@[simp] theorem State.raiseVec_bad (s : State) (v : Nat) : (s.raiseVec v).bad = s.bad := rfl
@[simp] theorem State.raiseVec_hostMem (s : State) (v : Nat) : (s.raiseVec v).hostMem = s.hostMem := rfl
@[simp] theorem State.raiseVec_fabMem (s : State) (v : Nat) : (s.raiseVec v).fabMem = s.fabMem := rfl
@[simp] theorem State.raiseVec_hostAtomics (s : State) (v : Nat) : (s.raiseVec v).hostAtomics = s.hostAtomics := rfl
@[simp] theorem State.raiseVec_contexts (s : State) (v : Nat) : (s.raiseVec v).contexts = s.contexts := rfl
@[simp] theorem State.raiseVec_locks (s : State) (v : Nat) : (s.raiseVec v).locks = s.locks := rfl
@[simp] theorem State.raiseVec_lockWait (s : State) (v : Nat) : (s.raiseVec v).lockWait = s.lockWait := rfl
@[simp] theorem State.raiseVec_tlb0 (s : State) (v : Nat) : (s.raiseVec v).tlb0 = s.tlb0 := rfl
@[simp] theorem State.raiseVec_tlb1 (s : State) (v : Nat) : (s.raiseVec v).tlb1 = s.tlb1 := rfl
@[simp] theorem State.raiseVec_pri (s : State) (v : Nat) : (s.raiseVec v).pri = s.pri := rfl
@[simp] theorem State.raiseVec_priDenied (s : State) (v : Nat) : (s.raiseVec v).priDenied = s.priDenied := rfl
@[simp] theorem State.raiseVec_priTries (s : State) (v : Nat) : (s.raiseVec v).priTries = s.priTries := rfl
@[simp] theorem State.raiseVec_priGranted (s : State) (v : Nat) : (s.raiseVec v).priGranted = s.priGranted := rfl
@[simp] theorem State.raiseVec_ats (s : State) (v : Nat) : (s.raiseVec v).ats = s.ats := rfl
@[simp] theorem State.raiseVec_keys (s : State) (v : Nat) : (s.raiseVec v).keys = s.keys := rfl
@[simp] theorem State.raiseVec_fab (s : State) (v : Nat) : (s.raiseVec v).fab = s.fab := rfl
@[simp] theorem State.raiseVec_leases (s : State) (v : Nat) : (s.raiseVec v).leases = s.leases := rfl
@[simp] theorem State.raiseVec_streams (s : State) (v : Nat) : (s.raiseVec v).streams = s.streams := rfl
@[simp] theorem State.raiseVec_frames (s : State) (v : Nat) : (s.raiseVec v).frames = s.frames := rfl
@[simp] theorem State.raiseVec_queues (s : State) (v : Nat) : (s.raiseVec v).queues = s.queues := rfl
@[simp] theorem State.raiseVec_launches (s : State) (v : Nat) : (s.raiseVec v).launches = s.launches := rfl
@[simp] theorem State.raiseVec_nextId (s : State) (v : Nat) : (s.raiseVec v).nextId = s.nextId := rfl
@[simp] theorem State.raiseVec_invQ (s : State) (v : Nat) : (s.raiseVec v).invQ = s.invQ := rfl
@[simp] theorem State.raiseVec_atsInv (s : State) (v : Nat) : (s.raiseVec v).atsInv = s.atsInv := rfl
@[simp] theorem State.raiseVec_atsDone (s : State) (v : Nat) : (s.raiseVec v).atsDone = s.atsDone := rfl
@[simp] theorem State.raiseVec_planePort (s : State) (v : Nat) : (s.raiseVec v).planePort = s.planePort := rfl
@[simp] theorem State.raiseVec_planeDrain (s : State) (v : Nat) : (s.raiseVec v).planeDrain = s.planeDrain := rfl
@[simp] theorem State.raiseVec_planeShared (s : State) (v : Nat) : (s.raiseVec v).planeShared = s.planeShared := rfl
@[simp] theorem State.raiseVec_planeNext (s : State) (v : Nat) : (s.raiseVec v).planeNext = s.planeNext := rfl
@[simp] theorem State.raiseVec_portUp (s : State) (v : Nat) : (s.raiseVec v).portUp = s.portUp := rfl
@[simp] theorem State.raiseVec_fabricTimeout (s : State) (v : Nat) : (s.raiseVec v).fabricTimeout = s.fabricTimeout := rfl
@[simp] theorem State.raiseVec_events (s : State) (v : Nat) : (s.raiseVec v).events = s.events := rfl
@[simp] theorem State.raiseVec_err (s : State) (v : Nat) : (s.raiseVec v).err = s.err := rfl
@[simp] theorem State.raiseVec_pcieUp (s : State) (v : Nat) : (s.raiseVec v).pcieUp = s.pcieUp := rfl
@[simp] theorem State.raiseVec_diesStopped (s : State) (v : Nat) : (s.raiseVec v).diesStopped = s.diesStopped := rfl
@[simp] theorem State.raiseVec_devnum (s : State) (v : Nat) : (s.raiseVec v).devnum = s.devnum := rfl
@[simp] theorem State.raiseVec_correctable (s : State) (v : Nat) : (s.raiseVec v).correctable = s.correctable := rfl
@[simp] theorem State.raiseVec_clocks (s : State) (v : Nat) : (s.raiseVec v).clocks = s.clocks := rfl
@[simp] theorem State.raiseVec_paused (s : State) (v : Nat) : (s.raiseVec v).paused = s.paused := rfl
@[simp] theorem State.raiseVec_gated (s : State) (v : Nat) : (s.raiseVec v).gated = s.gated := rfl
@[simp] theorem State.raiseVec_dbgHalted (s : State) (v : Nat) : (s.raiseVec v).dbgHalted = s.dbgHalted := rfl
@[simp] theorem State.raiseVec_nguyx (s : State) (v : Nat) : (s.raiseVec v).nguyx = s.nguyx := rfl
@[simp] theorem State.raiseVec_finalised (s : State) (v : Nat) : (s.raiseVec v).finalised = s.finalised := rfl
@[simp] theorem State.raiseVec_fwImage (s : State) (v : Nat) : (s.raiseVec v).fwImage = s.fwImage := rfl
@[simp] theorem State.raiseVec_fwFused (s : State) (v : Nat) : (s.raiseVec v).fwFused = s.fwFused := rfl
@[simp] theorem State.raiseVec_fwGood (s : State) (v : Nat) : (s.raiseVec v).fwGood = s.fwGood := rfl
@[simp] theorem State.raiseVec_reply (s : State) (v : Nat) : (s.raiseVec v).reply = s.reply := rfl
@[simp] theorem State.raiseVec_cur (s : State) (v : Nat) : (s.raiseVec v).cur = s.cur := rfl
@[simp] theorem State.raiseVec_curLate (s : State) (v : Nat) : (s.raiseVec v).curLate = s.curLate := rfl
@[simp] theorem State.raiseVec_freeCtr (s : State) (v : Nat) : (s.raiseVec v).freeCtr = s.freeCtr := rfl
@[simp] theorem State.raiseVec_agenda (s : State) (v : Nat) : (s.raiseVec v).agenda = s.agenda := rfl

/-! ## Warp.setV -/

@[simp] theorem Warp.setV_team (w : Warp) (r : Nat) (m : LaneMask) (f : Nat → W32) : (w.setV r m f).team = w.team := rfl
@[simp] theorem Warp.setV_core (w : Warp) (r : Nat) (m : LaneMask) (f : Nat → W32) : (w.setV r m f).core = w.core := rfl
@[simp] theorem Warp.setV_part (w : Warp) (r : Nat) (m : LaneMask) (f : Nat → W32) : (w.setV r m f).part = w.part := rfl
@[simp] theorem Warp.setV_num (w : Warp) (r : Nat) (m : LaneMask) (f : Nat → W32) : (w.setV r m f).num = w.num := rfl
@[simp] theorem Warp.setV_role (w : Warp) (r : Nat) (m : LaneMask) (f : Nat → W32) : (w.setV r m f).role = w.role := rfl
@[simp] theorem Warp.setV_pipe (w : Warp) (r : Nat) (m : LaneMask) (f : Nat → W32) : (w.setV r m f).pipe = w.pipe := rfl
@[simp] theorem Warp.setV_vregs (w : Warp) (r : Nat) (m : LaneMask) (f : Nat → W32) : (w.setV r m f).vregs = w.vregs := rfl
@[simp] theorem Warp.setV_s (w : Warp) (r : Nat) (m : LaneMask) (f : Nat → W32) : (w.setV r m f).s = w.s := rfl
@[simp] theorem Warp.setV_p (w : Warp) (r : Nat) (m : LaneMask) (f : Nat → W32) : (w.setV r m f).p = w.p := rfl
@[simp] theorem Warp.setV_q (w : Warp) (r : Nat) (m : LaneMask) (f : Nat → W32) : (w.setV r m f).q = w.q := rfl
@[simp] theorem Warp.setV_vpc (w : Warp) (r : Nat) (m : LaneMask) (f : Nat → W32) : (w.setV r m f).vpc = w.vpc := rfl
@[simp] theorem Warp.setV_lc (w : Warp) (r : Nat) (m : LaneMask) (f : Nat → W32) : (w.setV r m f).lc = w.lc := rfl
@[simp] theorem Warp.setV_jm (w : Warp) (r : Nat) (m : LaneMask) (f : Nat → W32) : (w.setV r m f).jm = w.jm := rfl
@[simp] theorem Warp.setV_link (w : Warp) (r : Nat) (m : LaneMask) (f : Nat → W32) : (w.setV r m f).link = w.link := rfl
@[simp] theorem Warp.setV_fpflags (w : Warp) (r : Nat) (m : LaneMask) (f : Nat → W32) : (w.setV r m f).fpflags = w.fpflags := rfl
@[simp] theorem Warp.setV_age (w : Warp) (r : Nat) (m : LaneMask) (f : Nat → W32) : (w.setV r m f).age = w.age := rfl
@[simp] theorem Warp.setV_trc (w : Warp) (r : Nat) (m : LaneMask) (f : Nat → W32) : (w.setV r m f).trc = w.trc := rfl
@[simp] theorem Warp.setV_taskst (w : Warp) (r : Nat) (m : LaneMask) (f : Nat → W32) : (w.setV r m f).taskst = w.taskst := rfl
@[simp] theorem Warp.setV_live (w : Warp) (r : Nat) (m : LaneMask) (f : Nat → W32) : (w.setV r m f).live = w.live := rfl
@[simp] theorem Warp.setV_waitK (w : Warp) (r : Nat) (m : LaneMask) (f : Nat → W32) : (w.setV r m f).waitK = w.waitK := rfl
@[simp] theorem Warp.setV_loops (w : Warp) (r : Nat) (m : LaneMask) (f : Nat → W32) : (w.setV r m f).loops = w.loops := rfl
@[simp] theorem Warp.setV_windows (w : Warp) (r : Nat) (m : LaneMask) (f : Nat → W32) : (w.setV r m f).windows = w.windows := rfl
@[simp] theorem Warp.setV_storeQ (w : Warp) (r : Nat) (m : LaneMask) (f : Nat → W32) : (w.setV r m f).storeQ = w.storeQ := rfl
@[simp] theorem Warp.setV_opLog (w : Warp) (r : Nat) (m : LaneMask) (f : Nat → W32) : (w.setV r m f).opLog = w.opLog := rfl
@[simp] theorem Warp.setV_pending (w : Warp) (r : Nat) (m : LaneMask) (f : Nat → W32) : (w.setV r m f).pending = w.pending := rfl
@[simp] theorem Warp.setV_wait (w : Warp) (r : Nat) (m : LaneMask) (f : Nat → W32) : (w.setV r m f).wait = w.wait := rfl
@[simp] theorem Warp.setV_tcause (w : Warp) (r : Nat) (m : LaneMask) (f : Nat → W32) : (w.setV r m f).tcause = w.tcause := rfl
@[simp] theorem Warp.setV_tpc (w : Warp) (r : Nat) (m : LaneMask) (f : Nat → W32) : (w.setV r m f).tpc = w.tpc := rfl
@[simp] theorem Warp.setV_taddr (w : Warp) (r : Nat) (m : LaneMask) (f : Nat → W32) : (w.setV r m f).taddr = w.taddr := rfl
@[simp] theorem Warp.setV_tlanes (w : Warp) (r : Nat) (m : LaneMask) (f : Nat → W32) : (w.setV r m f).tlanes = w.tlanes := rfl
@[simp] theorem Warp.setV_tinfo (w : Warp) (r : Nat) (m : LaneMask) (f : Nat → W32) : (w.setV r m f).tinfo = w.tinfo := rfl
@[simp] theorem Warp.setV_inh (w : Warp) (r : Nat) (m : LaneMask) (f : Nat → W32) : (w.setV r m f).inh = w.inh := rfl
@[simp] theorem Warp.setV_t0 (w : Warp) (r : Nat) (m : LaneMask) (f : Nat → W32) : (w.setV r m f).t0 = w.t0 := rfl
@[simp] theorem Warp.setV_tact (w : Warp) (r : Nat) (m : LaneMask) (f : Nat → W32) : (w.setV r m f).tact = w.tact := rfl
@[simp] theorem Warp.setV_hpc (w : Warp) (r : Nat) (m : LaneMask) (f : Nat → W32) : (w.setV r m f).hpc = w.hpc := rfl
@[simp] theorem Warp.setV_hseq (w : Warp) (r : Nat) (m : LaneMask) (f : Nat → W32) : (w.setV r m f).hseq = w.hseq := rfl
@[simp] theorem Warp.setV_tretDue (w : Warp) (r : Nat) (m : LaneMask) (f : Nat → W32) : (w.setV r m f).tretDue = w.tretDue := rfl
@[simp] theorem Warp.setV_dcause (w : Warp) (r : Nat) (m : LaneMask) (f : Nat → W32) : (w.setV r m f).dcause = w.dcause := rfl
@[simp] theorem Warp.setV_hs (w : Warp) (r : Nat) (m : LaneMask) (f : Nat → W32) : (w.setV r m f).hs = w.hs := rfl
@[simp] theorem Warp.setV_hq (w : Warp) (r : Nat) (m : LaneMask) (f : Nat → W32) : (w.setV r m f).hq = w.hq := rfl
@[simp] theorem Warp.setV_hloops (w : Warp) (r : Nat) (m : LaneMask) (f : Nat → W32) : (w.setV r m f).hloops = w.hloops := rfl
@[simp] theorem Warp.setV_deferredWound (w : Warp) (r : Nat) (m : LaneMask) (f : Nat → W32) : (w.setV r m f).deferredWound = w.deferredWound := rfl
@[simp] theorem Warp.setV_deferredRetry (w : Warp) (r : Nat) (m : LaneMask) (f : Nat → W32) : (w.setV r m f).deferredRetry = w.deferredRetry := rfl
@[simp] theorem Warp.setV_prologue (w : Warp) (r : Nat) (m : LaneMask) (f : Nat → W32) : (w.setV r m f).prologue = w.prologue := rfl
@[simp] theorem Warp.setV_taskPending (w : Warp) (r : Nat) (m : LaneMask) (f : Nat → W32) : (w.setV r m f).taskPending = w.taskPending := rfl
@[simp] theorem Warp.setV_task (w : Warp) (r : Nat) (m : LaneMask) (f : Nat → W32) : (w.setV r m f).task = w.task := rfl
@[simp] theorem Warp.setV_privIndex (w : Warp) (r : Nat) (m : LaneMask) (f : Nat → W32) : (w.setV r m f).privIndex = w.privIndex := rfl
@[simp] theorem Warp.setV_gained (w : Warp) (r : Nat) (m : LaneMask) (f : Nat → W32) : (w.setV r m f).gained = w.gained := rfl
@[simp] theorem Warp.setV_counted (w : Warp) (r : Nat) (m : LaneMask) (f : Nat → W32) : (w.setV r m f).counted = w.counted := rfl
@[simp] theorem Warp.setV_seq (w : Warp) (r : Nat) (m : LaneMask) (f : Nat → W32) : (w.setV r m f).seq = w.seq := rfl
@[simp] theorem Warp.setV_exited (w : Warp) (r : Nat) (m : LaneMask) (f : Nat → W32) : (w.setV r m f).exited = w.exited := rfl

/-! ## Warp.setS -/

@[simp] theorem Warp.setS_team (w : Warp) (r : Nat) (x : W32) : (w.setS r x).team = w.team := rfl
@[simp] theorem Warp.setS_core (w : Warp) (r : Nat) (x : W32) : (w.setS r x).core = w.core := rfl
@[simp] theorem Warp.setS_part (w : Warp) (r : Nat) (x : W32) : (w.setS r x).part = w.part := rfl
@[simp] theorem Warp.setS_num (w : Warp) (r : Nat) (x : W32) : (w.setS r x).num = w.num := rfl
@[simp] theorem Warp.setS_role (w : Warp) (r : Nat) (x : W32) : (w.setS r x).role = w.role := rfl
@[simp] theorem Warp.setS_pipe (w : Warp) (r : Nat) (x : W32) : (w.setS r x).pipe = w.pipe := rfl
@[simp] theorem Warp.setS_vregs (w : Warp) (r : Nat) (x : W32) : (w.setS r x).vregs = w.vregs := rfl
@[simp] theorem Warp.setS_v (w : Warp) (r : Nat) (x : W32) : (w.setS r x).v = w.v := rfl
@[simp] theorem Warp.setS_s (w : Warp) (r : Nat) (x : W32) : (w.setS r x).s = kput w.s r x := rfl
@[simp] theorem Warp.setS_p (w : Warp) (r : Nat) (x : W32) : (w.setS r x).p = w.p := rfl
@[simp] theorem Warp.setS_q (w : Warp) (r : Nat) (x : W32) : (w.setS r x).q = w.q := rfl
@[simp] theorem Warp.setS_vpc (w : Warp) (r : Nat) (x : W32) : (w.setS r x).vpc = w.vpc := rfl
@[simp] theorem Warp.setS_lc (w : Warp) (r : Nat) (x : W32) : (w.setS r x).lc = w.lc := rfl
@[simp] theorem Warp.setS_jm (w : Warp) (r : Nat) (x : W32) : (w.setS r x).jm = w.jm := rfl
@[simp] theorem Warp.setS_link (w : Warp) (r : Nat) (x : W32) : (w.setS r x).link = w.link := rfl
@[simp] theorem Warp.setS_fpflags (w : Warp) (r : Nat) (x : W32) : (w.setS r x).fpflags = w.fpflags := rfl
@[simp] theorem Warp.setS_age (w : Warp) (r : Nat) (x : W32) : (w.setS r x).age = w.age := rfl
@[simp] theorem Warp.setS_trc (w : Warp) (r : Nat) (x : W32) : (w.setS r x).trc = w.trc := rfl
@[simp] theorem Warp.setS_taskst (w : Warp) (r : Nat) (x : W32) : (w.setS r x).taskst = w.taskst := rfl
@[simp] theorem Warp.setS_live (w : Warp) (r : Nat) (x : W32) : (w.setS r x).live = w.live := rfl
@[simp] theorem Warp.setS_waitK (w : Warp) (r : Nat) (x : W32) : (w.setS r x).waitK = w.waitK := rfl
@[simp] theorem Warp.setS_loops (w : Warp) (r : Nat) (x : W32) : (w.setS r x).loops = w.loops := rfl
@[simp] theorem Warp.setS_windows (w : Warp) (r : Nat) (x : W32) : (w.setS r x).windows = w.windows := rfl
@[simp] theorem Warp.setS_storeQ (w : Warp) (r : Nat) (x : W32) : (w.setS r x).storeQ = w.storeQ := rfl
@[simp] theorem Warp.setS_opLog (w : Warp) (r : Nat) (x : W32) : (w.setS r x).opLog = w.opLog := rfl
@[simp] theorem Warp.setS_pending (w : Warp) (r : Nat) (x : W32) : (w.setS r x).pending = w.pending := rfl
@[simp] theorem Warp.setS_wait (w : Warp) (r : Nat) (x : W32) : (w.setS r x).wait = w.wait := rfl
@[simp] theorem Warp.setS_tcause (w : Warp) (r : Nat) (x : W32) : (w.setS r x).tcause = w.tcause := rfl
@[simp] theorem Warp.setS_tpc (w : Warp) (r : Nat) (x : W32) : (w.setS r x).tpc = w.tpc := rfl
@[simp] theorem Warp.setS_taddr (w : Warp) (r : Nat) (x : W32) : (w.setS r x).taddr = w.taddr := rfl
@[simp] theorem Warp.setS_tlanes (w : Warp) (r : Nat) (x : W32) : (w.setS r x).tlanes = w.tlanes := rfl
@[simp] theorem Warp.setS_tinfo (w : Warp) (r : Nat) (x : W32) : (w.setS r x).tinfo = w.tinfo := rfl
@[simp] theorem Warp.setS_inh (w : Warp) (r : Nat) (x : W32) : (w.setS r x).inh = w.inh := rfl
@[simp] theorem Warp.setS_t0 (w : Warp) (r : Nat) (x : W32) : (w.setS r x).t0 = w.t0 := rfl
@[simp] theorem Warp.setS_tact (w : Warp) (r : Nat) (x : W32) : (w.setS r x).tact = w.tact := rfl
@[simp] theorem Warp.setS_hpc (w : Warp) (r : Nat) (x : W32) : (w.setS r x).hpc = w.hpc := rfl
@[simp] theorem Warp.setS_hseq (w : Warp) (r : Nat) (x : W32) : (w.setS r x).hseq = w.hseq := rfl
@[simp] theorem Warp.setS_tretDue (w : Warp) (r : Nat) (x : W32) : (w.setS r x).tretDue = w.tretDue := rfl
@[simp] theorem Warp.setS_dcause (w : Warp) (r : Nat) (x : W32) : (w.setS r x).dcause = w.dcause := rfl
@[simp] theorem Warp.setS_hs (w : Warp) (r : Nat) (x : W32) : (w.setS r x).hs = w.hs := rfl
@[simp] theorem Warp.setS_hq (w : Warp) (r : Nat) (x : W32) : (w.setS r x).hq = w.hq := rfl
@[simp] theorem Warp.setS_hloops (w : Warp) (r : Nat) (x : W32) : (w.setS r x).hloops = w.hloops := rfl
@[simp] theorem Warp.setS_deferredWound (w : Warp) (r : Nat) (x : W32) : (w.setS r x).deferredWound = w.deferredWound := rfl
@[simp] theorem Warp.setS_deferredRetry (w : Warp) (r : Nat) (x : W32) : (w.setS r x).deferredRetry = w.deferredRetry := rfl
@[simp] theorem Warp.setS_prologue (w : Warp) (r : Nat) (x : W32) : (w.setS r x).prologue = w.prologue := rfl
@[simp] theorem Warp.setS_taskPending (w : Warp) (r : Nat) (x : W32) : (w.setS r x).taskPending = w.taskPending := rfl
@[simp] theorem Warp.setS_task (w : Warp) (r : Nat) (x : W32) : (w.setS r x).task = w.task := rfl
@[simp] theorem Warp.setS_privIndex (w : Warp) (r : Nat) (x : W32) : (w.setS r x).privIndex = w.privIndex := rfl
@[simp] theorem Warp.setS_gained (w : Warp) (r : Nat) (x : W32) : (w.setS r x).gained = w.gained := rfl
@[simp] theorem Warp.setS_counted (w : Warp) (r : Nat) (x : W32) : (w.setS r x).counted = w.counted := rfl
@[simp] theorem Warp.setS_seq (w : Warp) (r : Nat) (x : W32) : (w.setS r x).seq = w.seq := rfl
@[simp] theorem Warp.setS_exited (w : Warp) (r : Nat) (x : W32) : (w.setS r x).exited = w.exited := rfl

/-! ## Warp.orFlags -/

@[simp] theorem Warp.orFlags_team (w : Warp) (f : Fl) : (w.orFlags f).team = w.team := rfl
@[simp] theorem Warp.orFlags_core (w : Warp) (f : Fl) : (w.orFlags f).core = w.core := rfl
@[simp] theorem Warp.orFlags_part (w : Warp) (f : Fl) : (w.orFlags f).part = w.part := rfl
@[simp] theorem Warp.orFlags_num (w : Warp) (f : Fl) : (w.orFlags f).num = w.num := rfl
@[simp] theorem Warp.orFlags_role (w : Warp) (f : Fl) : (w.orFlags f).role = w.role := rfl
@[simp] theorem Warp.orFlags_pipe (w : Warp) (f : Fl) : (w.orFlags f).pipe = w.pipe := rfl
@[simp] theorem Warp.orFlags_vregs (w : Warp) (f : Fl) : (w.orFlags f).vregs = w.vregs := rfl
@[simp] theorem Warp.orFlags_v (w : Warp) (f : Fl) : (w.orFlags f).v = w.v := rfl
@[simp] theorem Warp.orFlags_s (w : Warp) (f : Fl) : (w.orFlags f).s = w.s := rfl
@[simp] theorem Warp.orFlags_p (w : Warp) (f : Fl) : (w.orFlags f).p = w.p := rfl
@[simp] theorem Warp.orFlags_q (w : Warp) (f : Fl) : (w.orFlags f).q = w.q := rfl
@[simp] theorem Warp.orFlags_vpc (w : Warp) (f : Fl) : (w.orFlags f).vpc = w.vpc := rfl
@[simp] theorem Warp.orFlags_lc (w : Warp) (f : Fl) : (w.orFlags f).lc = w.lc := rfl
@[simp] theorem Warp.orFlags_jm (w : Warp) (f : Fl) : (w.orFlags f).jm = w.jm := rfl
@[simp] theorem Warp.orFlags_link (w : Warp) (f : Fl) : (w.orFlags f).link = w.link := rfl
@[simp] theorem Warp.orFlags_fpflags (w : Warp) (f : Fl) : (w.orFlags f).fpflags = w.fpflags ||| f.zeroExtend 32 := rfl
@[simp] theorem Warp.orFlags_age (w : Warp) (f : Fl) : (w.orFlags f).age = w.age := rfl
@[simp] theorem Warp.orFlags_trc (w : Warp) (f : Fl) : (w.orFlags f).trc = w.trc := rfl
@[simp] theorem Warp.orFlags_taskst (w : Warp) (f : Fl) : (w.orFlags f).taskst = w.taskst := rfl
@[simp] theorem Warp.orFlags_live (w : Warp) (f : Fl) : (w.orFlags f).live = w.live := rfl
@[simp] theorem Warp.orFlags_waitK (w : Warp) (f : Fl) : (w.orFlags f).waitK = w.waitK := rfl
@[simp] theorem Warp.orFlags_loops (w : Warp) (f : Fl) : (w.orFlags f).loops = w.loops := rfl
@[simp] theorem Warp.orFlags_windows (w : Warp) (f : Fl) : (w.orFlags f).windows = w.windows := rfl
@[simp] theorem Warp.orFlags_storeQ (w : Warp) (f : Fl) : (w.orFlags f).storeQ = w.storeQ := rfl
@[simp] theorem Warp.orFlags_opLog (w : Warp) (f : Fl) : (w.orFlags f).opLog = w.opLog := rfl
@[simp] theorem Warp.orFlags_pending (w : Warp) (f : Fl) : (w.orFlags f).pending = w.pending := rfl
@[simp] theorem Warp.orFlags_wait (w : Warp) (f : Fl) : (w.orFlags f).wait = w.wait := rfl
@[simp] theorem Warp.orFlags_tcause (w : Warp) (f : Fl) : (w.orFlags f).tcause = w.tcause := rfl
@[simp] theorem Warp.orFlags_tpc (w : Warp) (f : Fl) : (w.orFlags f).tpc = w.tpc := rfl
@[simp] theorem Warp.orFlags_taddr (w : Warp) (f : Fl) : (w.orFlags f).taddr = w.taddr := rfl
@[simp] theorem Warp.orFlags_tlanes (w : Warp) (f : Fl) : (w.orFlags f).tlanes = w.tlanes := rfl
@[simp] theorem Warp.orFlags_tinfo (w : Warp) (f : Fl) : (w.orFlags f).tinfo = w.tinfo := rfl
@[simp] theorem Warp.orFlags_inh (w : Warp) (f : Fl) : (w.orFlags f).inh = w.inh := rfl
@[simp] theorem Warp.orFlags_t0 (w : Warp) (f : Fl) : (w.orFlags f).t0 = w.t0 := rfl
@[simp] theorem Warp.orFlags_tact (w : Warp) (f : Fl) : (w.orFlags f).tact = w.tact := rfl
@[simp] theorem Warp.orFlags_hpc (w : Warp) (f : Fl) : (w.orFlags f).hpc = w.hpc := rfl
@[simp] theorem Warp.orFlags_hseq (w : Warp) (f : Fl) : (w.orFlags f).hseq = w.hseq := rfl
@[simp] theorem Warp.orFlags_tretDue (w : Warp) (f : Fl) : (w.orFlags f).tretDue = w.tretDue := rfl
@[simp] theorem Warp.orFlags_dcause (w : Warp) (f : Fl) : (w.orFlags f).dcause = w.dcause := rfl
@[simp] theorem Warp.orFlags_hs (w : Warp) (f : Fl) : (w.orFlags f).hs = w.hs := rfl
@[simp] theorem Warp.orFlags_hq (w : Warp) (f : Fl) : (w.orFlags f).hq = w.hq := rfl
@[simp] theorem Warp.orFlags_hloops (w : Warp) (f : Fl) : (w.orFlags f).hloops = w.hloops := rfl
@[simp] theorem Warp.orFlags_deferredWound (w : Warp) (f : Fl) : (w.orFlags f).deferredWound = w.deferredWound := rfl
@[simp] theorem Warp.orFlags_deferredRetry (w : Warp) (f : Fl) : (w.orFlags f).deferredRetry = w.deferredRetry := rfl
@[simp] theorem Warp.orFlags_prologue (w : Warp) (f : Fl) : (w.orFlags f).prologue = w.prologue := rfl
@[simp] theorem Warp.orFlags_taskPending (w : Warp) (f : Fl) : (w.orFlags f).taskPending = w.taskPending := rfl
@[simp] theorem Warp.orFlags_task (w : Warp) (f : Fl) : (w.orFlags f).task = w.task := rfl
@[simp] theorem Warp.orFlags_privIndex (w : Warp) (f : Fl) : (w.orFlags f).privIndex = w.privIndex := rfl
@[simp] theorem Warp.orFlags_gained (w : Warp) (f : Fl) : (w.orFlags f).gained = w.gained := rfl
@[simp] theorem Warp.orFlags_counted (w : Warp) (f : Fl) : (w.orFlags f).counted = w.counted := rfl
@[simp] theorem Warp.orFlags_seq (w : Warp) (f : Fl) : (w.orFlags f).seq = w.seq := rfl
@[simp] theorem Warp.orFlags_exited (w : Warp) (f : Fl) : (w.orFlags f).exited = w.exited := rfl
@[simp] theorem Warp.orFlags_badRegs (w : Warp) (f : Fl) : (w.orFlags f).badRegs = w.badRegs := rfl

/-! ## Warp.moveLanes -/

@[simp] theorem Warp.moveLanes_team (w : Warp) (m : LaneMask) (f : Nat → Nat) : (w.moveLanes m f).team = w.team := rfl
@[simp] theorem Warp.moveLanes_core (w : Warp) (m : LaneMask) (f : Nat → Nat) : (w.moveLanes m f).core = w.core := rfl
@[simp] theorem Warp.moveLanes_part (w : Warp) (m : LaneMask) (f : Nat → Nat) : (w.moveLanes m f).part = w.part := rfl
@[simp] theorem Warp.moveLanes_num (w : Warp) (m : LaneMask) (f : Nat → Nat) : (w.moveLanes m f).num = w.num := rfl
@[simp] theorem Warp.moveLanes_role (w : Warp) (m : LaneMask) (f : Nat → Nat) : (w.moveLanes m f).role = w.role := rfl
@[simp] theorem Warp.moveLanes_pipe (w : Warp) (m : LaneMask) (f : Nat → Nat) : (w.moveLanes m f).pipe = w.pipe := rfl
@[simp] theorem Warp.moveLanes_vregs (w : Warp) (m : LaneMask) (f : Nat → Nat) : (w.moveLanes m f).vregs = w.vregs := rfl
@[simp] theorem Warp.moveLanes_v (w : Warp) (m : LaneMask) (f : Nat → Nat) : (w.moveLanes m f).v = w.v := rfl
@[simp] theorem Warp.moveLanes_s (w : Warp) (m : LaneMask) (f : Nat → Nat) : (w.moveLanes m f).s = w.s := rfl
@[simp] theorem Warp.moveLanes_p (w : Warp) (m : LaneMask) (f : Nat → Nat) : (w.moveLanes m f).p = w.p := rfl
@[simp] theorem Warp.moveLanes_q (w : Warp) (m : LaneMask) (f : Nat → Nat) : (w.moveLanes m f).q = w.q := rfl
@[simp] theorem Warp.moveLanes_lc (w : Warp) (m : LaneMask) (f : Nat → Nat) : (w.moveLanes m f).lc = w.lc := rfl
@[simp] theorem Warp.moveLanes_jm (w : Warp) (m : LaneMask) (f : Nat → Nat) : (w.moveLanes m f).jm = w.jm := rfl
@[simp] theorem Warp.moveLanes_link (w : Warp) (m : LaneMask) (f : Nat → Nat) : (w.moveLanes m f).link = w.link := rfl
@[simp] theorem Warp.moveLanes_fpflags (w : Warp) (m : LaneMask) (f : Nat → Nat) : (w.moveLanes m f).fpflags = w.fpflags := rfl
@[simp] theorem Warp.moveLanes_age (w : Warp) (m : LaneMask) (f : Nat → Nat) : (w.moveLanes m f).age = w.age := rfl
@[simp] theorem Warp.moveLanes_trc (w : Warp) (m : LaneMask) (f : Nat → Nat) : (w.moveLanes m f).trc = w.trc := rfl
@[simp] theorem Warp.moveLanes_taskst (w : Warp) (m : LaneMask) (f : Nat → Nat) : (w.moveLanes m f).taskst = w.taskst := rfl
@[simp] theorem Warp.moveLanes_live (w : Warp) (m : LaneMask) (f : Nat → Nat) : (w.moveLanes m f).live = w.live := rfl
@[simp] theorem Warp.moveLanes_waitK (w : Warp) (m : LaneMask) (f : Nat → Nat) : (w.moveLanes m f).waitK = w.waitK := rfl
@[simp] theorem Warp.moveLanes_loops (w : Warp) (m : LaneMask) (f : Nat → Nat) : (w.moveLanes m f).loops = w.loops := rfl
@[simp] theorem Warp.moveLanes_windows (w : Warp) (m : LaneMask) (f : Nat → Nat) : (w.moveLanes m f).windows = w.windows := rfl
@[simp] theorem Warp.moveLanes_storeQ (w : Warp) (m : LaneMask) (f : Nat → Nat) : (w.moveLanes m f).storeQ = w.storeQ := rfl
@[simp] theorem Warp.moveLanes_opLog (w : Warp) (m : LaneMask) (f : Nat → Nat) : (w.moveLanes m f).opLog = w.opLog := rfl
@[simp] theorem Warp.moveLanes_pending (w : Warp) (m : LaneMask) (f : Nat → Nat) : (w.moveLanes m f).pending = w.pending := rfl
@[simp] theorem Warp.moveLanes_wait (w : Warp) (m : LaneMask) (f : Nat → Nat) : (w.moveLanes m f).wait = w.wait := rfl
@[simp] theorem Warp.moveLanes_tcause (w : Warp) (m : LaneMask) (f : Nat → Nat) : (w.moveLanes m f).tcause = w.tcause := rfl
@[simp] theorem Warp.moveLanes_tpc (w : Warp) (m : LaneMask) (f : Nat → Nat) : (w.moveLanes m f).tpc = w.tpc := rfl
@[simp] theorem Warp.moveLanes_taddr (w : Warp) (m : LaneMask) (f : Nat → Nat) : (w.moveLanes m f).taddr = w.taddr := rfl
@[simp] theorem Warp.moveLanes_tlanes (w : Warp) (m : LaneMask) (f : Nat → Nat) : (w.moveLanes m f).tlanes = w.tlanes := rfl
@[simp] theorem Warp.moveLanes_tinfo (w : Warp) (m : LaneMask) (f : Nat → Nat) : (w.moveLanes m f).tinfo = w.tinfo := rfl
@[simp] theorem Warp.moveLanes_inh (w : Warp) (m : LaneMask) (f : Nat → Nat) : (w.moveLanes m f).inh = w.inh := rfl
@[simp] theorem Warp.moveLanes_t0 (w : Warp) (m : LaneMask) (f : Nat → Nat) : (w.moveLanes m f).t0 = w.t0 := rfl
@[simp] theorem Warp.moveLanes_tact (w : Warp) (m : LaneMask) (f : Nat → Nat) : (w.moveLanes m f).tact = w.tact := rfl
@[simp] theorem Warp.moveLanes_hpc (w : Warp) (m : LaneMask) (f : Nat → Nat) : (w.moveLanes m f).hpc = w.hpc := rfl
@[simp] theorem Warp.moveLanes_hseq (w : Warp) (m : LaneMask) (f : Nat → Nat) : (w.moveLanes m f).hseq = w.hseq := rfl
@[simp] theorem Warp.moveLanes_tretDue (w : Warp) (m : LaneMask) (f : Nat → Nat) : (w.moveLanes m f).tretDue = w.tretDue := rfl
@[simp] theorem Warp.moveLanes_dcause (w : Warp) (m : LaneMask) (f : Nat → Nat) : (w.moveLanes m f).dcause = w.dcause := rfl
@[simp] theorem Warp.moveLanes_hs (w : Warp) (m : LaneMask) (f : Nat → Nat) : (w.moveLanes m f).hs = w.hs := rfl
@[simp] theorem Warp.moveLanes_hq (w : Warp) (m : LaneMask) (f : Nat → Nat) : (w.moveLanes m f).hq = w.hq := rfl
@[simp] theorem Warp.moveLanes_hloops (w : Warp) (m : LaneMask) (f : Nat → Nat) : (w.moveLanes m f).hloops = w.hloops := rfl
@[simp] theorem Warp.moveLanes_deferredWound (w : Warp) (m : LaneMask) (f : Nat → Nat) : (w.moveLanes m f).deferredWound = w.deferredWound := rfl
@[simp] theorem Warp.moveLanes_deferredRetry (w : Warp) (m : LaneMask) (f : Nat → Nat) : (w.moveLanes m f).deferredRetry = w.deferredRetry := rfl
@[simp] theorem Warp.moveLanes_prologue (w : Warp) (m : LaneMask) (f : Nat → Nat) : (w.moveLanes m f).prologue = w.prologue := rfl
@[simp] theorem Warp.moveLanes_taskPending (w : Warp) (m : LaneMask) (f : Nat → Nat) : (w.moveLanes m f).taskPending = w.taskPending := rfl
@[simp] theorem Warp.moveLanes_task (w : Warp) (m : LaneMask) (f : Nat → Nat) : (w.moveLanes m f).task = w.task := rfl
@[simp] theorem Warp.moveLanes_privIndex (w : Warp) (m : LaneMask) (f : Nat → Nat) : (w.moveLanes m f).privIndex = w.privIndex := rfl
@[simp] theorem Warp.moveLanes_gained (w : Warp) (m : LaneMask) (f : Nat → Nat) : (w.moveLanes m f).gained = w.gained := rfl
@[simp] theorem Warp.moveLanes_counted (w : Warp) (m : LaneMask) (f : Nat → Nat) : (w.moveLanes m f).counted = w.counted := rfl
@[simp] theorem Warp.moveLanes_seq (w : Warp) (m : LaneMask) (f : Nat → Nat) : (w.moveLanes m f).seq = w.seq := rfl
@[simp] theorem Warp.moveLanes_exited (w : Warp) (m : LaneMask) (f : Nat → Nat) : (w.moveLanes m f).exited = w.exited := rfl
@[simp] theorem Warp.moveLanes_badRegs (w : Warp) (m : LaneMask) (f : Nat → Nat) : (w.moveLanes m f).badRegs = w.badRegs := rfl

/-! ## Warp.trapState -/

@[simp] theorem Warp.trapState_team (w : Warp) (t : TrapReq) (pc : Nat) (act : LaneMask) : (w.trapState t pc act).team = w.team := rfl
@[simp] theorem Warp.trapState_core (w : Warp) (t : TrapReq) (pc : Nat) (act : LaneMask) : (w.trapState t pc act).core = w.core := rfl
@[simp] theorem Warp.trapState_part (w : Warp) (t : TrapReq) (pc : Nat) (act : LaneMask) : (w.trapState t pc act).part = w.part := rfl
@[simp] theorem Warp.trapState_num (w : Warp) (t : TrapReq) (pc : Nat) (act : LaneMask) : (w.trapState t pc act).num = w.num := rfl
@[simp] theorem Warp.trapState_role (w : Warp) (t : TrapReq) (pc : Nat) (act : LaneMask) : (w.trapState t pc act).role = w.role := rfl
@[simp] theorem Warp.trapState_pipe (w : Warp) (t : TrapReq) (pc : Nat) (act : LaneMask) : (w.trapState t pc act).pipe = w.pipe := rfl
@[simp] theorem Warp.trapState_vregs (w : Warp) (t : TrapReq) (pc : Nat) (act : LaneMask) : (w.trapState t pc act).vregs = w.vregs := rfl
@[simp] theorem Warp.trapState_v (w : Warp) (t : TrapReq) (pc : Nat) (act : LaneMask) : (w.trapState t pc act).v = w.v := rfl
@[simp] theorem Warp.trapState_s (w : Warp) (t : TrapReq) (pc : Nat) (act : LaneMask) : (w.trapState t pc act).s = w.s := rfl
@[simp] theorem Warp.trapState_p (w : Warp) (t : TrapReq) (pc : Nat) (act : LaneMask) : (w.trapState t pc act).p = w.p := rfl
@[simp] theorem Warp.trapState_q (w : Warp) (t : TrapReq) (pc : Nat) (act : LaneMask) : (w.trapState t pc act).q = w.q := rfl
@[simp] theorem Warp.trapState_vpc (w : Warp) (t : TrapReq) (pc : Nat) (act : LaneMask) : (w.trapState t pc act).vpc = w.vpc := rfl
@[simp] theorem Warp.trapState_lc (w : Warp) (t : TrapReq) (pc : Nat) (act : LaneMask) : (w.trapState t pc act).lc = w.lc := rfl
@[simp] theorem Warp.trapState_jm (w : Warp) (t : TrapReq) (pc : Nat) (act : LaneMask) : (w.trapState t pc act).jm = w.jm := rfl
@[simp] theorem Warp.trapState_link (w : Warp) (t : TrapReq) (pc : Nat) (act : LaneMask) : (w.trapState t pc act).link = w.link := rfl
@[simp] theorem Warp.trapState_fpflags (w : Warp) (t : TrapReq) (pc : Nat) (act : LaneMask) : (w.trapState t pc act).fpflags = w.fpflags := rfl
@[simp] theorem Warp.trapState_age (w : Warp) (t : TrapReq) (pc : Nat) (act : LaneMask) : (w.trapState t pc act).age = w.age := rfl
@[simp] theorem Warp.trapState_trc (w : Warp) (t : TrapReq) (pc : Nat) (act : LaneMask) : (w.trapState t pc act).trc = w.trc := rfl
@[simp] theorem Warp.trapState_taskst (w : Warp) (t : TrapReq) (pc : Nat) (act : LaneMask) : (w.trapState t pc act).taskst = w.taskst := rfl
@[simp] theorem Warp.trapState_live (w : Warp) (t : TrapReq) (pc : Nat) (act : LaneMask) : (w.trapState t pc act).live = w.live := rfl
@[simp] theorem Warp.trapState_waitK (w : Warp) (t : TrapReq) (pc : Nat) (act : LaneMask) : (w.trapState t pc act).waitK = w.waitK := rfl
@[simp] theorem Warp.trapState_loops (w : Warp) (t : TrapReq) (pc : Nat) (act : LaneMask) : (w.trapState t pc act).loops = w.loops := rfl
@[simp] theorem Warp.trapState_windows (w : Warp) (t : TrapReq) (pc : Nat) (act : LaneMask) : (w.trapState t pc act).windows = w.windows := rfl
@[simp] theorem Warp.trapState_storeQ (w : Warp) (t : TrapReq) (pc : Nat) (act : LaneMask) : (w.trapState t pc act).storeQ = w.storeQ := rfl
@[simp] theorem Warp.trapState_opLog (w : Warp) (t : TrapReq) (pc : Nat) (act : LaneMask) : (w.trapState t pc act).opLog = w.opLog := rfl
@[simp] theorem Warp.trapState_pending (w : Warp) (t : TrapReq) (pc : Nat) (act : LaneMask) : (w.trapState t pc act).pending = w.pending := rfl
@[simp] theorem Warp.trapState_wait (w : Warp) (t : TrapReq) (pc : Nat) (act : LaneMask) : (w.trapState t pc act).wait = w.wait := rfl
@[simp] theorem Warp.trapState_tcause (w : Warp) (t : TrapReq) (pc : Nat) (act : LaneMask) : (w.trapState t pc act).tcause = t.cause.code := rfl
@[simp] theorem Warp.trapState_tpc (w : Warp) (t : TrapReq) (pc : Nat) (act : LaneMask) : (w.trapState t pc act).tpc = BitVec.ofNat 64 pc := rfl
@[simp] theorem Warp.trapState_taddr (w : Warp) (t : TrapReq) (pc : Nat) (act : LaneMask) : (w.trapState t pc act).taddr = BitVec.ofNat 64 t.addr := rfl
@[simp] theorem Warp.trapState_tlanes (w : Warp) (t : TrapReq) (pc : Nat) (act : LaneMask) : (w.trapState t pc act).tlanes = t.lanes := rfl
@[simp] theorem Warp.trapState_tinfo (w : Warp) (t : TrapReq) (pc : Nat) (act : LaneMask) : (w.trapState t pc act).tinfo = t.info := rfl
@[simp] theorem Warp.trapState_inh (w : Warp) (t : TrapReq) (pc : Nat) (act : LaneMask) : (w.trapState t pc act).inh = w.inh := rfl
@[simp] theorem Warp.trapState_t0 (w : Warp) (t : TrapReq) (pc : Nat) (act : LaneMask) : (w.trapState t pc act).t0 = BitVec.ofNat 64 pc := rfl
@[simp] theorem Warp.trapState_tact (w : Warp) (t : TrapReq) (pc : Nat) (act : LaneMask) : (w.trapState t pc act).tact = act := rfl
@[simp] theorem Warp.trapState_hpc (w : Warp) (t : TrapReq) (pc : Nat) (act : LaneMask) : (w.trapState t pc act).hpc = w.hpc := rfl
@[simp] theorem Warp.trapState_hseq (w : Warp) (t : TrapReq) (pc : Nat) (act : LaneMask) : (w.trapState t pc act).hseq = w.hseq := rfl
@[simp] theorem Warp.trapState_tretDue (w : Warp) (t : TrapReq) (pc : Nat) (act : LaneMask) : (w.trapState t pc act).tretDue = w.tretDue := rfl
@[simp] theorem Warp.trapState_dcause (w : Warp) (t : TrapReq) (pc : Nat) (act : LaneMask) : (w.trapState t pc act).dcause = w.dcause := rfl
@[simp] theorem Warp.trapState_hs (w : Warp) (t : TrapReq) (pc : Nat) (act : LaneMask) : (w.trapState t pc act).hs = w.hs := rfl
@[simp] theorem Warp.trapState_hq (w : Warp) (t : TrapReq) (pc : Nat) (act : LaneMask) : (w.trapState t pc act).hq = w.hq := rfl
@[simp] theorem Warp.trapState_hloops (w : Warp) (t : TrapReq) (pc : Nat) (act : LaneMask) : (w.trapState t pc act).hloops = w.hloops := rfl
@[simp] theorem Warp.trapState_deferredWound (w : Warp) (t : TrapReq) (pc : Nat) (act : LaneMask) : (w.trapState t pc act).deferredWound = w.deferredWound := rfl
@[simp] theorem Warp.trapState_deferredRetry (w : Warp) (t : TrapReq) (pc : Nat) (act : LaneMask) : (w.trapState t pc act).deferredRetry = w.deferredRetry := rfl
@[simp] theorem Warp.trapState_prologue (w : Warp) (t : TrapReq) (pc : Nat) (act : LaneMask) : (w.trapState t pc act).prologue = w.prologue := rfl
@[simp] theorem Warp.trapState_taskPending (w : Warp) (t : TrapReq) (pc : Nat) (act : LaneMask) : (w.trapState t pc act).taskPending = w.taskPending := rfl
@[simp] theorem Warp.trapState_task (w : Warp) (t : TrapReq) (pc : Nat) (act : LaneMask) : (w.trapState t pc act).task = w.task := rfl
@[simp] theorem Warp.trapState_privIndex (w : Warp) (t : TrapReq) (pc : Nat) (act : LaneMask) : (w.trapState t pc act).privIndex = w.privIndex := rfl
@[simp] theorem Warp.trapState_gained (w : Warp) (t : TrapReq) (pc : Nat) (act : LaneMask) : (w.trapState t pc act).gained = w.gained := rfl
@[simp] theorem Warp.trapState_counted (w : Warp) (t : TrapReq) (pc : Nat) (act : LaneMask) : (w.trapState t pc act).counted = w.counted := rfl
@[simp] theorem Warp.trapState_seq (w : Warp) (t : TrapReq) (pc : Nat) (act : LaneMask) : (w.trapState t pc act).seq = w.seq := rfl
@[simp] theorem Warp.trapState_exited (w : Warp) (t : TrapReq) (pc : Nat) (act : LaneMask) : (w.trapState t pc act).exited = w.exited := rfl
@[simp] theorem Warp.trapState_badRegs (w : Warp) (t : TrapReq) (pc : Nat) (act : LaneMask) : (w.trapState t pc act).badRegs = w.soundTraps true := rfl

/-! ## Warp.enterHandler -/

@[simp] theorem Warp.enterHandler_team (w : Warp) (n : Nat) : (w.enterHandler n).team = w.team := rfl
@[simp] theorem Warp.enterHandler_core (w : Warp) (n : Nat) : (w.enterHandler n).core = w.core := rfl
@[simp] theorem Warp.enterHandler_part (w : Warp) (n : Nat) : (w.enterHandler n).part = w.part := rfl
@[simp] theorem Warp.enterHandler_num (w : Warp) (n : Nat) : (w.enterHandler n).num = w.num := rfl
@[simp] theorem Warp.enterHandler_role (w : Warp) (n : Nat) : (w.enterHandler n).role = w.role := rfl
@[simp] theorem Warp.enterHandler_pipe (w : Warp) (n : Nat) : (w.enterHandler n).pipe = w.pipe := rfl
@[simp] theorem Warp.enterHandler_vregs (w : Warp) (n : Nat) : (w.enterHandler n).vregs = w.vregs := rfl
@[simp] theorem Warp.enterHandler_v (w : Warp) (n : Nat) : (w.enterHandler n).v = w.v := rfl
@[simp] theorem Warp.enterHandler_s (w : Warp) (n : Nat) : (w.enterHandler n).s = w.s := rfl
@[simp] theorem Warp.enterHandler_p (w : Warp) (n : Nat) : (w.enterHandler n).p = w.p := rfl
@[simp] theorem Warp.enterHandler_q (w : Warp) (n : Nat) : (w.enterHandler n).q = w.q := rfl
@[simp] theorem Warp.enterHandler_vpc (w : Warp) (n : Nat) : (w.enterHandler n).vpc = w.vpc := rfl
@[simp] theorem Warp.enterHandler_lc (w : Warp) (n : Nat) : (w.enterHandler n).lc = w.lc := rfl
@[simp] theorem Warp.enterHandler_jm (w : Warp) (n : Nat) : (w.enterHandler n).jm = w.jm := rfl
@[simp] theorem Warp.enterHandler_link (w : Warp) (n : Nat) : (w.enterHandler n).link = w.link := rfl
@[simp] theorem Warp.enterHandler_fpflags (w : Warp) (n : Nat) : (w.enterHandler n).fpflags = w.fpflags := rfl
@[simp] theorem Warp.enterHandler_age (w : Warp) (n : Nat) : (w.enterHandler n).age = w.age := rfl
@[simp] theorem Warp.enterHandler_trc (w : Warp) (n : Nat) : (w.enterHandler n).trc = w.trc := rfl
@[simp] theorem Warp.enterHandler_taskst (w : Warp) (n : Nat) : (w.enterHandler n).taskst = w.taskst := rfl
@[simp] theorem Warp.enterHandler_live (w : Warp) (n : Nat) : (w.enterHandler n).live = w.live := rfl
@[simp] theorem Warp.enterHandler_waitK (w : Warp) (n : Nat) : (w.enterHandler n).waitK = w.waitK := rfl
@[simp] theorem Warp.enterHandler_loops (w : Warp) (n : Nat) : (w.enterHandler n).loops = w.loops := rfl
@[simp] theorem Warp.enterHandler_windows (w : Warp) (n : Nat) : (w.enterHandler n).windows = w.windows := rfl
@[simp] theorem Warp.enterHandler_storeQ (w : Warp) (n : Nat) : (w.enterHandler n).storeQ = w.storeQ := rfl
@[simp] theorem Warp.enterHandler_opLog (w : Warp) (n : Nat) : (w.enterHandler n).opLog = w.opLog := rfl
@[simp] theorem Warp.enterHandler_pending (w : Warp) (n : Nat) : (w.enterHandler n).pending = w.pending := rfl
@[simp] theorem Warp.enterHandler_wait (w : Warp) (n : Nat) : (w.enterHandler n).wait = w.wait := rfl
@[simp] theorem Warp.enterHandler_tcause (w : Warp) (n : Nat) : (w.enterHandler n).tcause = w.tcause := rfl
@[simp] theorem Warp.enterHandler_tpc (w : Warp) (n : Nat) : (w.enterHandler n).tpc = w.tpc := rfl
@[simp] theorem Warp.enterHandler_taddr (w : Warp) (n : Nat) : (w.enterHandler n).taddr = w.taddr := rfl
@[simp] theorem Warp.enterHandler_tlanes (w : Warp) (n : Nat) : (w.enterHandler n).tlanes = w.tlanes := rfl
@[simp] theorem Warp.enterHandler_tinfo (w : Warp) (n : Nat) : (w.enterHandler n).tinfo = w.tinfo := rfl
@[simp] theorem Warp.enterHandler_inh (w : Warp) (n : Nat) : (w.enterHandler n).inh = true := rfl
@[simp] theorem Warp.enterHandler_t0 (w : Warp) (n : Nat) : (w.enterHandler n).t0 = w.t0 := rfl
@[simp] theorem Warp.enterHandler_tact (w : Warp) (n : Nat) : (w.enterHandler n).tact = w.tact := rfl
@[simp] theorem Warp.enterHandler_hpc (w : Warp) (n : Nat) : (w.enterHandler n).hpc = n := rfl
@[simp] theorem Warp.enterHandler_hseq (w : Warp) (n : Nat) : (w.enterHandler n).hseq = w.seq := rfl
@[simp] theorem Warp.enterHandler_tretDue (w : Warp) (n : Nat) : (w.enterHandler n).tretDue = w.tretDue := rfl
@[simp] theorem Warp.enterHandler_dcause (w : Warp) (n : Nat) : (w.enterHandler n).dcause = w.dcause := rfl
@[simp] theorem Warp.enterHandler_hs (w : Warp) (n : Nat) : (w.enterHandler n).hs = w.hs := rfl
@[simp] theorem Warp.enterHandler_hq (w : Warp) (n : Nat) : (w.enterHandler n).hq = 0 := rfl
@[simp] theorem Warp.enterHandler_hloops (w : Warp) (n : Nat) : (w.enterHandler n).hloops = [] := rfl
@[simp] theorem Warp.enterHandler_deferredWound (w : Warp) (n : Nat) : (w.enterHandler n).deferredWound = w.deferredWound := rfl
@[simp] theorem Warp.enterHandler_deferredRetry (w : Warp) (n : Nat) : (w.enterHandler n).deferredRetry = w.deferredRetry := rfl
@[simp] theorem Warp.enterHandler_prologue (w : Warp) (n : Nat) : (w.enterHandler n).prologue = w.prologue := rfl
@[simp] theorem Warp.enterHandler_taskPending (w : Warp) (n : Nat) : (w.enterHandler n).taskPending = w.taskPending := rfl
@[simp] theorem Warp.enterHandler_task (w : Warp) (n : Nat) : (w.enterHandler n).task = w.task := rfl
@[simp] theorem Warp.enterHandler_privIndex (w : Warp) (n : Nat) : (w.enterHandler n).privIndex = w.privIndex := rfl
@[simp] theorem Warp.enterHandler_gained (w : Warp) (n : Nat) : (w.enterHandler n).gained = w.gained := rfl
@[simp] theorem Warp.enterHandler_counted (w : Warp) (n : Nat) : (w.enterHandler n).counted = w.counted := rfl
@[simp] theorem Warp.enterHandler_seq (w : Warp) (n : Nat) : (w.enterHandler n).seq = w.seq := rfl
@[simp] theorem Warp.enterHandler_exited (w : Warp) (n : Nat) : (w.enterHandler n).exited = w.exited := rfl
@[simp] theorem Warp.enterHandler_badRegs (w : Warp) (n : Nat) : (w.enterHandler n).badRegs = w.badRegs.filter fun u => u.1 != 5 := rfl

end Sys2Proof.Machine
end

