-- ==== Sys2Proof/Laws/Shared.lean ====
section
/-! SUPPORT. What each shared operation can do: the ends of a word, the decode causes, taking a trap, and what they leave. -/

namespace Sys2Proof.Machine

open Sys2Proof

/-! ## Memory under the shared operations -/

theorem memOk_raiseVec {s : State} (h : State.memOk s) (v : Nat) : State.memOk (s.raiseVec v) :=
  memOk_of_eq h rfl rfl rfl

theorem memOk_appendEvent {s : State} (h : State.memOk s) (n kind warp core : Nat) (code datum : W32) :
    State.memOk (s.appendEvent n kind warp core code datum) := by
  unfold State.appendEvent
  exact memOk_raiseVec (memOk_with_events (memOk_devWrite (memOk_devWrite h _ _) _ _) _) _

theorem memOk_hostError {s : State} (h : State.memOk s) (ctx warp core : Nat) (code datum : W32) :
    State.memOk (s.hostError ctx warp core code datum) := by
  unfold State.hostError
  simp only
  split
  · exact memOk_raiseVec (memOk_with_err (memOk_devWrite h _ _) _) _
  · exact memOk_with_err h _

theorem memOk_readRidx {s : State} (h : State.memOk s) (n : Nat) : State.memOk (s.readRidx n) := by
  unfold State.readRidx
  simp only
  split
  · exact h
  · exact memOk_hostError h _ _ _ _ _

theorem memOk_ite {c : Prop} [Decidable c] {a b : State} (ha : State.memOk a) (hb : State.memOk b) :
    State.memOk (if c then a else b) := by
  split <;> assumption

theorem memOk_postEvent {s : State} (h : State.memOk s) (n kind warp core : Nat) (code datum : W32) :
    State.memOk (s.postEvent n kind warp core code datum) := by
  have h1 : State.memOk (if (s.eventQ n).on then s.readRidx n else s) := memOk_ite (memOk_readRidx h n) h
  exact memOk_ite (memOk_appendEvent h1 _ _ _ _ _ _) (memOk_with_events h1 _)

theorem memOk_reportBad {s : State} (h : State.memOk s) (ctx warp core kind addr : Nat) :
    State.memOk (s.reportBad ctx warp core kind addr) :=
  memOk_hostError (memOk_postEvent h _ _ _ _ _ _) _ _ _ _ _

theorem memOk_setWarp {s : State} (h : State.memOk s) (k : Nat) (w : Warp) : State.memOk (s.setWarp k w) := h

theorem memOk_halt {s : State} (h : State.memOk s) (tid : Nat) (w : Warp) : State.memOk (halt s tid w) := by
  unfold halt
  split
  · exact h
  · exact h

theorem memOk_dropWaiters {s : State} (h : State.memOk s) (p : Waiter → Bool) : State.memOk (s.dropWaiters p) := h

theorem memOk_withdraw {s : State} (h : State.memOk s) (w : Warp) : State.memOk (withdraw s w) := by
  unfold withdraw
  split
  · split
    · exact h
    · exact h
    · exact h
  · exact h

/-- Taking a trap keeps memory canonical. -/
theorem memOk_deliver {s : State} (h : State.memOk s) (wid : Nat) (w : Warp) (t : TrapReq) (pc : Nat) (act : LaneMask) :
    State.memOk (deliver s wid w t pc act) := by
  have hw := memOk_dropWaiters (memOk_withdraw h w) (Waiter.ofWord wid)
  unfold deliver
  simp only
  split
  · exact memOk_halt (memOk_setWarp hw wid _) _ _
  · split
    · exact memOk_halt (memOk_setWarp hw wid _) _ _
    · exact memOk_setWarp hw wid _

/-! ## The ends of a word -/

/-- The state that a body leaves, where its effect or its trap has one. -/
def Res.state? (s : State) : Res → Option State
  | .done t _ | .moved t _ | .trapIn t _ _ => some t
  | .trap _ => some s
  | .stop _ => none

/-- A word that answers a next state has its effect, goes on or waits; or a trap is taken, in the state before it, or in the
one that a trap with effects leaves. -/
theorem finish_cases {s : State} {w : Warp} {i : Instr} {lanes : LaneMask} {r : Res} {t : State}
    (h : finish s w i lanes r = .next t) :
    (∃ s' w', r = .done s' w' ∧ loopFault w i = false ∧ t = s'.setWarp s'.cur
      { (w'.issued i).fallTo w.active (w.issueAddr + i.len) with wait := none, counted := w.inh && w.counted }) ∨
    (∃ s' w', r = .moved s' w' ∧ loopFault w i = false ∧
      t = s'.setWarp s'.cur { w'.issued i with counted := if w.inh then w'.counted else w'.wait.isSome }) ∨
    (∃ c, t = deliver s s.cur w c w.issueAddr w.active) ∨
    ∃ s' w' c, r = .trapIn s' w' c ∧ t = deliver s' s'.cur w' c w.issueAddr w.active := by
  unfold finish at h
  simp only at h
  split at h
  · split at h
    · cases h; exact .inr (.inr (.inl ⟨_, rfl⟩))
    · next hb => cases h; exact .inl ⟨_, _, rfl, by simpa using hb, rfl⟩
  · split at h
    · cases h; exact .inr (.inr (.inl ⟨_, rfl⟩))
    · next hb => cases h; exact .inr (.inl ⟨_, _, rfl, by simpa using hb, rfl⟩)
  · cases h; exact .inr (.inr (.inl ⟨_, rfl⟩))
  · split at h
    · cases h; exact .inr (.inr (.inl ⟨_, rfl⟩))
    · cases h; exact .inr (.inr (.inr ⟨_, _, _, rfl, rfl⟩))
  · cases h

/-- A word never answers a refusal, and a fault only where its body stops. -/
theorem finish_refused (s : State) (w : Warp) (i : Instr) (lanes : LaneMask) (r : Res) (q : Refusal) :
    finish s w i lanes r ≠ .refused q := by
  unfold finish
  simp only
  split
  all_goals first
    | (split <;> exact fun h => nomatch h)
    | exact fun h => nomatch h

/-- A word keeps memory canonical where its body does. -/
theorem memOk_finish {s : State} {w : Warp} {i : Instr} {lanes : LaneMask} {r : Res} {t : State} (hs : State.memOk s)
    (hr : ∀ s', r.state? s = some s' → State.memOk s') (h : finish s w i lanes r = .next t) : State.memOk t := by
  rcases finish_cases h with ⟨s', w', rfl, -, rfl⟩ | ⟨s', w', rfl, -, rfl⟩ | ⟨c, rfl⟩ | ⟨s', w', c, rfl, rfl⟩
  · exact memOk_setWarp (hr s' rfl) _ _
  · exact memOk_setWarp (hr s' rfl) _ _
  · exact memOk_deliver hs _ _ _ _ _
  · exact memOk_deliver (hr s' rfl) _ _ _ _ _

/-- A lane word that answers a next state: a decode cause is taken, or its body ends it. -/
theorem laneOp_cases {i : Instr} {h : LaneHdr} {groups : List (Nat × Nat)} {ok : Warp → Bool} {s t : State}
    {body : Warp → LaneMask → Res} (e : laneOp i h groups ok s body = .next t) :
    ∃ w, s.warp? s.cur = some w ∧
      ((∃ c, decodeCause (w.role == .epilogue) (ok w) groups [] w.vregs = some c ∧
          t = deliver s s.cur w ⟨c, 0, w.active, firstWord i⟩ w.issueAddr w.active) ∨
        (decodeCause (w.role == .epilogue) (ok w) groups [] w.vregs = none ∧
          finish s w i (w.exec h) (body w (w.exec h)) = .next t)) := by
  unfold laneOp at e
  split at e
  · cases e
  · next w hw =>
    refine ⟨w, hw, ?_⟩
    split at e
    · next c hc => cases e; exact .inl ⟨c, hc, rfl⟩
    · next hc => exact .inr ⟨hc, e⟩

/-- A warp word that answers a next state: a decode cause is taken; or its guard is true and its body ends it; or the guard
is false and the warp goes on. -/
theorem warpOp_cases {i : Instr} {h : WarpHdr} {cls : Option Role} {groups : List (Nat × Nat)} {ok : Warp → Bool} {s t : State}
    {body : Warp → Res} (e : warpOp i h cls groups ok s body = .next t) :
    ∃ w, s.warp? s.cur = some w ∧
      ((∃ c, decodeCause (classOk cls w.role) (ok w) [] groups w.vregs = some c ∧
          t = deliver s s.cur w (warpTrap c 0 (firstWord i)) w.issueAddr w.active) ∨
        (decodeCause (classOk cls w.role) (ok w) [] groups w.vregs = none ∧
          finish s w i allLanes (if w.qGuard h then body w else .done s w) = .next t)) := by
  unfold warpOp at e
  split at e
  · cases e
  · next w hw =>
    refine ⟨w, hw, ?_⟩
    split at e
    · next c hc => cases e; exact .inl ⟨c, hc, rfl⟩
    · next hc => exact .inr ⟨hc, e⟩

theorem memOk_laneOp {i : Instr} {h : LaneHdr} {groups : List (Nat × Nat)} {ok : Warp → Bool} {s t : State}
    {body : Warp → LaneMask → Res} (hs : State.memOk s)
    (hb : ∀ w x s', (body w x).state? s = some s' → State.memOk s') (e : laneOp i h groups ok s body = .next t) :
    State.memOk t := by
  obtain ⟨w, -, ⟨c, -, rfl⟩ | ⟨-, e⟩⟩ := laneOp_cases e
  · exact memOk_deliver hs _ _ _ _ _
  · exact memOk_finish hs (hb w _) e

theorem memOk_warpOp {i : Instr} {h : WarpHdr} {cls : Option Role} {groups : List (Nat × Nat)} {ok : Warp → Bool} {s t : State}
    {body : Warp → Res} (hs : State.memOk s) (hb : ∀ w s', (body w).state? s = some s' → State.memOk s')
    (e : warpOp i h cls groups ok s body = .next t) : State.memOk t := by
  obtain ⟨w, -, ⟨c, -, rfl⟩ | ⟨-, e⟩⟩ := warpOp_cases e
  · exact memOk_deliver hs _ _ _ _ _
  · refine memOk_finish hs ?_ e
    intro s' hr
    split at hr
    · exact hb w s' hr
    · cases hr; exact hs

/-! ## The shapes of the arithmetic words change only their warp -/

/-- The body changes no state but its warp's, and does not stop. -/
def Res.Local (s : State) (r : Res) : Prop := ∀ s', r.state? s = some s' → s' = s

theorem memOk_lane1 {i : Instr} {h : LaneHdr} {vd va : Reg} {f : W32 → W32 × Fl} {s t : State} (hs : State.memOk s)
    (e : lane1 i h vd va f s = .next t) : State.memOk t :=
  memOk_laneOp hs (fun _ _ _ hr => by cases hr; exact hs) e

theorem memOk_lane2 {i : Instr} {h : LaneHdr} {vd va vb : Reg} {f : W32 → W32 → W32 × Fl} {s t : State} (hs : State.memOk s)
    (e : lane2 i h vd va vb f s = .next t) : State.memOk t :=
  memOk_laneOp hs (fun _ _ _ hr => by cases hr; exact hs) e

theorem memOk_lane3 {i : Instr} {h : LaneHdr} {vd va vb vc : Reg} {f : W32 → W32 → W32 → W32 × Fl} {s t : State}
    (hs : State.memOk s) (e : lane3 i h vd va vb vc f s = .next t) : State.memOk t :=
  memOk_laneOp hs (fun _ _ _ hr => by cases hr; exact hs) e

theorem memOk_lane64 {i : Instr} {h : LaneHdr} {vd va vb : Reg} {f : W64 → W64 → W64} {s t : State} (hs : State.memOk s)
    (e : lane64 i h vd va vb f s = .next t) : State.memOk t :=
  memOk_laneOp hs (fun _ _ _ hr => by cases hr; exact hs) e

theorem memOk_scalar1 {i : Instr} {h : WarpHdr} {sd sa : Reg} {f : W32 → W32 × Fl} {s t : State} (hs : State.memOk s)
    (e : scalar1 i h sd sa f s = .next t) : State.memOk t :=
  memOk_warpOp hs (fun _ _ hr => by cases hr; exact hs) e

theorem memOk_scalar2 {i : Instr} {h : WarpHdr} {sd sa sb : Reg} {f : W32 → W32 → W32 × Fl} {s t : State} (hs : State.memOk s)
    (e : scalar2 i h sd sa sb f s = .next t) : State.memOk t :=
  memOk_warpOp hs (fun _ _ hr => by cases hr; exact hs) e

theorem memOk_scalar64 {i : Instr} {h : WarpHdr} {sd sa sb : Reg} {f : W64 → W64 → W64} {s t : State} (hs : State.memOk s)
    (e : scalar64 i h sd sa sb f s = .next t) : State.memOk t :=
  memOk_warpOp hs (fun _ _ hr => by cases hr; exact hs) e

/-- A whole-warp wait changes the order of waits and its warp. -/
theorem hold_state (s : State) (w : Warp) (k : WaitKind) (i : Instr) :
    (hold s w k i).state? s = some s ∨ (hold s w k i).state? s = some s.tick := by
  unfold hold
  split
  · exact .inl rfl
  · exact .inr rfl

/-! ## Registers -/

/-- A vector register reads as written in the lanes of the mask, and as before in the others. -/
theorem vr_setV (w : Warp) (r : Nat) (m : LaneMask) (f : Nat → W32) (l q : Nat) (hl : l < 32) :
    (w.setV r m f).vr l q = if q = r then (if laneBit m l then f l else w.vr l r) else w.vr l q := by
  unfold Warp.vr Warp.vReg
  simp only [Warp.setV]
  split
  · next h => subst h; rw [kget_kput_same, tab_getD _ _ _ _ hl]; rfl
  · next h => rw [kget_kput_other _ _ _ h]

/-- A scalar register reads as written, the others as before. -/
theorem sr_setS (w : Warp) (r q : Nat) (x : W32) : (w.setS r x).sr q = if q = r then x else w.sr q := by
  unfold Warp.sr
  simp only [Warp.setS]
  split
  · next h => subst h; rw [kget_kput_same]
  · next h => rw [kget_kput_other _ _ _ h]

/-- The lanes of a mask stand at their target; the others where they stood. -/
theorem vpcOf_moveLanes (w : Warp) (m : LaneMask) (f : Nat → Nat) (l : Nat) (hl : l < 32) :
    (w.moveLanes m f).vpcOf l = if laneBit m l then f l % 2 ^ 57 else w.vpcOf l := by
  unfold Warp.vpcOf
  simp only [Warp.moveLanes]
  rw [tab_getD _ _ _ _ hl]
  split <;> simp

/-! ## Reading back warps and teams -/

@[simp] theorem warp?_setWarp_same (s : State) (k : Nat) (w : Warp) : (s.setWarp k w).warp? k = some w := by
  simp [State.warp?]

theorem warp?_setWarp_other (s : State) {k j : Nat} (w : Warp) (h : j ≠ k) : (s.setWarp k w).warp? j = s.warp? j := by
  simp [State.warp?, kget?_kput_other _ _ h]

@[simp] theorem team?_setWarp (s : State) (k : Nat) (w : Warp) (j : Nat) : (s.setWarp k w).team? j = s.team? j := rfl

@[simp] theorem team?_setTeam_same (s : State) (k : Nat) (t : Team) : (s.setTeam k t).team? k = some t := by
  simp [State.team?]

theorem team?_setTeam_other (s : State) {k j : Nat} (t : Team) (h : j ≠ k) : (s.setTeam k t).team? j = s.team? j := by
  simp [State.team?, kget?_kput_other _ _ h]

/-! ## Taking a trap (R384, R385) -/

/-- The handler address that a warp's context gives (R385). -/
def thandOf (s : State) (w : Warp) : Nat := ((kget? s.contexts (s.ctxOf w)).map fun c => c.thand).getD 0

/-- The state in which a trap is taken: what the warp's wait had counted is taken back, and the requests of its word end. -/
def trapTaken (s : State) (wid : Nat) (w : Warp) : State := (withdraw s w).dropWaiters (Waiter.ofWord wid)

/-- Outside handler mode, with a handler, nothing but the warp changes, and what its wait and its word had asked for. -/
theorem deliver_to_handler (s : State) (wid : Nat) (w : Warp) (t : TrapReq) (pc : Nat) (act : LaneMask) (hin : w.inh = false)
    (hth : thandOf (trapTaken s wid w) w ≠ 0) :
    deliver s wid w t pc act = (trapTaken s wid w).setWarp wid
      (({ w with wait := none }.trapState t pc act).enterHandler (thandOf (trapTaken s wid w) w)) := by
  have hth' : ((kget? (trapTaken s wid w).contexts ((trapTaken s wid w).ctxOf { w with wait := none })).map
      fun c : Context => c.thand).getD 0 ≠ 0 := hth
  unfold trapTaken at *
  unfold deliver
  simp only
  rw [if_neg (by simp [hin]), if_neg hth']
  rfl

/-- A warp without a wait has counted nothing. -/
@[simp] theorem withdraw_none (s : State) (w : Warp) (h : w.wait = none) : withdraw s w = s := by
  unfold withdraw; rw [h]

end Sys2Proof.Machine
end

