-- ==== Sys2Proof/Tests/Slice0.lean ====
section
/-! SUPPORT. Own tests: ill-formed terms, words written out from the encodings, single steps, and witnesses for the
statements' hypotheses. -/

set_option Elab.async false

namespace Sys2Proof.Tests

open Sys2Proof Sys2Proof.Machine Sys2Proof.Claims

/-! ## Words written out from the encodings (R61 to R70 and the entries): fields d, a, b, c and the like hold distinct values -/

theorem test_decode_integer_lane : ∀ e ∈ ([
    (32, 0x340254CE, .iadd ⟨false, true, 5⟩ 0x25 0x13 0xe),
    (32, 0x540654CE, .isub ⟨true, false, 5⟩ 0x25 0x13 0xe),
    (64, 0x89ABCDE1340A54C0, .iaddi ⟨false, true, 5⟩ 0x25 0x13 0x89abcde1),
    (32, 0x540E54CE, .iabsd ⟨true, false, 5⟩ 0x25 0x13 0xe),
    (32, 0x341254CE, .imin ⟨false, true, 5⟩ 0x25 0x13 0xe),
    (32, 0x541654CE, .imax ⟨true, false, 5⟩ 0x25 0x13 0xe),
    (32, 0x341A54CE, .umin ⟨false, true, 5⟩ 0x25 0x13 0xe),
    (32, 0x541E54CE, .umax ⟨true, false, 5⟩ 0x25 0x13 0xe),
    (32, 0x342254CE, .imul24 ⟨false, true, 5⟩ 0x25 0x13 0xe),
    (32, 0x542654CE, .umul24 ⟨true, false, 5⟩ 0x25 0x13 0xe),
    (64, 0xE8000001342A54CE, .imad24 ⟨false, true, 5⟩ 0x25 0x13 0xe 0x3a true),
    (32, 0x542E54CE, .imul ⟨true, false, 5⟩ 0x25 0x13 0xe),
    (32, 0x343254CE, .imulhi ⟨false, true, 5⟩ 0x25 0x13 0xe),
    (32, 0x543654CE, .umulhi ⟨true, false, 5⟩ 0x25 0x13 0xe),
    (32, 0x343A54CE, .idiv ⟨false, true, 5⟩ 0x25 0x13 0xe),
    (32, 0x543E54CE, .udiv ⟨true, false, 5⟩ 0x25 0x13 0xe),
    (32, 0x344254CE, .irem ⟨false, true, 5⟩ 0x25 0x13 0xe),
    (32, 0x544654CE, .urem ⟨true, false, 5⟩ 0x25 0x13 0xe),
    (32, 0x344A54CE, .iadds ⟨false, true, 5⟩ 0x25 0x13 0xe),
    (32, 0x544E54CE, .isubs ⟨true, false, 5⟩ 0x25 0x13 0xe),
    (32, 0x345254CE, .iadd64 ⟨false, true, 5⟩ 0x25 0x13 0xe),
    (32, 0x545654CE, .isub64 ⟨true, false, 5⟩ 0x25 0x13 0xe),
    (64, 0xE8000000345A54CE, .imad32 ⟨false, true, 5⟩ 0x25 0x13 0xe 0x3a)] : List (Nat × Nat × Instr)),
    decodeTableWord e.1 e.2.1 = some e.2.2 := by decide

theorem test_decode_logic_and_move_lane : ∀ e ∈ ([
    (32, 0x546254CE, .and ⟨true, false, 5⟩ 0x25 0x13 0xe),
    (32, 0x346654CE, .or ⟨false, true, 5⟩ 0x25 0x13 0xe),
    (32, 0x546A54CE, .xor ⟨true, false, 5⟩ 0x25 0x13 0xe),
    (32, 0x346E54CE, .andn ⟨false, true, 5⟩ 0x25 0x13 0xe),
    (32, 0x547254CE, .shl ⟨true, false, 5⟩ 0x25 0x13 0xe),
    (32, 0x347654CE, .shr ⟨false, true, 5⟩ 0x25 0x13 0xe),
    (32, 0x547A54CE, .sar ⟨true, false, 5⟩ 0x25 0x13 0xe),
    (32, 0x347E54CE, .rotl ⟨false, true, 5⟩ 0x25 0x13 0xe),
    (64, 0x00000936548254C0, .bfe ⟨true, false, 5⟩ 0x25 0x13 true 9 0x16),
    (64, 0x00000136348654CE, .bfi ⟨false, true, 5⟩ 0x25 0x13 0xe 9 0x16),
    (32, 0x548A54C0, .popc ⟨true, false, 5⟩ 0x25 0x13),
    (32, 0x348E54C0, .clz ⟨false, true, 5⟩ 0x25 0x13),
    (32, 0x549254C0, .ctz ⟨true, false, 5⟩ 0x25 0x13),
    (32, 0x349654C0, .brev ⟨false, true, 5⟩ 0x25 0x13),
    (64, 0x0004BA5D549A54CE, .prmt ⟨true, false, 5⟩ 0x25 0x13 0xe 2 0xb 0xa5d),
    (64, 0xE80000C5349E54CE, .lop3 ⟨false, true, 5⟩ 0x25 0x13 0xe 0x3a 0xc5),
    (32, 0x54A254C0, .mov ⟨true, false, 5⟩ 0x25 0x13),
    (64, 0x89ABCDE134A65000, .movi ⟨false, true, 5⟩ 0x25 0x89abcde1),
    (64, 0x0000000554AA54CE, .sel ⟨true, false, 5⟩ 0x25 0x13 0xe false 5),
    (32, 0x34AE5180, .lspec ⟨false, true, 5⟩ 0x25 6)] : List (Nat × Nat × Instr)),
    decodeTableWord e.1 e.2.1 = some e.2.2 := by decide

theorem test_decode_compare_lane : ∀ e ∈ ([
    (64, 0x0000147354C00953, .icmp ⟨true, false, 5⟩ 0x25 0x13 false 2 .xor 1 6 .le),
    (64, 0x0000147334C40953, .ucmp ⟨false, true, 5⟩ 0x25 0x13 false 2 .xor 1 6 .le),
    (64, 0x0000147354C80953, .fcmp ⟨true, false, 5⟩ 0x25 0x13 false 2 .xor 1 6 .le),
    (64, 0x000A72C534CC0000, .plop ⟨false, true, 5⟩ 5 1 6 2 0xc5),
    (32, 0x54D25000, .p2v ⟨true, false, 5⟩ 0x25),
    (64, 0x0000005934D40940, .v2p ⟨false, true, 5⟩ 0x25 0x59)] : List (Nat × Nat × Instr)),
    decodeTableWord e.1 e.2.1 = some e.2.2 := by decide

theorem test_decode_float_lane : ∀ e ∈ ([
    (32, 0x550254CE, .fadd ⟨true, false, 5⟩ 0x25 0x13 0xe),
    (32, 0x350654CE, .fsub ⟨false, true, 5⟩ 0x25 0x13 0xe),
    (32, 0x550A54CE, .fmul ⟨true, false, 5⟩ 0x25 0x13 0xe),
    (64, 0xE8000000350E54CE, .ffma ⟨false, true, 5⟩ 0x25 0x13 0xe 0x3a),
    (32, 0x551254CE, .fmin ⟨true, false, 5⟩ 0x25 0x13 0xe),
    (32, 0x351654CE, .fmax ⟨false, true, 5⟩ 0x25 0x13 0xe),
    (64, 0xE8000000551A54CE, .fmed3 ⟨true, false, 5⟩ 0x25 0x13 0xe 0x3a),
    (64, 0xE8000000351E54CE, .fclamp ⟨false, true, 5⟩ 0x25 0x13 0xe 0x3a),
    (64, 0x00000002552254C0, .frnd ⟨true, false, 5⟩ 0x25 0x13 .rm),
    (32, 0x352654C0, .fabs ⟨false, true, 5⟩ 0x25 0x13),
    (32, 0x552A54C0, .fneg ⟨true, false, 5⟩ 0x25 0x13),
    (32, 0x352E54C0, .frcp ⟨false, true, 5⟩ 0x25 0x13),
    (32, 0x553254C0, .frsq ⟨true, false, 5⟩ 0x25 0x13),
    (32, 0x353654C0, .fsqrt ⟨false, true, 5⟩ 0x25 0x13),
    (32, 0x553A54CE, .fdiv ⟨true, false, 5⟩ 0x25 0x13 0xe),
    (32, 0x353E54C0, .fexp2 ⟨false, true, 5⟩ 0x25 0x13),
    (32, 0x554254C0, .flog2 ⟨true, false, 5⟩ 0x25 0x13),
    (32, 0x354654C0, .fsin ⟨false, true, 5⟩ 0x25 0x13),
    (32, 0x554A54C0, .fcos ⟨true, false, 5⟩ 0x25 0x13),
    (32, 0x354E54C0, .ftanh ⟨false, true, 5⟩ 0x25 0x13),
    (32, 0x555254C0, .flut ⟨true, false, 5⟩ 0x25 0x13),
    (64, 0x00001AB5355654C0, .fclass ⟨false, true, 5⟩ 0x25 0x13 6 0x2b5)] : List (Nat × Nat × Instr)),
    decodeTableWord e.1 e.2.1 = some e.2.2 := by decide

theorem test_decode_packed_lane : ∀ e ∈ ([
    (32, 0x558254CE, .hadd2 ⟨true, false, 5⟩ 0x25 0x13 0xe),
    (32, 0x358654CE, .hsub2 ⟨false, true, 5⟩ 0x25 0x13 0xe),
    (32, 0x558A54CE, .hmul2 ⟨true, false, 5⟩ 0x25 0x13 0xe),
    (64, 0xE8000000358E54CE, .hfma2 ⟨false, true, 5⟩ 0x25 0x13 0xe 0x3a),
    (32, 0x559254CE, .hmin2 ⟨true, false, 5⟩ 0x25 0x13 0xe),
    (32, 0x359654CE, .hmax2 ⟨false, true, 5⟩ 0x25 0x13 0xe),
    (64, 0xE8000000559A54CE, .hmed3 ⟨true, false, 5⟩ 0x25 0x13 0xe 0x3a),
    (64, 0xE8000000359E54CE, .hclamp2 ⟨false, true, 5⟩ 0x25 0x13 0xe 0x3a),
    (32, 0x55A254CE, .badd2 ⟨true, false, 5⟩ 0x25 0x13 0xe),
    (32, 0x35A654CE, .bmul2 ⟨false, true, 5⟩ 0x25 0x13 0xe),
    (64, 0xE800000055AA54CE, .bfma2 ⟨true, false, 5⟩ 0x25 0x13 0xe 0x3a),
    (32, 0x35AE54CE, .bmin2 ⟨false, true, 5⟩ 0x25 0x13 0xe),
    (32, 0x55B254CE, .bmax2 ⟨true, false, 5⟩ 0x25 0x13 0xe)] : List (Nat × Nat × Instr)),
    decodeTableWord e.1 e.2.1 = some e.2.2 := by decide

theorem test_decode_convert_lane : ∀ e ∈ ([
    (64, 0x0000074A35C254C0, .cvt ⟨false, true, 5⟩ 0x25 0x13 .f16 .s8 .rm true),
    (64, 0x0000070A55C654CE, .pack2 ⟨true, false, 5⟩ 0x25 0x13 0xe .f16 .rm true),
    (64, 0x0000070A35CA54C0, .pack4 ⟨false, true, 5⟩ 0x25 0x13 .f16 .rm true),
    (64, 0x0000204055CE54C0, .unpack ⟨true, false, 5⟩ 0x25 0x13 2 .s8),
    (64, 0x0000070035D254CE, .qb8 ⟨false, true, 5⟩ 0x25 0x13 0xe .f16)] : List (Nat × Nat × Instr)),
    decodeTableWord e.1 e.2.1 = some e.2.2 := by decide

theorem test_decode_cross_lane : ∀ e ∈ ([
    (64, 0x00001022560254CE, .shfl ⟨true, false, 5⟩ 0x25 0x13 0xe true false 0 4 .rotd),
    (64, 0x0000090036065000, .vote ⟨false, true, 5⟩ 0x25 .count false 2 0),
    (64, 0x00000003560A54C0, .reduce ⟨true, false, 5⟩ 0x25 0x13 .minn),
    (64, 0x00000013360E54C0, .scan ⟨false, true, 5⟩ 0x25 0x13 true .minn),
    (32, 0x561254C0, .matchAny ⟨true, false, 5⟩ 0x25 0x13),
    (64, 0x38000020361654C0, .rdlane ⟨false, true, 5⟩ 0x25 0x13 0xe true 0),
    (64, 0x38000020561A54C0, .wrlane ⟨true, false, 5⟩ 0x25 0x13 0xe true 0),
    (32, 0x361E5000, .vpcget ⟨false, true, 5⟩ 0x25),
    (32, 0x56200940, .vpcset ⟨true, false, 5⟩ 0x25)] : List (Nat × Nat × Instr)),
    decodeTableWord e.1 e.2.1 = some e.2.2 := by decide

theorem test_decode_control_lane : ∀ e ∈ ([
    (32, 0x3682F0A5, .lbra ⟨false, true, 5⟩ 0x2f0a5),
    (32, 0x56840940, .lbrx ⟨true, false, 5⟩ 0x25),
    (32, 0x36880005, .join ⟨false, true, 5⟩ 5),
    (32, 0x568C0041, .jarr ⟨true, false, 5⟩ true 1),
    (32, 0x36900000, .lexit ⟨false, true, 5⟩ )] : List (Nat × Nat × Instr)),
    decodeTableWord e.1 e.2.1 = some e.2.2 := by decide

theorem test_decode_memory_lane : ∀ e ∈ ([
    (64, 0xC0FFE432570254ED, .ld ⟨true, false, 5⟩ 0x25 0x13 0xb true 0xc0ffe4 .b16 .device .acq),
    (64, 0xC0FFE493370654C0, .st ⟨false, true, 5⟩ 0x25 0x13 0xc0ffe4 .b128 .device .rel),
    (64, 0xC0FFE422570A54ED, .lds ⟨true, false, 5⟩ 0x25 0x13 0xb true 0xc0ffe4 .b16 .acq),
    (64, 0xC0FFE483370E54C0, .sts ⟨false, true, 5⟩ 0x25 0x13 0xc0ffe4 .b128 .rel),
    (64, 0xEA6C6174571254EC, .atom ⟨true, false, 5⟩ 0x25 0x13 0xb 0x3a .cas 0x2c61 .b64 .device .acqrel),
    (64, 0xEA6C6164371654EC, .atoms ⟨false, true, 5⟩ 0x25 0x13 0xb 0x3a .cas 0x2c61 .b64 .acqrel),
    (64, 0xC0FFE493571A54C0, .cst ⟨true, false, 5⟩ 0x25 0x13 0xc0ffe4 .b128 .device .rel),
    (64, 0xC0FFE480371E54EC, .accrd ⟨false, true, 5⟩ 0x25 0x13 0xb 0xc0ffe4 .b128),
    (64, 0xC0FFE480572254C0, .accwr ⟨true, false, 5⟩ 0x25 0x13 0xc0ffe4 .b128),
    (64, 0xC0FFE40037240940, .discard ⟨false, true, 5⟩ 0x25 0xc0ffe4),
    (64, 0xC0FFE40057280940, .pref ⟨true, false, 5⟩ 0x25 0xc0ffe4)] : List (Nat × Nat × Instr)),
    decodeTableWord e.1 e.2.1 = some e.2.2 := by decide

theorem test_decode_scalar_a : ∀ e ∈ ([
    (32, 0x980254CE, .sadd ⟨false, 3⟩ 0x25 0x13 0xe),
    (32, 0xD80654CE, .ssub ⟨true, 3⟩ 0x25 0x13 0xe),
    (64, 0x89ABCDE1980A54C0, .saddi ⟨false, 3⟩ 0x25 0x13 0x89abcde1),
    (32, 0xD80E54CE, .smul ⟨true, 3⟩ 0x25 0x13 0xe),
    (32, 0x981254CE, .smulhi ⟨false, 3⟩ 0x25 0x13 0xe),
    (32, 0xD81654CE, .smin ⟨true, 3⟩ 0x25 0x13 0xe),
    (32, 0x981A54CE, .smax ⟨false, 3⟩ 0x25 0x13 0xe),
    (32, 0xD81E54CE, .sminn ⟨true, 3⟩ 0x25 0x13 0xe),
    (32, 0x982254CE, .smaxn ⟨false, 3⟩ 0x25 0x13 0xe),
    (32, 0xD82654CE, .sand ⟨true, 3⟩ 0x25 0x13 0xe),
    (32, 0x982A54CE, .sor ⟨false, 3⟩ 0x25 0x13 0xe),
    (32, 0xD82E54CE, .sxor ⟨true, 3⟩ 0x25 0x13 0xe),
    (32, 0x983254CE, .sshl ⟨false, 3⟩ 0x25 0x13 0xe),
    (32, 0xD83654CE, .sshr ⟨true, 3⟩ 0x25 0x13 0xe),
    (32, 0x983A54CE, .ssar ⟨false, 3⟩ 0x25 0x13 0xe),
    (32, 0xD83E54C0, .smov ⟨true, 3⟩ 0x25 0x13),
    (64, 0x89ABCDE198425000, .smovi ⟨false, 3⟩ 0x25 0x89abcde1),
    (32, 0xD84654CE, .sadd64 ⟨true, 3⟩ 0x25 0x13 0xe),
    (32, 0x984A54CE, .ssub64 ⟨false, 3⟩ 0x25 0x13 0xe)] : List (Nat × Nat × Instr)),
    decodeTableWord e.1 e.2.1 = some e.2.2 := by decide

theorem test_decode_scalar_b : ∀ e ∈ ([
    (64, 0x00000936D84E54C0, .sbfe ⟨true, 3⟩ 0x25 0x13 true 9 0x16),
    (32, 0x985254C0, .spopc ⟨false, 3⟩ 0x25 0x13),
    (32, 0xD85654C0, .sclz ⟨true, 3⟩ 0x25 0x13),
    (64, 0x0000AD9398580953, .scmp ⟨false, 3⟩ 0x25 0x13 .n32 false 5 .xor 6 2 .le),
    (64, 0x0000000DD85E54CE, .ssel ⟨true, 3⟩ 0x25 0x13 0xe true 5),
    (64, 0x000A72C598600000, .qlop ⟨false, 3⟩ 5 1 6 2 0xc5),
    (32, 0xD86654CE, .sdiv ⟨true, 3⟩ 0x25 0x13 0xe),
    (32, 0x986A54CE, .sdivn ⟨false, 3⟩ 0x25 0x13 0xe),
    (32, 0xD86E54CE, .sfadd ⟨true, 3⟩ 0x25 0x13 0xe),
    (32, 0x987254CE, .sfmul ⟨false, 3⟩ 0x25 0x13 0xe),
    (64, 0xE8000000D87654CE, .sffma ⟨true, 3⟩ 0x25 0x13 0xe 0x3a),
    (64, 0x0000074A987A54C0, .scvt ⟨false, 3⟩ 0x25 0x13 .f16 .s8 .rm true)] : List (Nat × Nat × Instr)),
    decodeTableWord e.1 e.2.1 = some e.2.2 := by decide

theorem test_decode_control_warp : ∀ e ∈ ([
    (32, 0xD902F0A5, .bra ⟨true, 3⟩ 0x2f0a5),
    (64, 0x00009A3C99040953, .brx ⟨false, 3⟩ 0x25 0x13 0x9a3c),
    (32, 0xD90AF0A5, .call ⟨true, 3⟩ 0x2f0a5),
    (32, 0x990C0000, .ret ⟨false, 3⟩ ),
    (64, 0x00002C61D9100940, .loop ⟨true, 3⟩ 0x25 0x2c61),
    (64, 0x9A3C2C6199140000, .loopi ⟨false, 3⟩ 0x9a3c 0x2c61),
    (32, 0xD91AF0A5, .lbreak ⟨true, 3⟩ 0x2f0a5),
    (32, 0x991C0000, .exit ⟨false, 3⟩ ),
    (32, 0xD9200000, .nop ⟨true, 3⟩ ),
    (32, 0x9926F0A5, .trap ⟨false, 3⟩ 0x2f0a5),
    (32, 0xD9280000, .tret ⟨true, 3⟩ ),
    (32, 0x992C0940, .sleep ⟨false, 3⟩ 0x25)] : List (Nat × Nat × Instr)),
    decodeTableWord e.1 e.2.1 = some e.2.2 := by decide

theorem test_decode_barrier_warp : ∀ e ∈ ([
    (32, 0xD9800972, .bar ⟨true, 3⟩ 0x25 true true 2),
    (32, 0x99840002, .gbar ⟨false, 3⟩ .device),
    (32, 0xD98964C0, .mbinit ⟨true, 3⟩ 0x16 0x13),
    (32, 0x998D64C0, .mbexp ⟨false, 3⟩ 0x16 0x13),
    (32, 0xD99164C1, .mbarr ⟨true, 3⟩ 0x16 0x13 true),
    (64, 0x00000002999564CE, .mbwait ⟨false, 3⟩ 0x16 0x13 0xe 2),
    (64, 0x00000014D9980000, .fence ⟨true, 3⟩ .device .acqrel),
    (64, 0x00000012999C0000, .fencea ⟨false, 3⟩ .device .acq)] : List (Nat × Nat × Instr)),
    decodeTableWord e.1 e.2.1 = some e.2.2 := by decide

theorem test_decode_system_warp : ∀ e ∈ ([
    (32, 0xDA025250, .srd ⟨true, 3⟩ 0x25 0x25),
    (32, 0x9A040613, .swr ⟨false, 3⟩ 0x18 0x13),
    (64, 0x9A3C2000DA0A5018, .capq ⟨true, 3⟩ 0x25 6 0x9a3c 2),
    (32, 0x9A0E5000, .clk ⟨false, 3⟩ 0x25),
    (32, 0xDA100953, .evpost ⟨true, 3⟩ 0x25 0x13),
    (32, 0x9A140940, .tblld ⟨false, 3⟩ 0x25),
    (32, 0xDA180000, .tblswp ⟨true, 3⟩ ),
    (32, 0x9A1C0000, .racq ⟨false, 3⟩ ),
    (32, 0xDA200000, .rrel ⟨true, 3⟩ ),
    (32, 0x9A2654C0, .tierq ⟨false, 3⟩ 0x25 0x13)] : List (Nat × Nat × Instr)),
    decodeTableWord e.1 e.2.1 = some e.2.2 := by decide

theorem test_decode_memory_warp : ∀ e ∈ ([
    (64, 0xC0FFE432DA8254ED, .sld ⟨true, 3⟩ 0x25 0x13 0xb true 0xc0ffe4 .b16 .device .acq),
    (64, 0xC0FFE4939A8654C0, .sst ⟨false, 3⟩ 0x25 0x13 0xc0ffe4 .b128 .device .rel),
    (64, 0xEA6C6174DA8A54EC, .satom ⟨true, 3⟩ 0x25 0x13 0xb 0x3a .cas 0x2c61 .b64 .device .acqrel),
    (64, 0xC0FFE4229A8E54ED, .slds ⟨false, 3⟩ 0x25 0x13 0xb true 0xc0ffe4 .b16 .acq),
    (64, 0xC0FFE483DA9254C0, .ssts ⟨true, 3⟩ 0x25 0x13 0xc0ffe4 .b128 .rel),
    (64, 0xC0FFE4009A940940, .spref ⟨false, 3⟩ 0x25 0xc0ffe4),
    (32, 0xDA980953, .spclr ⟨true, 3⟩ 0x25 0x13),
    (32, 0x9A9E54C1, .spqry ⟨false, 3⟩ 0x25 0x13 true)] : List (Nat × Nat × Instr)),
    decodeTableWord e.1 e.2.1 = some e.2.2 := by decide

theorem test_decode_copy_warp : ∀ e ∈ ([
    (64, 0x6B000000DC0254CE, .tcopy ⟨true, 3⟩ 0x25 0x13 0xe 6 0x16 false),
    (64, 0x6B0000009C0654CE, .tstore ⟨false, 3⟩ 0x25 0x13 0xe 6 0x16 false),
    (64, 0x6B180000DC0A54CE, .tloadx ⟨true, 3⟩ 0x25 0x13 0xe 6 0x16 false 6),
    (64, 0x6B1800009C0E54CE, .tstorex ⟨false, 3⟩ 0x25 0x13 0xe 6 0x16 false 6),
    (32, 0xDC100946, .tlrec ⟨true, 3⟩ 0x25 6),
    (32, 0x9C1400C5, .twait ⟨false, 3⟩ 0xc5),
    (64, 0x0000000BDC1A54C0, .xjob ⟨true, 3⟩ 0x25 0x13 0xb),
    (32, 0x9C1E54CE, .xwait ⟨false, 3⟩ 0x25 0x13 0xe)] : List (Nat × Nat × Instr)),
    decodeTableWord e.1 e.2.1 = some e.2.2 := by decide

theorem test_decode_pergola_warp : ∀ e ∈ ([
    (64, 0x000000C0DC800940, .qinit ⟨true, 3⟩ 0x25 6),
    (64, 0x000000D39C840940, .qpush ⟨false, 3⟩ 0x25 6 .device .rel),
    (64, 0x00000172DC8A5001, .qpop ⟨true, 3⟩ 0x25 1 0xb .device .acq),
    (64, 0x000001729C8E5001, .qtry ⟨false, 3⟩ 0x25 1 0xb .device .acq),
    (64, 0x00000173DC900000, .qclose ⟨true, 3⟩ 0xb .device .rel),
    (64, 0x000000C09C965000, .qlen ⟨false, 3⟩ 0x25 6)] : List (Nat × Nat × Instr)),
    decodeTableWord e.1 e.2.1 = some e.2.2 := by decide

theorem test_decode_matrix_warp : ∀ e ∈ ([
    (64, 0x89ABCDE1DD0254CE, .mma ⟨true, 3⟩ 0x25 0x13 0xe 0x89abcde1),
    (64, 0x89ABCDE19D0654CE, .mmas ⟨false, 3⟩ 0x25 0x13 0xe 0x89abcde1),
    (64, 0x89ABCDE1DD0A54CE, .mmap ⟨true, 3⟩ 0x25 0x13 0xe 0x89abcde1),
    (32, 0x9D0C0953, .accz ⟨false, 3⟩ 0x25 0x13),
    (32, 0xDD1254CE, .acccpy ⟨true, 3⟩ 0x25 0x13 0xe),
    (32, 0x9D140025, .mwait ⟨false, 3⟩ 0x25)] : List (Nat × Nat × Instr)),
    decodeTableWord e.1 e.2.1 = some e.2.2 := by decide

theorem test_decode_task_warp : ∀ e ∈ ([
    (32, 0xDD825000, .tbegin ⟨true, 3⟩ 0x25),
    (32, 0x9D840000, .tend ⟨false, 3⟩ ),
    (32, 0xDD880001, .tabort ⟨true, 3⟩ true),
    (32, 0x9D8E5000, .tstat ⟨false, 3⟩ 0x25),
    (64, 0x00000126DD900953, .asdecl ⟨true, 3⟩ 0x25 0x13 0x12 6),
    (32, 0x9D94000B, .asdrop ⟨false, 3⟩ 0xb)] : List (Nat × Nat × Instr)),
    decodeTableWord e.1 e.2.1 = some e.2.2 := by decide

/-! ## Ill-formed terms that the check refuses (R65, R66, R71, R72) -/

def lh : LaneHdr := ⟨false, false, 7⟩
def wh : WarpHdr := ⟨false, 7⟩

theorem test_wf_refuses_lane : ∀ i ∈ ([
    .bfe lh 1 2 false 33 0, .bfi lh 1 2 3 33 0, .lspec lh 1 7, .icmp lh 1 2 false 7 .and 7 7 .num,
    .ucmp lh 1 2 false 7 .and 7 7 .nan, .unpack lh 1 2 2 .s16, .shfl lh 1 2 3 false false 0 6 .pick,
    .shfl lh 1 2 3 true false 0 5 .pick, .shfl lh 1 2 3 false false 1 5 .pick, .shfl lh 1 2 3 false true 1 5 .pick,
    .vote lh 1 .mask false 7 1, .vote lh 1 .all false 7 1, .rdlane lh 1 2 3 false 0, .rdlane lh 1 2 3 true 5, .wrlane lh 1 2 3 true 1, .wrlane lh 1 2 3 false 0,
    .ld lh 1 2 0 false 0 .b32 .core .rel, .ld lh 1 2 0 true 0 .b32 .core .plain, .st lh 1 2 0 .b32 .core .acq,
    .lds lh 1 2 0 false 0 .b32 .acqrel, .lds lh 1 2 0 true 0 .b64 .plain, .sts lh 1 2 0 .b32 .acqrel,
    .atom lh 1 2 0 3 .fadd 0 .b64 .core .plain, .atoms lh 1 2 0 3 .cas 0 .b128 .plain, .cst lh 1 2 0 .b32 .core .acq,
    .accrd lh 1 2 0 0 .b16, .accwr lh 1 2 0 .b8] : List Instr), wellFormed i = false := by decide

theorem test_wf_refuses_warp : ∀ i ∈ ([
    .sbfe wh 1 2 false 33 0, .scmp wh 1 2 .s32 false 7 .and 7 7 .num, .brx wh 2 4 0, .loop wh 1 2, .loopi wh 5 2,
    .bar wh 1 false false 0, .mbarr wh 0 1 false, .fence wh .core .plain, .fencea wh .core .rel, .srd wh 1 0x0E, .swr wh 0x13 1,
    .sld wh 1 2 0 false 0 .b32 .core .acqrel, .sld wh 1 2 0 true 0 .b128 .core .plain, .sst wh 1 2 0 .b32 .core .acqrel,
    .satom wh 1 2 0 3 .incwrap 0 .b64 .core .plain, .slds wh 1 2 0 false 0 .b32 .rel, .slds wh 1 2 0 true 0 .b32 .plain,
    .ssts wh 1 2 0 .b32 .acq, .tcopy wh 1 2 3 0 1 true, .tstore wh 1 2 3 0 1 true, .tloadx wh 1 2 3 0 1 true 1,
    .tloadx wh 1 2 3 0 0 false 0, .tstorex wh 1 2 3 0 1 true 1, .tstorex wh 1 2 3 0 0 false 0, .qpush wh 2 0 .core .acq,
    .qpop wh 1 0 0 .core .rel, .qtry wh 1 0 0 .core .plain, .qclose wh 0 .core .acqrel, .asdecl wh 2 4 7 0,
    .asdecl wh 2 4 21 0, .unallocatedOpcode 0x1C000000] : List Instr), wellFormed i = false := by decide

/-! ## Small states: a team of one warp on core 0, about to run a word -/

/-- A warp of the role that may issue a word, in the slot. -/
def about (word : W32) : State := { placeInstr State.reset word [] with cur := 1 }

def sE : State := about 0
def sC : State := about 0xBC000000
def sM : State := about 0xBD000000
def sH : State := about 0xB9280000
def wE : Warp := (sE.warp? 1).get (by decide)
def wC : Warp := (sC.warp? 1).get (by decide)
def wM : Warp := (sM.warp? 1).get (by decide)
def wH : Warp := (sH.warp? 1).get (by decide)
def tE : Team := (sE.team? 0).get (by decide)
def tC : Team := (sC.team? 0).get (by decide)
def tM : Team := (sM.team? 0).get (by decide)

/-- An epilogue warp that differs from wE, and its state. -/
def with_ (w : Warp) : State := sE.setWarp 1 w

/-- A state whose context has a trap handler. -/
def withHandler (s : State) : State := { s with contexts := [(0, { placedContext with thand := 0x8000 })] }

/-- The warp that a state's slot holds after a word. -/
def after (i : Instr) (s : State) : Option Warp := match exec i s with | .next t => t.warp? s.cur | _ => none

theorem endsNoLoop {w : Warp} (i : Instr) (h : w.loops = [] := by decide) (k : w.hloops = [] := by decide) : ¬ EndsLoop w i := by
  rintro ⟨r, hr, -⟩
  cases hi : w.inh <;> simp [hi, h, k] at hr

theorem mayEnd {w : Warp} (i : Instr) (h : w.loops = [] := by decide) (k : w.hloops = [] := by decide) : MayEndHere w i :=
  fun e => absurd e (endsNoLoop i h k)

theorem slotHolds : sE.warp? sE.cur = some wE ∧ sC.warp? sC.cur = some wC ∧ sM.warp? sM.cur = some wM ∧
    sH.warp? sH.cur = some wH ∧ InTeam sE wE tE ∧ InTeam sC wC tC ∧ InTeam sM wM tM := by
  refine ⟨?_, ?_, ?_, ?_, ?_, ?_, ?_⟩ <;> rfl

/-- The statements about traps apply where a handler is set. -/
theorem witness_HasHandler : HasHandler (withHandler sE) wE 0x8000 :=
  ⟨by decide, by decide, by decide, tE, { placedContext with thand := 0x8000 }, by decide, by decide, by decide⟩

/-- The state of one epilogue warp, changed. -/
def have_ (w : Warp) : State := { sE with warps := [(1, w)] }

/-- A column of a vector register. -/
def col (x : W32) : List W32 := List.replicate 32 x

/-- An epilogue warp with addresses: the orangery in v58:v59, the scratchpad in v60 and s60, memory in v62:v63 and s62:s63. -/
def wA : Warp := { wE with v := [(58, col 0x100), (60, col 0x80), (62, col 0x10000)], s := [(60, 0x80), (62, 0x10000)] }

/-- A team with storage. -/
def tA : Team := { tE with allot := 8192, desc := { tE.desc with sfull := 8192, spro := 4096, orang := 65536, nmaths := 1, nepi := 2 } }
def sA : State := { sE with warps := [(1, wA)], teams := [(0, tA)] }

/-- The state of that team's warp, changed. -/
def haveA (w : Warp) : State := { sA with warps := [(1, w)] }
theorem haveItA (w : Warp) : (haveA w).warp? 1 = some w := rfl
theorem inA {w : Warp} (h : w.team = 0 := by decide) : InTeam (haveA w) w tA := by unfold InTeam; rw [h]; rfl

/-- A translation's answer, compared. -/
def answers (x : Tr) (s : State) (l : Loc) (tier : Nat) : Bool :=
  match x with
  | .ok s' l' n => decide (s' = s) && decide (l' = l) && decide (n = tier)
  | .wait _ | .err _ _ _ => false

theorem answers_eq {x : Tr} {s : State} {l : Loc} {tier : Nat} (h : answers x s l tier = true) : x = .ok s l tier := by
  cases x with
  | ok s' l' n =>
    simp only [answers, Bool.and_eq_true, decide_eq_true_eq] at h
    rw [h.1.1, h.1.2, h.2]
  | wait _ => simp [answers] at h
  | err _ _ _ => simp [answers] at h

theorem handlerOf {w : Warp} (h : w.inh = false := by decide) (k : w.wait = none := by decide)
    (m : w.team = 0 := by decide) : HasHandler (withHandler (have_ w)) w 0x8000 :=
  ⟨h, k, by decide, tE, { placedContext with thand := 0x8000 }, m ▸ (by decide : sE.team? 0 = some tE), rfl, rfl⟩

theorem haveIt (w : Warp) : (have_ w).warp? 1 = some w := rfl

/-! ## Witnesses: arithmetic -/

theorem laneReady {rows : List LaneRow} (h : ∀ row ∈ rows, ∀ g ∈ row.groups, g.1 + g.2 ≤ wE.vregs) :
    ∀ row ∈ rows, row.Ready sE wE := fun row hr =>
  ⟨slotHolds.1, by decide, h row hr, mayEnd _⟩

theorem witness_IntegerAndLogicLaneWordsGiveExactResults : wE.inh = false ∧
    (∀ row ∈ integerRows lh 62 60 58 63 0xFFFFFFFF true, row.Ready sE wE) ∧
    (32 : Reg).toNat ≤ 32 ∧ (6 : Reg).toNat ≤ 6 ∧
    ∀ row ∈ lspecRow lh 63 6 :: logicRows lh 63 62 61 60 32 31 true 0 0xFF 7 15 0xFFF 7, row.Ready sE wE :=
  ⟨by decide, laneReady (by decide), by decide, by decide, laneReady (by decide)⟩

theorem witness_FloatAndConversionWordsGiveTheirFunctions : wE.inh = false ∧
    (∀ row ∈ floatRows lh 63 62 61 60 .rz ++ packedRows lh 63 62 61 60 ++ [cvtRow lh 62 61 .s64 .f32 .rn true],
      row.Ready sE wE) ∧
    sixteenBits .bf16 ∧ (∀ row ∈ halfRows lh 63 62 61 .bf16 .rn true 1, row.Ready sE wE) ∧
    eightBits .e2m1 ∧ (∀ row ∈ byteRows lh 63 60 .e2m1 .rn true 3, row.Ready sE wE) ∧
    narrowFmt .e4m3 = some .e4m3 ∧ (qb8Row lh 63 62 61 .e4m3 .e4m3).Ready sE wE :=
  ⟨by decide, laneReady (by decide), by simp [sixteenBits], laneReady (by decide), by simp [eightBits, narrowFmt],
    laneReady (by decide), rfl, laneReady (rows := [qb8Row lh 63 62 61 .e4m3 .e4m3]) (by decide) _ (by simp)⟩

theorem witness_CrossLaneAndMoveWordsGiveTheirLanes : wE.inh = false ∧ (5 : BitVec 3).toNat ≤ 5 ∧
    wE.exec lh ≠ 0 ∧
    (∀ row ∈ crossLaneRows lh 63 62 61 true false 31 5 .rotd true 6 .add ++
      predicateRows lh 63 62 61 true 6 7 5 4 3 2 .xor .lt 0x96 127 1023, row.Ready sE wE) ∧
    (∀ row ∈ laneMoveRows lh 62 62 61 true 31, row.Ready sE wE) ∧
    sH.warp? sH.cur = some wH ∧ wH.role = .epilogue ∧ (62 : Reg).toNat + 2 ≤ wH.vregs ∧ wH.inh = true ∧
      (∀ l < 32, laneBit (wH.exec lh) l = true → GoodTarget (wH.vr64 l 62).toNat) ∧ MayEndHere wH (.vpcset lh 62) :=
  ⟨by decide, by decide, by decide +kernel, laneReady (by decide), laneReady (by decide), slotHolds.2.2.2.1, by decide, by decide, by decide,
    by decide, mayEnd _⟩

theorem warpReady {rows : List WarpRow} (h : ∀ row ∈ rows, row.cls = none ∧ ∀ g ∈ row.groups, g.1 + g.2 ≤ 64) :
    ∀ row ∈ rows, row.Ready sE wE := fun row hr =>
  ⟨slotHolds.1, fun c hc => by simp [(h row hr).1] at hc, (h row hr).2, mayEnd _⟩

theorem witness_ScalarWordsComputeOnceForTheirWarp : (32 : Reg).toNat ≤ 32 ∧
    ∀ row ∈ scalarRows wh 62 60 58 0x80000000 true 32 31 ++ scalarFloatRows wh 62 60 58 56 .n64 .f16 .rp true ++
      uniformRows wh 62 60 58 true 6 5 4 3 2 1 .or .ge 0xE8, row.Ready sE wE :=
  ⟨by decide, warpReady (by decide)⟩

/-- e4m3's largest value is 448 and its spacing there 32: R125's next value is 480, and 464 is its halfway point. -/
theorem witness_ConvertRoundsToTheGrid : (200 : Nat) ≤ 200 ∧ (465 : Nat) ≠ 0 ∧ -((200 : Nat) : Int) ≤ 0 ∧
    gridValue .e4m3 200 0x7E = 448 * 2 ^ 200 ∧ gridValue .e4m3 200 0x7F = 480 * 2 ^ 200 ∧
    convert .e4m3 .rn false (.fin false 464 0) = (0x7E, 1#5) ∧
    convert .e4m3 .rn false (.fin false 465 0) = (0x7F, 5#5) ∧
    convert .e4m3 .rn true (.fin true 465 0) = (0xFE, 5#5) := by decide +kernel

theorem witness_ArithmeticIsExactBeforeItsRounding : (200 : Nat) ≤ 200 ∧
    valOf .f16 0x3C00 = .fin false 1024 (-10) ∧ valOf .f16 0x8001 = .fin true 1 (-24) ∧
    valOf .f16 0x7BFF = .fin false 2047 5 ∧ valOf .f16 0x7C00 = .inf false ∧ valOf .f16 0xFE00 = .nan true false ∧
    fpAdd .f16 0x3C00 0xBC00 = (0, 0) ∧ fpFma .f16 0x8001 0x3C00 0x0001 = (0, 0) := by decide +kernel

/-! ## Witnesses: the step, control flow and special registers -/


/-- A word stands where the first step fetches, and the warp there differs in its windows and its damaged registers. -/
def sWord (word : Nat) (wins : List Window) (hurt : List (Nat × Nat × Nat)) : State :=
  let s := State.reset.withFetchWord 32 word
  { s with warps := kmod s.warps 1 fun w => { w with windows := wins, badRegs := hurt }, contexts := kmod s.contexts 0 fun c => { c with thand := 0x8000 } }
def wWord (word : Nat) (wins : List Window) (hurt : List (Nat × Nat × Nat)) : Warp :=
  match (sWord word wins hurt).warp? 1 with | some w => w | none => wE

/-- What AtTurn asks, in a form that is decided, for a word of one instruction. -/
def atTurnB (word : Nat) (wins : List Window) (hurt : List (Nat × Nat × Nat)) : Bool :=
  let s := sWord word wins hurt
  let s1 := settleQueues ({ s with agenda := [] }.advance 0)
  let w := wWord word wins hurt
  let s2 := turned s 0 [] 0 w.slot 1 [] [] w
  decide (s.agenda = [⟨0, .issue 0 w.slot 0⟩]) && !coreStopped s1 0 && (s1.warps.all fun e => !retries s1 e.2) &&
    decide (kget (s1.core 0).slots w.slot ⟨none, [], []⟩ = ⟨none, [1], []⟩) && decide (s1.warp? 1 = some w) &&
    decide (w.wait = none) && decide (w.pending = []) && decide (w.opLog = []) && decide (w.ready ≠ 0) && decide (s2.bad = []) &&
    inHalf w.issueAddr 4 && answers (translate s2 (.fetch 1) (s2.ctxOf w) (some w.core) (Config.dieOfCore w.core) w.issueAddr .fetch)
      s2 (.own 0x10000 0) 0 && decide (s2.homeBytes (.own 0x10000 0) 4 = bytesOfWord (BitVec.ofNat 32 word)) && decide (s2.launches = [])

theorem atTurn {word : Nat} {wins : List Window} {hurt : List (Nat × Nat × Nat)} {i : Instr} (h : atTurnB word wins hurt = true)
    (k : decode (bytesOfWord (BitVec.ofNat 32 word)) = .ok (i, [])) :
    AtTurn (sWord word wins hurt) 0 [] 0 (wWord word wins hurt).slot 1 0 [] [] (wWord word wins hurt)
      (bytesOfWord (BitVec.ofNat 32 word)) i := by
  simp only [atTurnB, Bool.and_eq_true, decide_eq_true_eq, Bool.not_eq_true', List.all_eq_true] at h
  obtain ⟨⟨⟨⟨⟨⟨⟨⟨⟨⟨⟨⟨⟨h1, h2⟩, h3⟩, h4⟩, h5⟩, h6⟩, h7⟩, h8⟩, h9⟩, h10⟩, h11⟩, h12⟩, h13⟩, h14⟩ := h
  refine ⟨h1, h2, h3, h4, h5, h6, h7, h8, .inr h9, h10, ⟨by simpa [bytesOfWord] using h11, fun j hj => ?_⟩, k⟩
  obtain rfl : j = 0 := by simp [bytesOfWord] at hj; omega
  refine ⟨0x10000, 0, 0, BitVec.ofNat 32 word, by decide, by decide, by simp [bytesOfWord], answers_eq h12, h13, fun l hl => ?_⟩
  rw [h14] at hl
  exact absurd hl nofun

theorem witness_AStepRunsTheDecodedInstruction : State.reset.agenda = [] ∧
    AtTurn (sWord 0x1C385042 [] []) 0 [] 0 (wWord 0x1C385042 [] []).slot 1 0 [] [] (wWord 0x1C385042 [] [])
      (bytesOfWord (BitVec.ofNat 32 0x1C385042)) (.idiv lh 5 1 2) ∧
    (wWord 0x1C385042 [] []).windows = [] ∧ (wWord 0x1C385042 [] []).badRegs = [] ∧
    encode (.portUp 2) = [] ∧ State.reset.diesStopped = false ∧ State.reset.dbgHalted = [] ∧ State.reset.paused = [] :=
  ⟨rfl, atTurn (by decide +kernel) rfl, by decide +kernel, by decide +kernel, by decide +kernel, rfl, rfl, rfl⟩

theorem witness_IssueAddressIsLeastReadyVpc : wE.inh = false ∧ ∃ l < 32, laneBit wE.ready l = true := by decide +kernel

/-- Lane 3 has a crooked address in v62:v63, and lane 5 a far one. -/
def wCrooked : Warp := { wE with v := [(62, tab 32 fun l => if l = 3 then 0x10002 else 0), (63, tab 32 fun l => if l = 5 then 0x1000000 else 0)] }
def wFar : Warp := { wE with v := [(63, tab 32 fun l => if l = 5 then 0x1000000 else 0)] }
def minOff : BitVec 18 := 0x20000
def maxOff : BitVec 18 := 0x1FFFF

theorem lowestIs {x : LaneMask} {l : Nat} (h : (decide (l < 32) && laneBit x l && (List.range l).all fun k => !laneBit x k) = true) :
    IsLowest x l := by
  simp only [Bool.and_eq_true, decide_eq_true_eq, List.all_eq_true, List.mem_range] at h
  exact ⟨h.1.1, h.1.2, fun k hk => by simpa using h.2 k hk⟩

theorem witness_BranchesMoveTheirLanesOrTheirWarp :
    IssuesLane sE wE ∧ HasHandler (withHandler sE) wE 0x8000 ∧ wE.exec lh ≠ 0 ∧ ¬ Reaches wE minOff ∧ Reaches wE maxOff ∧
    ¬ EndsLoop wE (.lbra lh maxOff) ∧ (62 : Reg).toNat + 2 ≤ wE.vregs ∧ ¬ EndsLoop wE (.lbrx lh 62) ∧
    (∀ l < 32, laneBit (wE.exec lh) l = true → GoodTarget (wE.vr64 l 62).toNat) ∧
    IsLowest (lanesWith (wCrooked.exec lh) fun l => decide ((wCrooked.vr64 l 62).toNat % 4 ≠ 0)) 3 ∧
    lanesWith (wFar.exec lh) (fun l => decide ((wFar.vr64 l 62).toNat % 4 ≠ 0)) = 0 ∧
    IsLowest (lanesWith (wFar.exec lh) fun l => decide (¬ Canonical (wFar.vr64 l 62).toNat)) 5 ∧
    wE.wait = none ∧ wE.qGuard wh = true ∧ ¬ EndsLoop wE (.bra wh maxOff) ∧ ¬ EndsLoop wE (.call wh maxOff) ∧
    ¬ EndsLoop wE (.ret wh) ∧ GoodTarget wE.link.toNat ∧ { wE with link := 2 }.link.toNat % 4 ≠ 0 ∧
    ¬ Canonical { wE with link := 0x100000000000000 }.link.toNat :=
  ⟨⟨slotHolds.1, by decide +kernel, by decide +kernel, by decide +kernel⟩, witness_HasHandler, by decide +kernel, by unfold Reaches; decide +kernel,
    by unfold Reaches; decide +kernel, endsNoLoop _, by decide +kernel, endsNoLoop _, by decide +kernel, lowestIs (by decide +kernel), by decide +kernel,
    lowestIs (by decide +kernel), by decide +kernel, by decide +kernel, endsNoLoop _, endsNoLoop _, endsNoLoop _, by decide +kernel, by decide +kernel,
    by decide +kernel⟩

/-- A warp at the top of the lower half of the address space, and one in three loops. -/
def wTop : Warp := { wE with vpc := List.replicate 32 0xFFFFFFFFFFFFFC }
def wDeep : Warp := { wE with loops := [⟨0, 0x20000, 0⟩, ⟨0, 0x20000, 0⟩, ⟨0, 0x20000, 0⟩], lc := [(0, 1), (1, 1), (2, 1)] }
def wIn : Warp := { wE with loops := [⟨0x10000, 0x10010, 0⟩], lc := [(0, 2)] }

theorem notAt {w : Warp} {i : Instr} {r : LoopRec} {rs : List LoopRec} (hi : w.inh = false) (h : w.loops = r :: rs)
    (k : r.exitAddr ≠ w.issueAddr + i.len) : ¬ EndsLoop w i := by
  rintro ⟨q, hq, e⟩
  simp [hi, h] at hq
  exact k (hq ▸ e)

theorem witness_LoopWordsOpenARecord : 3 ≤ (3 : BitVec 14).toNat ∧ sE.warp? sE.cur = some wE ∧ wE.wait = none ∧
    (∀ e ∈ loopWords wh 1 1 3 wE, ¬ EndsLoop wE e.1) ∧ ¬ Canonical (wTop.issueAddr + 4 * (3 : BitVec 14).toNat) ∧
    Canonical (wE.issueAddr + 4 * (3 : BitVec 14).toNat) ∧ wE.sr 1 = 0 ∧ wE.qGuard wh = true ∧
    (1 : BitVec 16).zeroExtend 32 ≠ (0 : W32) ∧ loopDepth wE < 3 ∧ loopDepth wDeep = 3 ∧
    (∀ e ∈ loopWords wh 1 1 3 wDeep, ¬ EndsLoop wDeep e.1) ∧
    (loopDepth wIn < 3 ∧ ¬ ∀ r, wIn.loops.head? = some r → wIn.issueAddr + 4 * 5 ≤ r.exitAddr) ∧
    ∀ e ∈ loopWords wh 1 1 5 wIn, ¬ EndsLoop wIn e.1 :=
  ⟨by decide +kernel, slotHolds.1, by decide +kernel, fun _ _ => endsNoLoop _, by decide +kernel, by decide +kernel, by decide +kernel, by decide +kernel, by decide +kernel, by decide +kernel,
    by decide +kernel, fun e he => notAt (by decide +kernel) rfl (by simp [loopWords] at he; rcases he with rfl | rfl <;> decide),
    ⟨by decide +kernel, fun h => absurd (h _ rfl) (by decide +kernel)⟩,
    fun e he => notAt (by decide +kernel) rfl (by simp [loopWords] at he; rcases he with rfl | rfl <;> decide)⟩

/-- The next word ends a loop, with two iterations left, or one; and a warp whose lanes 1 and up stand elsewhere. -/
def wEnd (n : W32) : Warp := { wE with loops := [⟨0x10000, 0x10004, 0⟩], lc := [(0, n)] }
def wApart : Warp := { wEnd 2 with vpc := 0x10000 :: List.replicate 31 0x10040 }

theorem witness_LoopEndsCountDownOrTrap :
    (∀ n, (have_ (wEnd n)).warp? 1 = some (wEnd n)) ∧ (wEnd 2).wait = none ∧ (wEnd 2).inh = false ∧
    (wEnd 2).loops = ⟨0x10000, 0x10004, 0⟩ :: [] ∧ 0x10004 = (wEnd 2).issueAddr + 4 ∧ (wEnd 2).active = (wEnd 2).live ∧
    1 < (kget (wEnd 2).lc 0 0).toNat ∧ (kget (wEnd 1).lc 0 0).toNat ≤ 1 ∧ (kget (wEnd 0).lc 0 0).toNat ≤ 1 ∧
    Reaches (wEnd 2) maxOff ∧ HasHandler (withHandler (have_ (wEnd 2))) (wEnd 2) 0x8000 ∧
    wApart.role = .epilogue ∧ wApart.active ≠ wApart.live ∧ EndsLoop wApart (.nop wh) ∧
    HasHandler (withHandler (have_ wApart)) wApart 0x8000 :=
  ⟨fun _ => haveIt _, by decide +kernel, by decide +kernel, rfl, by decide +kernel, by decide +kernel, by decide +kernel, by decide +kernel, by decide +kernel, by unfold Reaches; decide +kernel,
    handlerOf, by decide +kernel, by decide +kernel,
    ⟨⟨0x10000, 0x10004, 0⟩, by decide +kernel, by decide +kernel⟩,
    handlerOf⟩

/-- Two records share an exit address, the inner one in its last iteration; the same in handler mode. -/
def wShared (n : W32) : Warp := { wE with loops := [⟨0x10000, 0x10004, 0⟩, ⟨0x10000, 0x10004, 0⟩], lc := [(0, n), (1, 1)] }
def hShared (n : W32) : Warp :=
  { wH with hloops := [⟨0x10000, canon57 (wH.issueAddr + 4), 1⟩, ⟨0x10000, canon57 (wH.issueAddr + 4), n⟩] }

theorem witness_LoopEndTestCountsDown :
    ((wShared 2).inh = false ∧ (wShared 2).active = (wShared 2).live ∧ (wShared 2).issueAddr + 4 = 0x10004) ∧
    (∀ n, (wShared n).loops = [⟨0x10000, 0x10004, 0⟩] ++ [⟨0x10000, 0x10004, 0⟩]) ∧
    (kget (wShared 2).lc 1 0).toNat ≤ 1 ∧ 1 < (kget (wShared 2).lc 0 0).toNat ∧ (kget (wShared 1).lc 0 0).toNat ≤ 1 ∧
    ((hShared 2).inh = true ∧ (hShared 2).wait = none ∧ (hShared 2).issueAddr = wH.issueAddr ∧
      wH.issueAddr + 4 = canon57 (wH.issueAddr + 4)) ∧ (1 : W32).toNat ≤ 1 ∧ 1 < (2 : W32).toNat :=
  ⟨⟨by decide +kernel, by decide +kernel, by decide +kernel⟩, fun _ => rfl, by decide +kernel, by decide +kernel, by decide +kernel,
    ⟨by decide +kernel, by decide +kernel, by decide +kernel, by decide +kernel⟩, by decide, by decide⟩

theorem witness_ForbiddenLoopEndsTrap : EndsLoop (wEnd 2) (.bra wh 0) ∧ EndsLoop (wEnd 2) (.join lh 7) ∧
    EndsLoop { hShared 2 with hloops := (hShared 2).hloops } (.tret wh) ∧ Reaches (wEnd 2) maxOff ∧ GoodTarget (wEnd 2).link.toNat ∧
    Canonical ((wEnd 2).issueAddr + 4 * (3 : BitVec 14).toNat) ∧ (wEnd 2).role = .epilogue ∧ (wEnd 2).inh = false ∧
    (∀ l < 32, laneBit ((wEnd 2).exec lh) l = true → GoodTarget ((wEnd 2).vr64 l 62).toNat) ∧ (62 : Reg).toNat + 2 ≤ (wEnd 2).vregs ∧
    (hShared 2).inh = true ∧ GoodTarget (hShared 2).tpc.toNat ∧ HasHandler (withHandler (have_ (wEnd 2))) (wEnd 2) 0x8000 ∧
    (wE.qGuard ⟨false, 6⟩ = false ∧ EndsLoop { wE with loops := [⟨0x10000, 0x10008, 0⟩] } (.brx ⟨false, 6⟩ 62 61 9)) :=
  ⟨⟨_, rfl, by decide +kernel⟩, ⟨_, rfl, by decide +kernel⟩, ⟨_, rfl, by decide +kernel⟩, by unfold Reaches; decide +kernel,
    by decide +kernel, by decide +kernel, by decide +kernel, by decide +kernel, by decide +kernel, by decide +kernel, by decide +kernel,
    by decide +kernel, handlerOf, by decide +kernel, ⟨_, rfl, by decide +kernel⟩⟩

theorem witness_LoopBreakClosesTheInnermostRecord :
    sE.warp? sE.cur = some wE ∧ ¬ EndsLoop wE (.lbreak wh 0) ∧ wE.qGuard ⟨false, 6⟩ = false ∧
    ¬ Reaches wE minOff ∧ Reaches wE 0 ∧ wE.loops = [] ∧ HasHandler (withHandler sE) wE 0x8000 ∧
    (wIn.loops = ⟨0x10000, 0x10010, 0⟩ :: [] ∧ wIn.active = wIn.live ∧ ¬ EndsLoop wIn (.lbreak wh 0)) ∧
    { wH with hloops := [⟨0, 0x20000, 1⟩] }.inh = true ∧ wH.inh = true ∧ wH.hloops = [] ∧ ¬ EndsLoop wH (.lbreak wh 0) :=
  ⟨slotHolds.1, endsNoLoop _, by decide +kernel, by unfold Reaches; decide, by unfold Reaches; decide, by decide +kernel, witness_HasHandler,
    ⟨rfl, by decide +kernel, notAt (by decide +kernel) rfl (by decide +kernel)⟩, by decide +kernel, by decide +kernel, by decide +kernel, endsNoLoop _⟩

/-- A warp with a mask for its JOIN: lanes 0 and 1, of which lane 1 stands elsewhere. -/
def wMask (m : LaneMask) : Warp := { wE with jm := [(7, m)], vpc := 0x10000 :: 0x10040 :: List.replicate 30 0x10000 }
def wStuck : Warp := { wE with live := 3, waitK := [(0, 2), (7, 1)], jm := [(7, 1)] }

theorem witness_JarrSetsItsMask : IssuesLane sE wE ∧ MayEndHere wE (.jarr lh true 7) :=
  ⟨⟨slotHolds.1, by decide +kernel, by decide +kernel, by decide +kernel⟩, mayEnd _⟩

theorem witness_JoinsParkAndReleaseTheirLanes : IssuesLane sE wE ∧
    ¬ EndsLoop (wMask 3) (.join lh 7) ∧ joinWaiters wE (wE.exec lh) 7 = 0 ∧ joinWaiters (wMask 3) ((wMask 3).exec lh) 7 ≠ 0 ∧
    (laneBit 3 1 = true ∧ laneBit (joinWaiters (wMask 3) ((wMask 3).exec lh) 7) 1 = false ∧ laneBit (wMask 3).ready 1 = true) ∧
    joinWaiters (wMask 1) ((wMask 1).exec lh) 7 = 1 ∧
    (wStuck.inh = false ∧ wStuck.ready = 0 ∧ wStuck.lateLanes = 0 ∧
      laneBit (kget wStuck.waitK 0 0) 1 = true ∧ ∀ j < 8, ∀ m < 32, laneBit (kget wStuck.waitK j 0) m = true →
        wStuck.vpcOf 1 ≤ wStuck.vpcOf m ∧ (wStuck.vpcOf m = wStuck.vpcOf 1 → 0 ≤ j)) :=
  ⟨⟨slotHolds.1, by decide +kernel, by decide +kernel, by decide +kernel⟩, endsNoLoop _, by decide +kernel, by decide +kernel, by decide +kernel,
    by decide +kernel, by decide +kernel⟩

theorem witness_SpecialRegistersAreReadAndWritten : Issues sE wE wh ∧ InTeam sE wE tE ∧ MayEndHere wE (.srd wh 62 0x20) ∧
    (0x20, 0) ∈ specialValues sE wE tE ∧ (0x3F, 0) ∈ specialValues sH wH tE ∧ wH.inh = true ∧
    (62 : Reg).toNat < 63 ∧ ¬ isPairIndex 0x3F ∧ ¬ EndsLoop wE (.swr wh 0x21 63) ∧ WritableMask wE 0x1F (2 ^ 32 - 1) ∧
    WritableMask wE 0x20 (2 ^ 64 - 1) ∧ WritableMask wE 0x21 0x1F ∧ WritableMask wH 0x30 0x3F ∧
    WritableMask wH 0x32 (2 ^ 64 - 1) ∧ WritableMask wH 0x3F (2 ^ 32 - 1) ∧ MayEndHere wE (.clk wh 62) := by
  refine ⟨⟨slotHolds.1, by decide +kernel, by decide +kernel⟩, slotHolds.2.2.2.2.1, mayEnd _, by decide +kernel,
    by decide +kernel, by decide +kernel, by decide +kernel, by decide +kernel, endsNoLoop _, ?_, ?_, ?_, ?_, ?_, ?_,
    mayEnd _⟩ <;> unfold WritableMask <;> decide

theorem witness_TrapWordsEnterTheHandlerOrHaltTheTeam : Issues sE wE wh ∧ ¬ EndsLoop wE (.trap wh 0x3FFFF) ∧
    HasHandler (withHandler sE) wE 0x8000 ∧ InTeam sE wE tE ∧ kget? sE.contexts tE.ctx = some placedContext ∧
    placedContext.thand = 0 ∧ Issues sH wH wh ∧ wH.inh = true ∧ InTeam sH wH ((sH.team? 0).get (by decide +kernel)) ∧
    ¬ EndsLoop wH (.trap wh 0) :=
  ⟨⟨slotHolds.1, by decide +kernel, by decide +kernel⟩, endsNoLoop _, witness_HasHandler, slotHolds.2.2.2.2.1, by decide +kernel, by decide +kernel,
    ⟨slotHolds.2.2.2.1, by decide +kernel, by decide +kernel⟩, by decide +kernel, by unfold InTeam; decide, endsNoLoop _⟩

/-! ## Witnesses: decode causes and memory words -/

theorem issuesLane {s : State} {w : Warp} (h : s.warp? s.cur = some w := by rfl) (a : w.wait = none := by decide +kernel)
    (b : w.role = .epilogue := by decide +kernel) (c : w.inh = false := by decide +kernel) : IssuesLane s w := ⟨h, a, b, c⟩

theorem issues {s : State} {w : Warp} (h : s.warp? s.cur = some w := by rfl) (a : w.wait = none := by decide +kernel)
    (c : w.qGuard wh = true := by decide +kernel) : Issues s w wh := ⟨h, a, c⟩

theorem witness_DecodeCausesComeBeforeAnyEffect : sC.warp? sC.cur = some wC ∧ wC.role ≠ .epilogue ∧
    HasHandler (withHandler sC) wC 0x8000 ∧ sE.warp? sE.cur = some wE ∧ wE.role = .epilogue ∧
    (∃ row ∈ someLaneRows lh 63 63 63 63 0 false .rn, ∃ g ∈ row.groups, wE.vregs < g.1 + g.2) ∧
    (∀ row ∈ someLaneRows lh 62 62 62 62 0 false .rn, ∀ g ∈ row.groups, g.1 + g.2 ≤ wE.vregs) ∧
    ({ wE with inh := true }.inh = true ∧ { wE with inh := true }.wait = none) ∧
    ∀ e ∈ roleWords wh 62 62 62 0 0 true, wE.role ≠ e.1 :=
  ⟨slotHolds.2.1, by decide +kernel,
    ⟨by decide +kernel, by decide +kernel, by decide +kernel, tC, { placedContext with thand := 0x8000 },
      slotHolds.2.2.2.2.2.1, by decide +kernel, rfl⟩,
    slotHolds.1, by decide +kernel, by decide +kernel, by decide +kernel, by decide +kernel, by decide +kernel⟩

theorem witness_DecodeCausesComeBeforeAnyEffect_types : IssuesLane sE wE ∧ (63 : Reg).toNat < wE.vregs ∧
    (60 : Reg).toNat + 4 ≤ wE.vregs ∧ ¬ sixteenBits .f32 ∧ ¬ eightBits .f32 ∧ narrowFmt .s8 = none ∧
    MayEndHere wE (.pack2 lh 63 60 63 .f32 .rn true) ∧ wE.exec lh ≠ 0 ∧ wE.exec ⟨true, false, 0⟩ = 0 ∧
    HasHandler (withHandler sE) wE 0x8000 := by
  refine ⟨issuesLane slotHolds.1, by decide +kernel, by decide +kernel, ?_, ?_, rfl, mayEnd _, by decide +kernel,
    by decide +kernel, witness_HasHandler⟩ <;> simp [sixteenBits, eightBits, narrowFmt]

theorem kgetMem {m : KMap α} {k : Nat} {a : α} (h : kget? m k = some a) : (k, a) ∈ m := by
  induction m with
  | nil => exact absurd h nofun
  | cons e m ih =>
    unfold kget? at h
    split at h
    · next hk => cases h; rw [← hk]; exact List.mem_cons_self
    · exact List.mem_cons_of_mem _ (ih h)

/-- The context of the team has no private window, so every lane's access stays where its address lies. -/
theorem backedA (w : Warp) (l : Nat) (a : Int) (n : Nat) : BackingInRange sA w l a n := by
  intro t c ht hc hn
  have k : ∀ e ∈ sA.teams, ∀ d, kget? sA.contexts e.2.ctx = some d → d.nPriv = 0 := by decide +kernel
  rw [State.team?] at ht
  exact absurd (k (w.team, t) (kgetMem ht) c hc) hn

theorem laneAccessibleA {t : Team} {sp : Space} {l : Nat} {a : Int} {size : Size} (h : Accessible t sp a size) (w : Warp := wA) :
    LaneAccessible sA w t sp l a size :=
  ⟨h.1, h.2, fun _ => backedA w l a _⟩

/-- A context with a private window of 64 KiB for each lane, at 0x10000, and the state that has it. -/
def windowed : State :=
  { sA with contexts := [(0, { placedContext with nPriv := 2, pBase := 0x10000, pBack := 0x4000000, pMaxLog2 := 16 })] }

theorem witness_LaneAccessible_window : (∀ l < 32, LaneAccessible windowed wA tA .glob l (laneAt wA .glob 62 0 l) .b128) ∧
    ∃ t c, windowed.team? wA.team = some t ∧ kget? windowed.contexts t.ctx = some c ∧ c.nPriv ≠ 0 ∧
      (c.pBase : Int) ≤ laneAt wA .glob 62 0 0 ∧ laneAt wA .glob 62 0 0 < (c.pBase : Int) + 2 ^ c.pMaxLog2 := by
  refine ⟨fun l hl => ⟨?_, ?_, fun _ t c ht hc _ _ _ => ?_⟩, tA, _, by decide +kernel, rfl, by decide +kernel, by decide +kernel,
    by decide +kernel⟩
  · exact (by decide +kernel : ∀ l < 32, laneAt wA .glob 62 0 l % Size.b128.bytes = 0) l hl
  · unfold InSpace; exact (by decide +kernel : ∀ l < 32, 0 ≤ laneAt wA .glob 62 0 l ∧
      (laneAt wA .glob 62 0 l + (16 : Nat) ≤ 2 ^ 56 ∨ (2 ^ 64 - 2 ^ 56 ≤ laneAt wA .glob 62 0 l ∧
        laneAt wA .glob 62 0 l + (16 : Nat) ≤ 2 ^ 64))) l hl
  · cases (Option.some.inj ((by decide +kernel : windowed.team? wA.team = some tA).symm.trans ht))
    cases hc
    exact .inl ((by decide +kernel : ∀ l < 32, 0x4000000 + (32 * wA.privIndex + l) * 2 ^ 16 +
      ((laneAt wA .glob 62 0 l).toNat - 0x10000) + 16 ≤ 2 ^ 56) l hl)

theorem witness_LoadsAndAtomicsOpenAWindow : IssuesLane sA wA ∧ InTeam sA wA tA ∧ (60 : Reg).toNat + Size.b128.regs ≤ wA.vregs ∧
    (62 : Reg).toNat + pointerRegs .glob ≤ wA.vregs ∧ (∀ f ∈ laneLoads lh 60 62 15 false 0x7FFFF0 .b128 .core .plain,
      MayEndHere wA f.word) ∧ wA.taskst = false ∧ sA.bad = [] ∧
    (∀ l < 32, laneBit (wA.exec lh) l = true →
      LaneAccessible sA wA tA .glob l (laneAt wA .glob 62 0x7FFFF0 l) .b128 ∧
      LaneAccessible sA wA tA .spad l (laneAt wA .spad 60 0xF80 l) .b128 ∧
      LaneAccessible sA wA tA .orang l (laneAt wA .orang 58 0xFEF0 l) .b128) ∧
    Issues sA wA wh ∧ (∀ f ∈ scalarLoads wh 60 62 15 false 0 .b128 .core .plain, MayEndHere wA f.word) ∧
    Accessible tA .glob (scalarAt wA .glob 62 0) .b128 ∧ Accessible tA .spad (scalarAt wA .spad 60 (-128)) .b128 ∧
    (60 : Reg).toNat + operandRegs .cas .b64 ≤ wA.vregs ∧ (∀ f ∈ laneAtomics lh 62 62 15 60 .cas 0 .b64 .core .rlx,
      MayEndHere wA f.word) ∧ (62 : Reg).toNat + Size.b64.regs ≤ 64 ∧
    MayEndHere wA (.satom wh 62 62 15 60 .cas 0 .b64 .core .rlx) := by
  refine ⟨issuesLane, rfl, by decide +kernel, by decide +kernel, fun _ _ => mayEnd _, by decide +kernel, by decide +kernel,
    ?_, issues, fun _ _ => mayEnd _, ?_, ?_, by decide +kernel, fun _ _ => mayEnd _, by decide +kernel, mayEnd _⟩
  · have k : ∀ l < 32, Accessible tA .glob (laneAt wA .glob 62 0x7FFFF0 l) .b128 ∧
        Accessible tA .spad (laneAt wA .spad 60 0xF80 l) .b128 ∧ Accessible tA .orang (laneAt wA .orang 58 0xFEF0 l) .b128 := by
      unfold Accessible InSpace; decide +kernel
    exact fun l hl _ => ⟨laneAccessibleA (k l hl).1, laneAccessibleA (k l hl).2.1, laneAccessibleA (k l hl).2.2⟩
  all_goals unfold Accessible InSpace; decide +kernel

theorem nothingBefore {w : Warp} (h : w.storeQ = [] := by decide +kernel) (k : w.opLog = [] := by decide +kernel)
    (m : w.windows = [] := by decide +kernel) : NothingBefore w := ⟨h, k, by simp [m]⟩

theorem witness_LoadsReadTheirBytes : IssuesLane sA wA ∧ InTeam sA wA tA ∧ NothingBefore wA ∧
    (∀ l < 32, laneBit (wA.exec lh) l = true →
      Accessible tA .spad (laneAt wA .spad 60 0 l) .b128 ∧ LinesPresent tA wA (laneAt wA .spad 60 0 l).toNat 16) ∧
    (∀ l < 32, laneBit (wA.exec lh) l = true → Accessible tA .orang (laneAt wA .orang 58 0 l) .b128) ∧
    Issues sA wA wh ∧ Accessible tA .glob (scalarAt wA .glob 62 0) .b128 ∧ (∀ y ∈ wA.windows, y.acc.seq < wA.seq) ∧
    sA.fab = [] ∧ OwnUnit sA sA wA tA (.lane 1 0 0) .read 0x10000 .b128 0x10000 0 ∧
    kget? (sA.core wA.core).l1 (0x10000 / 128 * 128) = none := by
  refine ⟨issuesLane, rfl, nothingBefore, ?_, ?_, issues, ?_, by decide +kernel, rfl, ⟨⟨0, ?_⟩, ?_⟩, by decide +kernel⟩
  · simp only [Accessible, InSpace, LinesPresent]; decide +kernel
  · simp only [Accessible, InSpace]; decide +kernel
  · unfold Accessible InSpace; decide +kernel
  · exact answers_eq (by decide)
  · decide +kernel

theorem witness_StoresEnterTheirQueue : IssuesLane sA wA ∧ InTeam sA wA tA ∧
    (∀ f ∈ laneStores lh 60 58 0 .b128 .core .plain ++ [⟨.cst lh 60 62 0 .b128 .core .plain, .glob, false, .core, .plain⟩,
      ⟨.discard lh 62 0, .glob, false, .core, .plain⟩, ⟨.spclr wh 60 61, .spad, false, .core, .plain⟩] ++
      scalarStores wh 60 62 0 .b128 .core .plain, MayEndHere wA f.word) ∧
    (∀ l < 32, laneBit (wA.exec lh) l = true → LaneAccessible sA wA tA .glob l (laneAt wA .glob 62 0 l) .b128 ∧
      LaneAccessible sA wA tA .spad l (laneAt wA .spad 60 0 l) .b128 ∧
      LaneAccessible sA wA tA .orang l (laneAt wA .orang 58 0 l) .b128) ∧
    IsLowest (wA.exec lh) 0 ∧ laneAt wA .glob 62 0 0 % 16 = 0 ∧ InSpace tA .glob (laneAt wA .glob 62 0 0) (32 * 16) ∧
    (∀ k, BackingInRange sA wA k (laneAt wA .glob 62 0 0 + (k * 16 : Nat)) 16) ∧
    (∀ l < 32, laneBit (wA.exec lh) l = true → LaneInSpace sA wA tA .glob l (laneAt wA .glob 62 3 l) 1) ∧ wA.exec lh ≠ 0 ∧
    wA.sr 61 = 0 ∧ { wA with s := [(60, 0x80), (61, 63)] }.sr 61 ≠ 0 ∧ InSpace tA .spad 0x80 (128 * 31) := by
  refine ⟨issuesLane, rfl, fun _ _ => mayEnd _, ?_, lowestIs (by decide +kernel), by decide +kernel, ?_, fun _ => backedA _ _ _ _,
    ?_, by decide +kernel, by decide +kernel, by decide +kernel, ?_⟩
  · have k : ∀ l < 32, Accessible tA .glob (laneAt wA .glob 62 0 l) .b128 ∧ Accessible tA .spad (laneAt wA .spad 60 0 l) .b128 ∧
        Accessible tA .orang (laneAt wA .orang 58 0 l) .b128 := by
      unfold Accessible InSpace; decide +kernel
    exact fun l hl _ => ⟨laneAccessibleA (k l hl).1, laneAccessibleA (k l hl).2.1, laneAccessibleA (k l hl).2.2⟩
  · simp only [InSpace]; decide +kernel
  · have k : ∀ l < 32, InSpace tA .glob (laneAt wA .glob 62 3 l) 1 := by simp only [InSpace]; decide +kernel
    exact fun l hl _ => ⟨k l hl, fun _ => backedA _ _ _ _⟩
  · simp only [InSpace]; decide +kernel

/-- Lane 3 of the crooked warp's v62:v63 is not aligned; lane 5 of the far one's lies outside the address space. -/
theorem witness_MemoryWordsCheckTheirAddresses : (0 : BitVec 14).toInt = (0 : BitVec 24).toInt ∧
    IssuesLane (withHandler (have_ wCrooked)) wCrooked ∧ HasHandler (withHandler (have_ wCrooked)) wCrooked 0x8000 ∧
    IsLowest (lanesWith (wCrooked.exec lh) fun l => decide (laneAt wCrooked .glob 62 0 l % Size.b32.bytes ≠ 0)) 3 ∧
    lanesWith (wFar.exec lh) (fun l => decide (laneAt wFar .glob 62 0 l % Size.b32.bytes ≠ 0)) = 0 ∧
    IsLowest 0x20 5 ∧ ∀ k < 32, laneBit 0x20 k = true ↔
      laneBit (wFar.exec lh) k = true ∧ ¬ LaneInSpace sA wFar tE .glob k (laneAt wFar .glob 62 0 k) Size.b32.bytes := by
  refine ⟨rfl, issuesLane, handlerOf, lowestIs (by decide +kernel), by decide +kernel, lowestIs (by decide +kernel), fun k hk => ?_⟩
  have e : LaneInSpace sA wFar tE .glob k (laneAt wFar .glob 62 0 k) Size.b32.bytes ↔
      InSpace tE .glob (laneAt wFar .glob 62 0 k) Size.b32.bytes := ⟨fun h => h.1, fun h => ⟨h, fun _ => backedA _ _ _ _⟩⟩
  rw [e]
  exact (by unfold InSpace; decide +kernel : ∀ k < 32, laneBit 0x20 k = true ↔
    laneBit (wFar.exec lh) k = true ∧ ¬ InSpace tE .glob (laneAt wFar .glob 62 0 k) Size.b32.bytes) k hk

theorem witness_AtomicsReplaceTheirUnit : IssuesLane sA wA ∧ InTeam sA wA tA ∧ NothingBefore wA ∧ atomicSize .exch .b128 ∧
    atomicSize .cas .b64 ∧ atomicSize .fadd .b32 ∧ MayEndHere wA (.atoms lh 60 60 0 60 .cas 0 .b64 .plain) ∧
    (∀ l < 32, laneBit (wA.exec lh) l = true →
      Accessible tA .spad (laneAt wA .spad 60 0 l) .b64 ∧ LinesPresent tA wA (laneAt wA .spad 60 0 l).toNat 8) ∧
    Issues sA wA wh ∧ Accessible tA .glob (scalarAt wA .glob 62 0) .b64 ∧
    OwnUnit sA sA wA tA (.lane 1 0 0) .atomic 0x10000 .b64 0x10000 0 := by
  refine ⟨issuesLane, rfl, nothingBefore, by simp [atomicSize], by simp [atomicSize], by simp [atomicSize], mayEnd _, ?_,
    issues, ?_, ⟨⟨0, ?_⟩, ?_⟩⟩
  · simp only [Accessible, InSpace, LinesPresent]; decide +kernel
  · unfold Accessible InSpace; decide +kernel
  · exact answers_eq (by decide)
  · decide +kernel

/-- A queued store of two lanes to one word, and one of a scalar word. -/
def accX (sp : Space) (scalar : Bool) (ps : List Part) : Acc :=
  { kind := .store, space := sp, scalar := scalar, size := .b32, sx := false, scope := .core, ord := .plain, seq := 0
    pc := 0x10000, w0 := 0, w1 := 0, parts := ps }
def twoParts : List Part := [⟨0, 0x1FFC, [1]⟩, ⟨31, 0x1FFC, [2]⟩]
def wQ (x : Acc) : Warp := { wA with storeQ := [x] }

theorem storeAtHead {x : Acc} (h : x.kind = .store := by rfl) (k : x.ord = .plain := by rfl) :
    StoreAtHead (haveA (wQ x)) (wQ x) 1 x [] :=
  ⟨rfl, rfl, (by decide +kernel : wA.opLog = []), h, k, (by decide +kernel : sA.bad = []), fun y hy => absurd hy (by
    rw [show (wQ x).windows = [] from (by decide +kernel : wA.windows = [])]; simp)⟩

theorem witness_StoresWriteTheirBytesWhenPerformed :
    StoreAtHead (haveA (wQ (accX .spad false twoParts))) (wQ (accX .spad false twoParts)) 1 (accX .spad false twoParts) [] ∧
    InTeam (haveA (wQ (accX .spad false twoParts))) (wQ (accX .spad false twoParts)) tA ∧
    (∀ p ∈ twoParts, p.addr < 2 ^ 19 ∧ p.addr % 4 = 0 ∧ 1 ≤ p.data.length ∧ LinesPresent tA wA p.addr 4) ∧
    StoreAtHead (haveA (wQ (accX .glob true [⟨0, 0x10000, [7]⟩]))) (wQ (accX .glob true [⟨0, 0x10000, [7]⟩])) 1
      (accX .glob true [⟨0, 0x10000, [7]⟩]) [] ∧
    OwnUnit (haveA (wQ (accX .glob true [⟨0, 0x10000, [7]⟩]))) (haveA (wQ (accX .glob true [⟨0, 0x10000, [7]⟩])))
      (wQ (accX .glob true [⟨0, 0x10000, [7]⟩])) tA (.store 1 0 0) .write 0x10000 .b32 0x10000 0 := by
  refine ⟨storeAtHead, inA, ?_, storeAtHead, ⟨⟨0, ?_⟩, ?_⟩⟩
  · unfold LinesPresent; decide +kernel
  · exact answers_eq (by decide)
  · decide +kernel

/-- A place for every lane, and what the lanes' translations of one address answer. -/
def onePlace (_ : Nat) : Nat × Nat := (0x10000, 0)
theorem ownUnits {s : State} {w : Warp} {who : Nat → Waiter} {kind : AccessKind} {ls : List Nat} {ad : Nat → Nat} {size : Size}
    (h : (ls.all fun l => answers (translateLane s (who l) tA.ctx w l (ad l) size.bytes kind) s (.own 0x10000 0) 0) = true)
    (hw : Config.homeDie 0x10000 = w.core / 192 ∧ 0x10000 % size.bytes = 0) : OwnUnits s w tA who kind ls ad size onePlace :=
  fun l hl => ⟨⟨0, answers_eq (List.all_eq_true.1 h l hl)⟩, hw.1, hw.2, (by decide : 0x10000 + 16 ≤ 2 ^ 63), (by decide : 0 < 128)⟩

theorem witness_LaneLoadReadsItsHomes : IssuesLane sA wA ∧ InTeam sA wA tA ∧ MayEndHere wA (.ld lh 58 62 0 false 0 .b128 .core .plain) ∧
    MayEndHere wA (.atom lh 58 62 0 60 .cas 0 .b64 .core .rlx) ∧ NothingBefore wA ∧
    (∀ l < 32, LaneAccessible sA wA tA .glob l (laneAt wA .glob 62 0 l) .b128) ∧ lanesUp (wA.exec lh) = List.range 32 ∧
    OwnUnits sA wA tA (fun l => .lane 1 wA.seq l) .read (lanesUp (wA.exec lh)) (fun l => (laneAt wA .glob 62 0 l).toNat) .b128 onePlace ∧
    OwnUnits sA wA tA (fun l => .lane 1 wA.seq l) .atomic (lanesUp (wA.exec lh)) (fun l => (laneAt wA .glob 62 0 l).toNat) .b64 onePlace ∧
    ∀ l, kget? (sA.core wA.core).l1 ((onePlace l).1 / 128 * 128 + (onePlace l).2) = none := by
  refine ⟨issuesLane, rfl, mayEnd _, mayEnd _, nothingBefore, fun l hl => laneAccessibleA ?_, by decide +kernel,
    ownUnits (by decide +kernel) (by decide +kernel), ownUnits (by decide +kernel) (by decide +kernel),
    fun _ => by simp only [onePlace]; decide +kernel⟩
  revert l
  unfold Accessible InSpace; decide +kernel

theorem witness_LaneStoresReachTheirHomes :
    (∀ x ∈ [accX .glob false [⟨0, 0x10000, [7]⟩, ⟨31, 0x10000, [8]⟩],
        { accX .glob false [⟨0, 0x10000, []⟩, ⟨31, 0x10000, []⟩] with kind := .discard, size := .b8 }],
      (haveA (wQ x)).warp? 1 = some (wQ x) ∧ InTeam (haveA (wQ x)) (wQ x) tA ∧ (wQ x).storeQ = x :: [] ∧ (wQ x).opLog = [] ∧
      x.ord = .plain ∧ (haveA (wQ x)).bad = [] ∧ (haveA (wQ x)).fab = [] ∧ (wQ x).windows = [] ∧ x.space = .glob ∧
      x.scalar = false ∧ (x.parts.map (·.lane)).Pairwise (· < ·) ∧
      OwnUnits (haveA (wQ x)) (wQ x) tA (fun l => .store 1 x.seq l) (if x.kind = .store then .write else .discard)
        (x.parts.map (·.lane)) (fun l => ((x.parts.find? fun p => p.lane == l).map (·.addr)).getD 0) x.size onePlace) ∧
    ∃ x : Acc, x.kind = .spclr ∧ x.space = .spad ∧ x.parts = [⟨0, 128, [2]⟩] ∧ LinesPresent tA (wQ x) 128 (128 * (2 : W32).toNat) := by
  have k : ∀ x ∈ [accX .glob false [⟨0, 0x10000, [7]⟩, ⟨31, 0x10000, [8]⟩],
        { accX .glob false [⟨0, 0x10000, []⟩, ⟨31, 0x10000, []⟩] with kind := .discard, size := .b8 }],
      ((wQ x).storeQ = x :: [] ∧ (wQ x).opLog = []) ∧ (x.ord = .plain ∧ (haveA (wQ x)).bad = [] ∧ (haveA (wQ x)).fab = []) ∧
      ((wQ x).windows = [] ∧ x.space = .glob ∧ x.scalar = false) ∧ (x.parts.map (·.lane)).Pairwise (· < ·) ∧
      ((x.parts.map (·.lane)).all fun l => answers (translateLane (haveA (wQ x)) (.store 1 x.seq l) tA.ctx (wQ x) l
        (((x.parts.find? fun p => p.lane == l).map (·.addr)).getD 0) x.size.bytes (if x.kind = .store then .write else .discard))
        (haveA (wQ x)) (.own 0x10000 0) 0) = true ∧ Config.homeDie 0x10000 = (wQ x).core / 192 ∧ 0x10000 % x.size.bytes = 0 := by
    decide +kernel
  refine ⟨fun x hx => ?_, { accX .spad true [⟨0, 128, [2]⟩] with kind := .spclr }, rfl, rfl, rfl, ?_⟩
  · obtain ⟨⟨a1, a2⟩, ⟨b1, b2, b3⟩, ⟨c1, c2, c3⟩, d, e, f⟩ := k x hx
    exact ⟨rfl, inA (by decide +kernel : wA.team = 0), a1, a2, b1, b2, b3, c1, c2, c3, d, ownUnits e f⟩
  · unfold LinesPresent; decide +kernel

/-- A window whose load has its value in every lane; closed, and open; lanes 0 and 31 late. -/
def window (closed : Bool) : Window :=
  { acc := accX .glob false [], dest := .lanes 62 2, la := 0, count := 0, handler := false, closed := closed, lanes := BitVec.allOnes 32
    ready := BitVec.allOnes 32, vals := [], late := 0x80000001, dead := 0, shutNo := 0, skip := [] }

theorem witness_FencesWaitForEarlierAccesses : Issues sA wA wh ∧ LoadsDone wA ∧ FenceHolds sA wA .system .acqrel ∧
    NoAsyncLeft sA wA ∧ MayEndHere wA (.fence wh .system .acqrel) ∧ MayEndHere wA (.fencea wh .core .acq) ∧
    (wQ (accX .spad false twoParts)).storeQ ≠ [] ∧
    ¬ NoAsyncLeft { sA with streams := [(0, ⟨1, [{
      ticket := 0, card := [], rcd := [], started := false, chunk := 0, engine := none, work := Chunk.fresh, draw := 0, bits := [], block := [], written := 0, result := none, complete := false
      warp := 1 }]⟩)] } wA := by
  refine ⟨issues, fun x hx => absurd hx (by rw [show wA.windows = [] from by decide +kernel]; simp), ⟨fun x hx => absurd hx (by
    rw [show wA.windows = [] from by decide +kernel]; simp), fun _ => ⟨by decide +kernel, .inr (.inr (by decide +kernel))⟩⟩,
    ⟨by decide +kernel, by decide +kernel⟩, mayEnd _, mayEnd _, List.cons_ne_nil _ _, fun h => ?_⟩
  exact absurd (h.2 _ (List.mem_singleton_self _) _ (List.mem_singleton_self _) rfl) (by decide)

/-- A dirty line of this device in the RDC of die 1. -/
def rdcLine : RdcLine := { bytes := List.replicate 128 5, dirty := BitVec.allOnes 128, full := true, key := 127, stamp := 1 }

theorem witness_PrefetchesAndEvictionsMoveOnlyCopies : sA.warp? sA.cur = some wA ∧ (62 : Reg).toNat + 2 ≤ wA.vregs ∧
    MayEndHere wA (.pref lh 62 0) ∧ MayEndHere wA (.spref wh 62 0) ∧
    kget? ({ sA with rdc1 := [(0x1007F, rdcLine)] }.rdc 1) 0x1007F = some rdcLine ∧ 0x1007F < 2 ^ 64 ∧ sA.bad = [] :=
  ⟨rfl, by decide +kernel, mayEnd _, mayEnd _, rfl, by decide, by decide +kernel⟩

theorem witness_SpqryCapqAndTierqAnswer : Issues sA wA wh ∧ InTeam sA wA tA ∧ MayEndHere wA (.spqry wh 63 61 true) ∧
    ((wA.sr 61).toNat % 4096 = 0 ∧ (wA.sr 61).toNat + 4096 ≤ tA.allot ∧ wA.storeQ = []) ∧
    (wQ (accX .spad false twoParts)).storeQ ≠ [] ∧ (wA.sr 60).toNat % 4096 ≠ 0 ∧
    ({ wA with s := [(61, 8192)] }.sr 61).toNat % 4096 = 0 ∧ tA.allot < ({ wA with s := [(61, 8192)] }.sr 61).toNat + 4096 ∧
    MayEndHere wA (.capq wh 63 15 0xFFFF 6) :=
  ⟨issues, rfl, mayEnd _, by decide +kernel, List.cons_ne_nil _ _, by decide +kernel, by decide +kernel, by decide +kernel,
    mayEnd _⟩

/-- An open window whose count has reached its LA: no lane late, lanes 0 and 31 late, all late, a scalar late. -/
def due (dest : Dest) (lanes late : LaneMask) : Window :=
  { acc := accX .glob false [], dest := dest, la := 15, count := 15, handler := false, closed := false, lanes := lanes
    ready := BitVec.allOnes 32, vals := [], late := late, dead := 0, shutNo := 0, skip := [] }
/-- The windows beside it: one closed earlier, and one still open. -/
def besides : List Window :=
  [{ window true with acc := { accX .glob false [] with seq := 8 }, lanes := 2, ready := 2, dead := 0 }, { due (.lanes 0 4) 1 0 with acc := { accX .glob false [] with seq := 9 }, count := 14 }]

theorem witness_WindowsCloseAtTheirCount : ∀ x ∈ [due (.lanes 62 2) (BitVec.allOnes 32) 0, due (.lanes 62 2) (BitVec.allOnes 32) 0x80000001,
      due (.lanes 62 2) (BitVec.allOnes 32) (BitVec.allOnes 32), due (.scalar 62 2) 1 1, due (.capq 63 6 7 true) 1 0],
    let w := wWord 0x1C385042 (x :: besides) []
    AtTurn (sWord 0x1C385042 (x :: besides) []) 0 [] 0 w.slot 1 0 [] [] w (bytesOfWord (BitVec.ofNat 32 0x1C385042)) (.idiv lh 5 1 2) ∧
      w.windows = x :: besides ∧ w.badRegs = [] ∧ w.inh = false ∧ w.counted = false ∧ (sWord 0x1C385042 (x :: besides) []).fab = [] ∧
      (w.windows.filter fun y => !y.closed).length ≤ 8 ∧ (w.windows.map (·.acc.seq)).Nodup ∧
      (∀ y ∈ w.windows, y.lanes &&& ~~~y.ready = 0 ∧ y.dead = 0) ∧ x.lanes ≠ 0 ∧ x.la ≤ x.count ∧
      ∀ y ∈ w.windows, y ≠ x → y.closed = true ∨ y.handler = true ∨ y.count < y.la := by
  have k : ∀ x ∈ [due (.lanes 62 2) (BitVec.allOnes 32) 0, due (.lanes 62 2) (BitVec.allOnes 32) 0x80000001,
      due (.lanes 62 2) (BitVec.allOnes 32) (BitVec.allOnes 32), due (.scalar 62 2) 1 1, due (.capq 63 6 7 true) 1 0],
      atTurnB 0x1C385042 (x :: besides) [] = true := by decide +kernel
  intro x hx
  refine ⟨atTurn (k x hx) rfl, ?_⟩
  revert x
  decide +kernel

/-- The step of a due window's word, run: the closed window's data is in its registers, and the lanes without data have parked. -/
def closedBy (x : Window) (f : Warp → Bool) : Bool :=
  match step (sWord 0x1C385042 [x] []) with | .next t => (t.warp? 1).elim false f | _ => false
theorem test_window_closes_for_its_lanes :
    closedBy { due (.lanes 62 1) (BitVec.allOnes 32) 0x80000001 with vals := [(5, [7])] } (fun w =>
      w.vr 5 62 == 7 && w.lateLanes == 0x80000001 && w.vpcOf 5 == 0x10004 && w.vpcOf 31 == 0x10000) = true := by decide +kernel
theorem test_late_scalar_waits : closedBy (due (.scalar 62 2) 1 1) (fun w =>
    (w.wait.any fun x => x.kind == .windowClose) && w.vpcOf 5 == 0x10000) = true := by decide +kernel

theorem witness_LateDataIsWrittenWhenItArrives : ∀ closed, [window closed].find? (fun y => y.acc.seq == 0) = some (window closed) ∧
    (window closed).dest = .lanes 62 2 ∧ (window closed).lanes &&& ~~~(window closed).ready = 0 ∧
    (have_ { wE with windows := [window closed] }).warp? 1 = some { wE with windows := [window closed] } :=
  fun _ => ⟨rfl, rfl, by simp [window], rfl⟩

/-- The warp and the state of `sWord`, the word counted. -/
def wHurt (word : Nat) (hurt : List (Nat × Nat × Nat)) : Warp := { wWord word [] hurt with counted := true }
def sHurt (word : Nat) (hurt : List (Nat × Nat × Nat)) : State :=
  { (turned (sWord word [] hurt) 0 [] 0 (wWord word [] hurt).slot 1 [] [] (wWord word [] hurt)).setWarp 1 (wHurt word hurt) with
    cur := 1, curLate := 0 }
def tHurt : Team := ((sWord 0 [] []).team? 0).getD tE

theorem witness_DamagedRegistersRaiseSoft :
    (∀ hurt ∈ [[(0, 63, 5)], [(0, 61, 31)], [(0, 62, 5)], [(2, 0, 0)], [(2, 6, 0)]],
      AtTurn (sWord 258045 [] hurt) 0 [] 0 (wWord 258045 [] hurt).slot 1 0 [] [] (wWord 258045 [] hurt)
        (bytesOfWord (BitVec.ofNat 32 258045)) (.iadd ⟨false, false, 0⟩ 62 63 61)) ∧
    (∀ hurt ∈ [[(1, 63, 0)], [(1, 61, 0)], [(1, 62, 0)]],
      AtTurn (sWord 3087265789 [] hurt) 0 [] 0 (wWord 3087265789 [] hurt).slot 1 0 [] [] (wWord 3087265789 [] hurt)
        (bytesOfWord (BitVec.ofNat 32 3087265789)) (.sadd wh 62 63 61)) ∧
    ∀ word ∈ [258045, 3087265789], ∀ hurt ∈ [[(0, 63, 5)], [(1, 63, 0)], [(2, 0, 0)]],
      (wWord word [] hurt).windows = [] ∧ (wWord word [] hurt).inh = false ∧ MayEndHere (wWord word [] hurt) (.sadd wh 62 63 61) ∧
      InTeam (sHurt word hurt) (wWord word [] hurt) tHurt ∧ HasHandler (sHurt word hurt) (wHurt word hurt) 0x8000 := by
  have k : ∀ hurt ∈ [[(0, 63, 5)], [(0, 61, 31)], [(0, 62, 5)], [(2, 0, 0)], [(2, 6, 0)]], atTurnB 258045 [] hurt = true := by
    decide +kernel
  have m : ∀ hurt ∈ [[(1, 63, 0)], [(1, 61, 0)], [(1, 62, 0)]], atTurnB 3087265789 [] hurt = true := by decide +kernel
  refine ⟨fun h e => atTurn (k h e) rfl, fun h e => atTurn (m h e) rfl, fun word e hurt f => ?_⟩
  have a : ∀ word ∈ [258045, 3087265789], ∀ hurt ∈ [[(0, 63, 5)], [(1, 63, 0)], [(2, 0, 0)]],
      ((wWord word [] hurt).windows = [] ∧ (wWord word [] hurt).inh = false) ∧ (wWord word [] hurt).loops = [] ∧
      (wWord word [] hurt).hloops = [] ∧ (sHurt word hurt).team? (wWord word [] hurt).team = some tHurt ∧
      (wHurt word hurt).inh = false ∧ (wHurt word hurt).wait = none ∧
      (sHurt word hurt).team? (wHurt word hurt).team = some tHurt ∧
      (kget? (sHurt word hurt).contexts tHurt.ctx).any (fun c => c.thand == 0x8000) = true := by decide +kernel
  obtain ⟨⟨a1, a2⟩, a3, a4, a5, a6, a7, a8, a9⟩ := a word e hurt f
  obtain ⟨c, hc, ht⟩ := (Option.any_eq_true _ _).1 a9
  exact ⟨a1, a2, mayEnd _ a3 a4, a5, a6, a7, by decide, tHurt, c, a8, hc, by simpa using ht⟩

/-- One lane stands at the word, in a team whose scratchpad's line 1 has been written; a unit of a storage is damaged. -/
def wLone (l : Nat) : Warp := { wA with vpc := (List.range 32).map fun k => if k = l then 0x10000 else 0x10100 }
def tLone : Team := { tA with spads := [(wA.part, ⟨[], [], [1]⟩)] }
def sLone (l : Nat) (sp : Space) (a : Nat) : State :=
  { haveA (wLone l) with
    teams := [(0, tLone)]
    bad := [(if sp = .spad then 5 else 6, (wLone l).core, unitNum (wLone l).team a)] }

theorem witness_DamagedUnitsAreNeverLoaded : (0 : BitVec 14).toInt = (0 : BitVec 24).toInt ∧
    (let s := { sA with bad := [(1, 0, 0x10000 / 64)] }
     Issues s wA wh ∧ InTeam s wA tA ∧ NothingBefore wA ∧ Accessible tA .glob (scalarAt wA .glob 62 0) .b64 ∧
      (∀ y ∈ wA.windows, y.acc.seq < wA.seq) ∧ s.fab = [] ∧ (scalarAt wA .glob 62 0).toNat = 0x10000 ∧
      (∀ kind ∈ [AccessKind.read, .atomic], OwnUnit s s wA tA (.lane s.cur wA.seq 0) kind 0x10000 .b64 0x10000 0) ∧
      kget? (s.core wA.core).l1 (0x10000 / 128 * 128) = none ∧ kget? (s.rdc (wA.core / 192)) (0x10000 / 128 * 128) = none ∧
      kget? s.l2 (0x10000 / 128 * 128) = none) ∧
    ∀ l ∈ [0, 31], ∀ e ∈ [(Space.spad, 60, 0x80), (.orang, 58, 0x100)],
      IssuesLane (sLone l e.1 e.2.2) (wLone l) ∧ InTeam (sLone l e.1 e.2.2) (wLone l) tLone ∧ NothingBefore (wLone l) ∧
        (wLone l).exec lh = 1#32 <<< l ∧ (sLone l e.1 e.2.2).fab = [] ∧ (laneAt (wLone l) e.1 e.2.1 0 l).toNat = e.2.2 ∧
        Accessible tLone e.1 (laneAt (wLone l) e.1 e.2.1 0 l) .b64 ∧ LinesPresent tLone (wLone l) 0x80 8 ∧
        ∀ k < 8, (0x80 + k) / 128 ∈ (kget tLone.spads (wLone l).part ⟨[], [], []⟩).written := by
  refine ⟨rfl, ⟨issues, rfl, nothingBefore, ?_, by decide +kernel, rfl, by decide +kernel, ?_, by decide +kernel, by decide +kernel,
    by decide +kernel⟩, ?_⟩
  · unfold Accessible InSpace; decide +kernel
  · have k : ∀ kind ∈ [AccessKind.read, .atomic], answers (translate { sA with bad := [(1, 0, 0x10000 / 64)] } (.lane 1 wA.seq 0) tA.ctx
        (some wA.core) (wA.core / 192) 0x10000 kind) { sA with bad := [(1, 0, 0x10000 / 64)] } (.own 0x10000 0) 0 = true := by
      decide +kernel
    exact fun kind e => ⟨⟨0, answers_eq (k kind e)⟩, by decide +kernel⟩
  · have k : ∀ l ∈ [0, 31], ∀ e ∈ [(Space.spad, 60, 0x80), (.orang, 58, 0x100)],
        ((wLone l).wait = none ∧ (wLone l).role = .epilogue ∧ (wLone l).inh = false) ∧
        ((wLone l).storeQ = [] ∧ (wLone l).opLog = [] ∧ (wLone l).windows = []) ∧
        (wLone l).exec lh = 1#32 <<< l ∧ (laneAt (wLone l) e.1 e.2.1 0 l).toNat = e.2.2 ∧
        Accessible tLone e.1 (laneAt (wLone l) e.1 e.2.1 0 l) .b64 ∧ LinesPresent tLone (wLone l) 0x80 8 ∧
        ∀ k < 8, (0x80 + k) / 128 ∈ (kget tLone.spads (wLone l).part ⟨[], [], []⟩).written := by
      intro l hl e he
      revert l
      simp only [List.mem_cons, List.not_mem_nil, or_false] at he
      simp only [Accessible, InSpace, LinesPresent]
      rcases he with rfl | rfl <;> decide +kernel
    intro l hl e he
    obtain ⟨⟨a1, a2, a3⟩, ⟨b1, b2, b3⟩, a4, a5, a6, a7, a8⟩ := k l hl e he
    exact ⟨⟨rfl, a1, a2, a3⟩, rfl, nothingBefore b1 b2 b3, a4, rfl, a5, a6, a7, a8⟩

/-! ## Witnesses: teams, barriers, traps -/

def wt (k : WaitKind) (i : Instr := .nop wh) : Wait := ⟨k, i, 0x10000, BitVec.allOnes 32, 0, 0⟩
def held (k : WaitKind) (i : Instr := .nop wh) : Warp := { wA with wait := some (wt k i) }

/-- Two warps of the team; the first may be another. -/
def two (w v : Warp) : State := { sA with warps := [(1, w), (2, { v with num := 1 })] }
def withS (l : KMap W32) : Warp := { wA with s := l }
def haveT (w : Warp) (t : Team) : State := { sE with warps := [(1, w)], teams := [(0, t)] }

theorem allPerformed : AllPerformed wA := ⟨(nothingBefore (w := wA)).2.2, by decide +kernel⟩

theorem witness_BarriersCountTheirArrivals : Issues (two wA wA) wA wh ∧ InTeam (two wA wA) wA tA ∧ wA.inh = false ∧
    wA.taskst = false ∧ MayEndHere wA (.bar wh 60 true true 7) ∧ AllPerformed wA ∧
    (1 ≤ ((withS [(60, 1)]).sr 60).toNat ∧ ((withS [(60, 64)]).sr 60).toNat ≤ 64) ∧ (barOf tA 7).arr = 0 ∧
    ¬ generationDone (two wA wA) wA tA 7 0 ∧ generationDone sA wA tA 7 0 ∧ ¬ generationDone sA wA tA 7 64 ∧
    generationDone sA wA tA 7 1 ∧
    ¬ ((true = true → 1 ≤ ((withS []).sr 60).toNat ∧ ((withS []).sr 60).toNat ≤ 64) ∧ (barOf tA 7).arr = 0) ∧
    ¬ ((true = true → 1 ≤ ((withS [(60, 65)]).sr 60).toNat ∧ ((withS [(60, 65)]).sr 60).toNat ≤ 64) ∧ True) ∧
    (ksorted (two wA wA).warps = true ∧ ksorted sA.frames = true ∧ MayEndHere wA (.gbar wh .pavilion) ∧
      tA.desc.gclass ≤ gangClass .pavilion ∧ NothingToWriteBack sA wA (gangScope .device) ∧
      gangClass .die < { tA with desc := { tA.desc with gclass := 2 } }.desc.gclass) ∧
    GangArrived sA tA ∧ ¬ GangArrived (two wA wA) tA := by
  refine ⟨issues, rfl, by decide +kernel, by decide +kernel, mayEnd _, allPerformed, by decide +kernel, by decide +kernel,
    ?_, ?_, ?_, ?_, by decide +kernel, by decide +kernel,
    ⟨by decide +kernel, by decide +kernel, mayEnd _, by decide +kernel, .inr (.inr (by decide +kernel)), by decide +kernel⟩, ?_, ?_⟩
  iterate 4 (unfold generationDone; decide +kernel)
  · refine ⟨fun e he hk => absurd ?_ hk, fun f hf => absurd hf (by
      rw [show sA.frames = [] from rfl]; simp)⟩
    simp [show sA.warps = [(1, wA)] from rfl] at he
    subst he; rfl
  · intro h
    rcases h.1 (2, { wA with num := 1 }) (by simp [two]) (by decide +kernel) ⟨tA, by
      simp [two, show sA.teams = [(0, tA)] from rfl]; decide +kernel, rfl, rfl⟩ with h | ⟨x, c, h, -⟩
    · exact absurd h (by decide +kernel)
    · exact absurd h (by rw [show ((2, { wA with num := 1 }) : Nat × Warp).2.wait = none from by decide +kernel]; simp)

def smallT : Team := { tA with allot := 4096 }
def parkedT : Team := { smallT with parked := true }

/-- A copy of the team whose image lies past SPRO. -/
def bigCopy : Copy :=
  { team := 0, warp := 1, part := 0, bar := none
    xf := { load := false, chain := 0, rcd := [3, 4, 1] ++ List.replicate 125 1, img := 4096, tbase := 0, c := [0] }
    pc := 0, w0 := 0, w1 := 0, order := 1, seq := 0, chunk := 0, left := [], stopped := false, go := true, work := Chunk.fresh }
def withCopies (s : State) (l : KMap Copy) : State := s.setCore 0 { s.core 0 with copies := l }

theorem witness_ScratchpadAllotmentGrowsAndShrinks : Issues sA wA wh ∧ InTeam sA wA tA ∧ MayEndHere wA (.racq wh) ∧
    MayEndHere wA (.rrel wh) ∧ tA.allot = tA.desc.sfull ∧ smallT.allot ≠ smallT.desc.sfull ∧
    smallT.allot = smallT.desc.spro ∧ tA.allot ≠ tA.desc.spro ∧ drainLeft (withCopies sA [(0, bigCopy)]) 0 tA = true ∧
    drainLeft sA 0 tA = false ∧ Holding (haveT (held .rrel) tA) 1 (held .rrel) (wt .rrel) ∧
    Holding (haveT (held .racq) parkedT) 1 (held .racq) (wt .racq) ∧ InTeam (haveT (held .racq) parkedT) (held .racq) parkedT ∧
    (0 ∈ parkedT.cores ∧ parkedT.parked = true ∧ parkedT.preempting = false) ∧
    (∀ c ∈ parkedT.cores, parkedT.desc.sfull - parkedT.allot ≤ Config.spadBytes - spadHeld (haveT (held .racq) parkedT) c) ∧
    (∀ e ∈ (haveT (held .racq) parkedT).teams, e = (0, parkedT)) ∧
    (∀ e ∈ (haveT (held .racq) parkedT).warps, e = (1, held .racq)) ∧ LoadsDone wA := by
  refine ⟨issues, rfl, mayEnd _, mayEnd _, by decide +kernel, by decide +kernel, by decide +kernel, by decide +kernel,
    by decide +kernel, by decide +kernel, ⟨rfl, rfl⟩, ⟨rfl, rfl⟩, rfl, by decide +kernel, by decide +kernel,
    fun _ h => List.mem_singleton.mp h, fun _ h => List.mem_singleton.mp h, allPerformed.1⟩

/-- A team whose condition of R313 holds since the count was 0, with its one warp at BAR. -/
def stalledT : Team := { tA with stuckSince := some 0 }
def sStalled : State := { haveT (held (.bar 7)) stalledT with time := 1400000 }

theorem witness_ExitsAndStallsEndOrStopWarps : sA.warp? sA.cur = some wA ∧ InTeam sA wA tA ∧
    wA.inh = false ∧ wA.wait = none ∧ wA.taskst = false ∧ ¬ EndsLoop wA (.lexit lh) ∧ ¬ EndsLoop wA (.exit wh) ∧
    wA.live &&& ~~~wA.exec lh = 0 ∧ wA.live &&& ~~~wA.exec ⟨true, false, 0⟩ ≠ 0 ∧ wApart.live &&& ~~~wApart.active ≠ 0 ∧
    sStalled.team? 0 = some stalledT ∧ (0, stalledT) ∈ sStalled.teams ∧ ParkedForGood sStalled 0 stalledT := by
  refine ⟨rfl, rfl, by decide +kernel, by decide +kernel, by decide +kernel, endsNoLoop _, endsNoLoop _, by decide +kernel,
    by decide +kernel, by decide +kernel, rfl, List.mem_singleton_self _,
    ⟨by decide +kernel, by decide +kernel, by decide +kernel, by decide +kernel, fun e he _ => ?_⟩, by decide +kernel,
    0, rfl, by decide +kernel⟩
  obtain rfl : e = (1, held (.bar 7)) := List.mem_singleton.mp he
  exact ⟨⟨by decide +kernel, by decide +kernel, fun r hr => absurd hr (by rw [show sStalled.pri = [] from by decide +kernel]; simp),
    by decide +kernel⟩, .inr ⟨by decide +kernel, by decide +kernel, _, rfl, by decide +kernel⟩⟩

def withMbar (m : Mbar) : Team := { tA with mbars := [(31, m)] }
def mbar (expect arrive : Nat) (pend : Int) (err : Bool) : Mbar := ⟨0, expect, arrive, pend, err⟩

theorem witness_BarrierRecordsCountArrivalsAndBytes : Issues sA wA wh ∧ InTeam sA wA tA ∧ MayEndHere wA (.mbinit wh 31 60) ∧
    MayEndHere wA (.mbexp wh 31 60) ∧ MayEndHere wA (.mbarr wh 31 60 true) ∧ recordOf tA wA 31 = none ∧
    recordOf (withMbar (mbar 1 1 0 true)) wA 31 = some (mbar 1 1 0 true) ∧
    (2 ^ 23 ≤ (2 ^ 23 - 128 : Int) + (wA.sr 60).toNat ∧ (2 ^ 23 - 129 : Int) + (wA.sr 60).toNat < 2 ^ 23) ∧
    AllPerformed wA ∧ (wQ (accX .spad false twoParts)).storeQ ≠ [] ∧
    65535 < ((withS [(60, 65536)]).sr 60).toNat ∧ ((withS [(60, 65535)]).sr 60).toNat ≤ 65535 ∧
    ¬ Idle sA wA 31 (mbar 2 1 0 false) ∧ Idle sA wA 31 (mbar 2 2 0 false) ∧ (wA.sr 61).toNat = 0 ∧ boundRecords sA 0 < 32 ∧
    32 ≤ boundRecords (haveT wA { tA with mbars := tab 32 fun k => (k, mbar 1 1 0 false) }) 0 := by
  refine ⟨issues, rfl, mayEnd _, mayEnd _, mayEnd _, by decide +kernel, by decide +kernel, by decide +kernel, allPerformed,
    List.cons_ne_nil _ _, by decide +kernel, by decide +kernel, ?_, ?_, by decide +kernel, by decide +kernel, by decide +kernel⟩ <;>
    unfold Idle <;> decide +kernel

theorem witness_BarrierRecordsCountArrivalsAndBytes_mbwait : Issues sA wA wh ∧ MayEndHere wA (.mbwait wh 31 60 61 6) ∧
    recordOf (withMbar (mbar 1 1 0 false)) wA 31 = some (mbar 1 1 0 false) ∧ (mbar 1 1 0 false).phase ≠ wA.sr 60 ∧
    (mbar 1 1 0 false).phase = wA.sr 61 ∧ wA.sr 61 = 0 ∧ wA.sr 60 ≠ 0 ∧
    Holding (haveA (held (.mbwait 31 0 6 0 0xFFFFFFFE))) 1 (held (.mbwait 31 0 6 0 0xFFFFFFFE)) (wt (.mbwait 31 0 6 0 0xFFFFFFFE)) ∧
    (0xFFFFFFFE : W32) ≠ 0xFFFFFFFF ∧ 0 + (0xFFFFFFFE : W32).toNat ≤ ({ sA with time := 0xFFFFFFFE }.time).toNat :=
  ⟨issues, mayEnd _, by decide +kernel, by decide +kernel, by decide +kernel, by decide +kernel, by decide +kernel, ⟨rfl, rfl⟩,
    by decide, by decide +kernel⟩

/-- An event queue of 16 records at 0x10000 that is enabled, empty and full. -/
def evq (count : Nat) : EventQ := ⟨0x10000, true, 4, count, true⟩
def withQ (s : State) (count : Nat) : State := { s with events := [(0, evq count)] }

theorem witness_SleepAndEvpostActOnTheirContext : Issues (withQ sA 0) wA wh ∧ InTeam (withQ sA 0) wA tA ∧
    MayEndHere wA (.sleep wh 60) ∧ MayEndHere wA (.evpost wh 60 61) ∧ wA.sr 61 = 0 ∧ wA.sr 60 ≠ 0 ∧
    ¬ QueueOn (queueOf sA 0) ∧ QueueOn (queueOf (withQ sA 0) 0) ∧ ¬ QueueFull (withQ sA 0) (evq 0) ∧
    QueueFull (withQ sA 16) (evq 16) ∧ (evq 0).base % 4096 = 0 ∧ { wA with taskst := true }.taskst = true ∧
    Holding (haveA (held (.sleep 0 1))) 1 (held (.sleep 0 1)) (wt (.sleep 0 1)) ∧
    0 + (1 : W32).toNat ≤ ({ sA with time := 1 }.time).toNat ∧
    Holding (withQ (haveA (held .evpost (.evpost wh 60 61))) 0) 1 (held .evpost (.evpost wh 60 61)) (wt .evpost (.evpost wh 60 61)) ∧
    kget? { sA with paused := [(383, 0)] }.paused 383 = some 0 := by
  refine ⟨issues, rfl, mayEnd _, mayEnd _, by decide +kernel, by decide +kernel, ?_, ?_, ?_, ?_, by decide +kernel, rfl,
    ⟨rfl, rfl⟩, by decide +kernel, ⟨rfl, rfl⟩, by decide +kernel⟩
  iterate 2 (unfold QueueOn; decide +kernel)
  iterate 2 (unfold QueueFull; decide +kernel)

theorem witness_TretReturnsToTpc : sH.warp? sH.cur = some wH ∧ wH.wait = none ∧ ¬ EndsLoop wH (.tret wh) ∧ wH.inh = true ∧
    wH.qGuard wh = true ∧ GoodTarget wH.tpc.toNat ∧ wH.windows = [] ∧ wH.deferredWound = false ∧ wH.deferredRetry = none ∧
    wH.opLog = [] ∧ (∀ k, kget wH.waitK k 0 = 0) ∧ { wH with tpc := 2 }.tpc.toNat % 4 ≠ 0 ∧
    ¬ Canonical { wH with tpc := 0x100000000000000 }.tpc.toNat ∧ HasHandler (withHandler sE) wE 0x8000 ∧
    ¬ EndsLoop wE (.tret wh) :=
  ⟨slotHolds.2.2.2.1, by decide +kernel, endsNoLoop _, by decide +kernel, by decide +kernel, by decide +kernel,
    by decide +kernel, by decide +kernel, by decide +kernel, by decide +kernel,
    fun k => by rw [show wH.waitK = [] from by decide +kernel]; rfl, by decide +kernel, by decide +kernel, witness_HasHandler,
    endsNoLoop _⟩

/-- A delivered entry of the operand log; the handler cancels lane 31 and has lane 0 issued again. -/
def entryOf (src : LogSource) (x : Acc) : LogEntry :=
  { acc := x, source := src, trap := ⟨.page, 0x10000, 0x80000001, 1⟩, delivered := true, timedOut := 0 }
def wReturns : Warp := { wH with tlanes := 1 }
/-- What a warp that returns may owe: a JOIN whose mask has not arrived, one whose mask has, a retry, a rollback. -/
def owing : List Warp :=
  [wReturns, { wReturns with waitK := [(7, 2)], jm := [(7, 3)] }, { wReturns with waitK := [(7, 2)], jm := [(7, 2)] },
    { wReturns with deferredRetry := some (snapshotOf wH, 0x10000) },
    { wReturns with deferredWound := true, task := some ⟨0x10000, 7, true⟩ }]

theorem witness_TretSettlesWhatIsOwed : (∀ w ∈ owing, w.wait = none ∧ ¬ EndsLoop w (.tret wh) ∧ w.inh = true ∧
      w.qGuard wh = true ∧ GoodTarget w.tpc.toNat ∧ (∀ x ∈ w.windows, x.closed = true ∨ x.handler = false) ∧
      (have_ w).warp? 1 = some w ∧ ∀ e ∈ w.waitK, e.2 = if e.1 = 7 then kget w.waitK 7 0 else 0) ∧
    (∀ e ∈ [entryOf (.window 0) (accX .glob false []), entryOf .store (accX .glob false twoParts), entryOf (.copy 0 3) (accX .glob false [])],
      { wReturns with opLog := [e] }.opLog = [] ++ e :: [] ∧ e.delivered = true) ∧
    [window true].find? (fun y => y.acc.seq == 0) = some (window true) ∧ (wQ (accX .glob false twoParts)).storeQ ≠ [] ∧
    (∀ k, kget wReturns.waitK k 0 = 0) ∧ wReturns.tlanes ≠ 0 ∧ { wReturns with tlanes := 0 }.tlanes = 0 ∧
    kget [(7, (3 : LaneMask))] 7 0 &&& wReturns.live &&& ~~~kget [(7, (2 : LaneMask))] 7 0 ≠ 0 ∧
    kget [(7, (2 : LaneMask))] 7 0 &&& wReturns.live &&& ~~~kget [(7, (2 : LaneMask))] 7 0 = 0 := by
  have k : ∀ w ∈ owing, w.wait = none ∧ (w.loops = [] ∧ w.hloops = []) ∧ w.inh = true ∧ w.qGuard wh = true ∧
      GoodTarget w.tpc.toNat ∧ (∀ x ∈ w.windows, x.closed = true ∨ x.handler = false) ∧
      ∀ e ∈ w.waitK, e.2 = if e.1 = 7 then kget w.waitK 7 0 else 0 := by decide +kernel
  refine ⟨fun w hw => ?_, by simp [entryOf], rfl, List.cons_ne_nil _ _,
    fun k => by rw [show wReturns.waitK = [] from by decide +kernel]; rfl, by decide +kernel, by decide +kernel, by decide +kernel,
    by decide +kernel⟩
  obtain ⟨a, ⟨b, c⟩, d, e, f, g, h⟩ := k w hw
  exact ⟨a, endsNoLoop _ b c, d, e, f, g, rfl, h⟩

def cause (c : Cause) : TrapReq := ⟨c, 0x10000, 1, 1⟩
def logged : LogEntry := ⟨accX .glob false twoParts, .store, cause .page, false, 0⟩
def wPend (c : Cause) (k : Option Wait) : Warp := { wA with pending := [(cause c, 0)], wait := k }

theorem witness_PendingCausesAreDelivered : InTeam (haveA (wPend .page none)) (wPend .page none) tA ∧ tA.halted = none ∧
    tA.preempting = false ∧ wA.exited = false ∧ wA.tretDue = false ∧
    kget? (withHandler sA).contexts 0 = some { placedContext with thand := 0x8000 } ∧ wA.inh = false ∧ wA.ready ≠ 0 ∧
    (wPend .page none).pending = [(cause .page, 0)] ∧ Cause.page ≠ .teamStall ∧
    { wA with opLog := [logged] }.opLog = [logged] ∧ logged.delivered = false ∧ wA.pending = [] ∧
    (wPend .teamStall (some (wt (.bar 7)))).wait = some (wt (.bar 7)) ∧
    kget? { tA with bars := [(7, ⟨1, 0⟩)] }.bars 7 = some ⟨1, 0⟩ ∧ wH.inh = true ∧ wH.pending = [] ∧
    ∀ e ∈ [logged], e.acc.seq < { wH with hseq := 1 }.hseq :=
  ⟨inA, by decide +kernel, by decide +kernel, by decide +kernel, by decide +kernel, by decide +kernel, by decide +kernel,
    by decide +kernel, rfl, by decide, rfl, rfl, by decide +kernel, rfl, rfl, by decide +kernel, by decide +kernel, by decide +kernel⟩

/-! ## Witnesses: tables, tasks, copies and jobs -/

def page : TlbEntry :=
  { ctx := 0, va := 0x10000, size := 16, tier := 0, dev := 0, frame := 0x10000, key := 0, rd := true, wr := true, ex := true }

theorem mappedAt {s : State} {n : Nat} (off : Nat) (hn : off + n ≤ 0x10000) (h16 : off % 16 = 0)
    (hc : kget? s.contexts 0 = some placedContext) (ht : (s.core 0).tlb = [page])
    (h1 : s.priDenied = [] := by rfl) (h2 : s.fab = [] := by rfl) (h3 : s.leases = [] := by rfl) :
    MappedOn s 0 0 (0x10000 + off) n (0x10000 + off) 0 := by
  have e (k : Nat) (hk : k ≤ 0x10000) : (0x10000 + k) % 2 ^ 57 = 0x10000 + k := Nat.mod_eq_of_lt (by omega)
  refine ⟨placedContext, page, hc, rfl, h1, h2, h3, fun k hk => ?_, by decide, rfl, rfl, ?_, ?_, ?_, by decide,
    rfl, ?_, fun k hk => ?_⟩
  · have : page.covers 0 (0x10000 + off + k) = true := by
      show ((0 : Nat) == 0 && decide (0x10000 ≤ (0x10000 + off + k) % 2 ^ 57) &&
        decide ((0x10000 + off + k) % 2 ^ 57 < 0x10000 + 2 ^ 16)) = true
      rw [Nat.add_assoc, e (off + k) (by omega)]
      exact Bool.and_eq_true_iff.mpr ⟨Bool.and_eq_true_iff.mpr ⟨rfl, decide_eq_true (by omega)⟩, decide_eq_true (by omega)⟩
    simp [ht, this]
  · rw [e off (by omega)]; show 0x10000 + (0x10000 + off - 0x10000) = _; omega
  · rw [e off (by omega)]; show 0x10000 ≤ _; omega
  · rw [e off (by omega)]; omega
  · simp only [Nat.reducePow]; omega
  · have hd : 0x10000 + off + k < Config.dieBytes := Nat.lt_trans (by omega : 0x10000 + off + k < 0x20000) (by decide)
    simp only [Config.homeDie, hd, if_true]

theorem mappedOn {s : State} {n : Nat} (hn : n ≤ 0x10000) (hc : kget? s.contexts 0 = some placedContext) (ht : (s.core 0).tlb = [page])
    (h1 : s.priDenied = [] := by rfl) (h2 : s.fab = [] := by rfl) (h3 : s.leases = [] := by rfl) :
    MappedOn s 0 0 0x10000 n 0x10000 0 := mappedAt 0 (by omega) rfl hc ht h1 h2 h3

theorem ctxA : kget? sA.contexts 0 = some placedContext := by decide +kernel
theorem tlbA : (sA.core 0).tlb = [page] := by decide +kernel
theorem noL1 (n : Nat) : ∀ k < n, kget? (sA.core 0).l1 ((0x10000 + k) / 128 * 128 + 0) = none := fun k _ => by
  rw [show (sA.core 0).l1 = [] from by decide +kernel]; rfl

theorem noL1At (off n : Nat) : ∀ k < n, kget? (sA.core 0).l1 ((0x10000 + off + k) / 128 * 128 + 0) = none := fun k _ => by
  rw [show (sA.core 0).l1 = [] from by decide +kernel]; rfl

/-- The team holds the activation store of its core, or another team does. -/
def withStore (n : Nat) : State := sA.setCore 0 { sA.core 0 with act := ⟨some n, [(128, [0x3F800000, 0, 0])], [], 0, none⟩ }

theorem witness_ActivationTablesLoadSwapAndEvaluate : InTeam (withStore 0) wA tA ∧ wA.role = .epilogue ∧ wA.taskst = false ∧
    MayEndHere wA (.tblld wh 62) ∧ (storeOf (withStore 0) wA).holder = some wA.team ∧ NobodyLoads (withStore 0) wA ∧
    (storeOf (withStore 0) wA).active ≤ 1 ∧ srPair wA 62 % 64 = 0 ∧ InSpace tA .glob (srPair wA 62) 4096 ∧ NothingBefore wA ∧
    MappedAtHome (withStore 0) wA tA 0x10000 4096 0x10000 0 ∧ srPair wA 62 = 0x10000 ∧ MayEndHere wA (.tblswp wh) ∧
    (storeOf (withStore 7) wA).holder = some 7 ∧ 7 ≠ wA.team ∧ MayEndHere wA (.flut lh 63 63) ∧
    (∃ q sg, valOf .f32 0x7FC00000 = .nan q sg) ∧ (segmentOf (valOf .f32 0) = 128 ∧
      kget (bankOf (storeOf (withStore 0) wA) 0) 128 [] = [0x3F800000, 0, 0]) := by
  have h : (withStore 0).warps = [(1, wA)] := rfl
  refine ⟨rfl, by decide +kernel, by decide +kernel, mayEnd _, by decide +kernel, ?_, by decide +kernel, by decide +kernel, ?_,
    nothingBefore, ⟨?_, ?_⟩, by decide +kernel, mayEnd _, by decide +kernel, by decide +kernel, mayEnd _, ⟨false, false, by decide +kernel⟩,
    by decide +kernel⟩
  · intro e he hk
    simp [h] at he; subst he; exact absurd rfl hk
  · unfold InSpace; decide +kernel
  · exact mappedOn (by decide) ctxA (by decide +kernel)
  · intro k hk
    rw [show ((withStore 0).core wA.core).l1 = [] from by decide +kernel]; rfl

theorem witness_BrxBranchesThroughItsTableAndTierqAnswers : Issues sA wA wh ∧ InTeam sA wA tA ∧ ¬ EndsLoop wA (.brx wh 62 60 0xFFFF) ∧
    srPair (withS [(62, 2)]) 62 % 4 ≠ 0 ∧ ¬ InSpace tA .glob (2 ^ 56 - 4 + 4 * 0x80) 4 ∧ srPair wA 62 % 4 = 0 ∧
    InSpace tA .glob (srPair wA 62 + 4 * min (wA.sr 60).toNat 4) 4 ∧ NothingBefore wA ∧
    OwnUnit sA sA wA tA (.word 1 0) .read 0x10010 .b32 0x10010 0 ∧ kget? (sA.core wA.core).l1 (0x10010 / 128 * 128) = none ∧
    GoodTarget (wA.issueAddr + (0 : W32).toInt).toNat ∧ MayEndHere wA (.tierq wh 63 62) ∧
    ¬ Canonical (srPair (withS [(63, 0x1000000)]) 62) ∧ Canonical (srPair wA 62) ∧ walk sA 0 placedContext 0x10000 = .invalid ∧
    (sA.setCore 0 { sA.core 0 with tlb := [] }).tlb0 = [] ∧ ((sA.setCore 0 { sA.core 0 with tlb := [] }).core 0).tlb = [] ∧
    walk { sA with hbm := [(0, 7), (8, 0x60)] } 0 { placedContext with dptRoot := 0 } 0 = .refused 0x104 := by
  refine ⟨issues, rfl, endsNoLoop _, by decide +kernel, ?_, by decide +kernel, ?_, nothingBefore, ⟨⟨0, answers_eq (by decide)⟩, ?_⟩,
    by decide +kernel, by decide +kernel, mayEnd _, by decide +kernel, by decide +kernel, by decide +kernel, by decide +kernel,
    by decide +kernel, by decide +kernel⟩
  · unfold InSpace; decide +kernel
  · unfold InSpace; decide +kernel
  · decide +kernel

def aSet : SetDecl := ⟨0x10000, 0x10000, 8⟩

theorem witness_AtomicSetsAreDeclaredAndDropped : Issues sA wA wh ∧ InTeam sA wA tA ∧
    kget? sA.contexts tA.ctx = some placedContext ∧ MayEndHere wA (.asdecl wh 62 62 8 15) ∧ MayEndHere wA (.asdrop wh 15) ∧
    (⟨srPair wA 62, srPair wA 62, 8⟩ : SetDecl) = aSet ∧ ValidSet aSet placedContext.sets 15 ∧ wA.prologue = true ∧
    (kget? placedContext.sets 15 = none ∧ kget? [(15, aSet)] 15 = some aSet ∧ ValidSet aSet [(15, aSet)] 15 ∧
      (⟨0x10000, 0x20000, 8⟩ : SetDecl) ≠ aSet) ∧ ¬ ValidSet aSet [(14, aSet)] 15 ∧
    { wA with taskst := true }.taskst = true ∧ { wA with prologue := false }.prologue = false ∧
    setInUse { sA with lockWait := [(0, 1, 0, granuleCode 0 15 3)] } 0 15 = true ∧ setInUse sA 0 15 = false := by
  refine ⟨issues, rfl, ctxA, mayEnd _, mayEnd _, by decide +kernel, ?_, by decide +kernel, ⟨by decide +kernel, by decide +kernel, ?_,
    by decide⟩, ?_, rfl, rfl, by decide +kernel, by decide +kernel⟩
  · unfold ValidSet; decide +kernel
  · unfold ValidSet; decide +kernel
  · unfold ValidSet; decide +kernel

/-- A warp in a task, with its slot. -/
def wTask : Warp := { wA with taskst := true, task := some ⟨0x10000, 7, false⟩, age := 5 }
def slotX (buf : KMap BufUnit) (held unsent : List Nat) : TaskSlot :=
  { warp := 1, snap := snapshotOf wA, buf := buf, held := held, asked := [], unsent := unsent }
def inTask (w : Warp) (x : TaskSlot) : State := (haveA w).setCore 0 { sA.core 0 with tasks := [(7, x)] }
def fullSlots : State := sA.setCore 0 { sA.core 0 with tasks := tab 8 fun k => (k, slotX [] [] []) }

theorem commitReady {buf : KMap BufUnit} : CommitReady (inTask wTask (slotX buf [3] [])) wTask (slotX buf [3] []) := by
  refine ⟨rfl, rfl, ⟨(nothingBefore (w := wTask)).2.2, by decide +kernel⟩, by exact (by decide +kernel : sA.bad = []), .inr (.inr ?_)⟩
  intro e he
  exact absurd (show e ∈ sA.rdc0 from he) (by rw [show sA.rdc0 = [] from by decide +kernel]; simp)

theorem witness_TaskWordsBeginCommitAndAbort : Issues sA wA wh ∧ InTeam sA wA tA ∧ wA.role = .epilogue ∧
    MayEndHere wA (.tbegin wh 63) ∧ MayEndHere wTask (.tend wh) ∧ (∀ b, MayEndHere wTask (.tabort wh b)) ∧
    tA.refusedSet = none ∧ NoOpenWindow wA ∧ wA.active = wA.live ∧ SlotFree sA wA 1 0 ∧
    (∀ k < 8, kget? (fullSlots.core 0).tasks k ≠ none) ∧ wTask.taskst = true ∧
    SlotOf (inTask wTask (slotX [] [3] [])) wTask ⟨0x10000, 7, false⟩ (slotX [] [3] []) ∧ NoOpenWindow wTask ∧
    wTask.active = wTask.live ∧ CommitReady (inTask wTask (slotX [] [3] [])) wTask (slotX [] [3] []) ∧
    OwnUnit (inTask wTask (slotX [(0x1000, ⟨0x10000, [], 1, []⟩)] [3] [])) (inTask wTask (slotX [(0x1000, ⟨0x10000, [], 1, []⟩)] [3] []))
      wTask tA (.commit 1 0x1000) .write (16 * 0x1000) .b128 0x10000 0 ∧
    (slotX [] [] [3]).unsent ≠ [] ∧ { wTask with inh := true }.inh = true ∧ { tA with refusedSet := some 15 }.refusedSet = some 15 ∧
    { wTask with vpc := 0x10040 :: List.replicate 31 0x10000 }.active ≠ wTask.live := by
  refine ⟨issues, rfl, by decide +kernel, mayEnd _, mayEnd _, fun _ => mayEnd _, by decide +kernel, ?_, by decide +kernel, ?_,
    by decide +kernel, rfl, ⟨rfl, rfl⟩, ?_, by decide +kernel, commitReady, ⟨⟨0, answers_eq (by decide)⟩, by decide +kernel⟩, by decide, rfl, rfl,
    by decide +kernel⟩
  · intro x hx; exact absurd hx (by rw [show wA.windows = [] from by decide +kernel]; simp)
  · refine ⟨by decide, by decide +kernel, by decide +kernel, ?_, .inr (by decide +kernel)⟩
    intro e he hk
    simp [show sA.warps = [(1, wA)] from rfl] at he; subst he; exact absurd rfl hk
  · intro x hx; exact absurd hx (by rw [show wTask.windows = [] from by decide +kernel]; simp)

/-- The context with set 15, and the warp of a task there, its page in this device's memory or the host's. -/
def setCtx : Context := { placedContext with sets := [(15, aSet)] }
def sSet (w : Warp) (x : TaskSlot) (tier : Nat) : State :=
  { ((haveA w).setCore 0 { sA.core 0 with tasks := [(7, x)], tlb := [{ page with tier := tier }] }) with contexts := [(0, setCtx)] }
def gran (a : Nat) : Nat := granuleCode 0 15 ((a - 0x10000) / 2 ^ 8)

theorem inSetAt {w : Warp} {x : TaskSlot} {tier a : Nat} (h : 0x10000 ≤ a) (k : a < 0x20000) : InSet (sSet w x tier) tA a 15 (gran a) :=
  ⟨setCtx, aSet, rfl, by decide, rfl, (by unfold ValidSet; decide +kernel : ValidSet aSet setCtx.sets 15), h, k, rfl⟩
theorem inNoSetAt {w : Warp} {x : TaskSlot} {tier a : Nat} (h : a < 0x10000 ∨ 0x20000 ≤ a) : InNoSet (sSet w x tier) tA a := by
  refine ⟨setCtx, rfl, fun e he => ?_⟩
  simp only [setCtx, List.mem_singleton] at he
  subst he; exact h

theorem slotOfSet {w : Warp} {x : TaskSlot} {tier : Nat} (h : w.task = some ⟨0x10000, 7, false⟩ := by rfl)
    (k : w.core = 0 := by decide) : SlotOf (sSet w x tier) w ⟨0x10000, 7, false⟩ x := ⟨h, by rw [k]; rfl⟩

/-- Lanes 0 to 30 stand elsewhere. -/
def wTop31 : Warp := { wTask with vpc := List.replicate 31 0x10100 ++ [0x10000] }
def units512 : KMap BufUnit := tab 512 fun k => (k, ⟨16 * k, List.replicate 16 0, 1, []⟩)

theorem translatesTop {tr : State → Nat → Tr} {s : State} {loc : Loc} {n : Nat} {p : Nat → Prop} (hp : p n) : (ls : List Nat) →
    (∀ l ∈ ls, tr s l = .ok s loc n) → TranslatesEach tr p ls s s
  | [], _ => rfl
  | _ :: ls, h => ⟨s, loc, n, h _ List.mem_cons_self, hp, translatesTop hp ls fun l k => h l (List.mem_cons_of_mem _ k)⟩

theorem witness_SetStoresEnterTheirBuffer : ∀ x ∈ [slotX [] [] [], slotX [(0x1000, ⟨0x10000, List.replicate 16 7, 0xFF, []⟩)] [gran 0x10000] []],
    InTeam (sSet wTask x 0) wTask tA ∧ wTask.taskst = true ∧ (0 : BitVec 14).toInt = (0 : BitVec 24).toInt ∧
    SlotOf (sSet wTask x 0) wTask ⟨0x10000, 7, false⟩ x ∧ (sSet wTask x 0).fab = [] ∧ (∀ e ∈ x.buf, e.2.bytes.length = 16) ∧
    IssuesLane (sSet wTask x 0) wTask ∧ Issues (sSet wTask x 0) wTask wh ∧ MayEndHere wTask (.st lh 60 62 0 .b128 .core .plain) ∧
    wTask.exec lh ≠ 0 ∧ (∀ l < 32, LaneAccessible (sSet wTask x 0) wTask tA .glob l (laneAt wTask .glob 62 0 l) .b128) ∧
    (∀ l < 32, (laneAt wTask .glob 62 0 l).toNat = 0x10000) ∧ InSet (sSet wTask x 0) tA 0x10000 15 (gran 0x10000) ∧
    InSet (sSet wTask x 0) tA 0x1FFFF 15 (gran 0x1FFFF) ∧ InNoSet (sSet wTask x 0) tA 0x20000 ∧
    InNoSet (sSet wTask x 0) tA 0xFFFF ∧
    TranslatesEach (fun s1 l => translateLane s1 (.word 1 l) 0 wTask l 0x10000 16 .write) (· < 2) (List.range 32) (sSet wTask x 0)
      (sSet wTask x 0) ∧
    (∀ l < 32, ∃ loc, translateLane (sSet wTask x 3) (.word 1 l) 0 wTask l 0x10000 16 .write = .ok (sSet wTask x 3) loc 3) ∧
    units512.length = 512 ∧ kget? units512 0x1000 = none := by
  have k : ∀ x ∈ [slotX [] [] [], slotX [(0x1000, ⟨0x10000, List.replicate 16 7, 0xFF, []⟩)] [gran 0x10000] []],
      (∀ e ∈ x.buf, e.2.bytes.length = 16) ∧
      (∀ l < 32, answers (translateLane (sSet wTask x 0) (.word 1 l) 0 wTask l 0x10000 16 .write) (sSet wTask x 0) (.own 0x10000 0) 0 = true) ∧
      ∀ l < 32, answers (translateLane (sSet wTask x 3) (.word 1 l) 0 wTask l 0x10000 16 .write) (sSet wTask x 3) (.host 0x10000) 3 = true := by
    decide +kernel
  intro x hx
  obtain ⟨a, b, c⟩ := k x hx
  refine ⟨rfl, rfl, rfl, slotOfSet, rfl, a, issuesLane, issues, mayEnd _, by decide +kernel, fun l hl => ?_, by decide +kernel,
    inSetAt (by decide) (by decide), inSetAt (by decide) (by decide), inNoSetAt (.inr (by decide)), inNoSetAt (.inl (by decide)),
    translatesTop (by decide) _ (fun l h => answers_eq (b l (List.mem_range.1 h))), fun l h => ⟨_, answers_eq (c l h)⟩,
    by decide +kernel, by decide +kernel⟩
  have e : ∀ l < 32, Accessible tA .glob (laneAt wTask .glob 62 0 l) .b128 := by unfold Accessible InSpace; decide +kernel
  refine ⟨(e l hl).1, (e l hl).2, fun _ t d ht hd hn => ?_⟩
  cases (Option.some.inj ((rfl : (sSet wTask x 0).team? wTask.team = some tA).symm.trans ht))
  cases hd
  exact absurd rfl hn

theorem witness_SetLoadsReadHomeAndBuffer : ∀ x ∈ [slotX [] [] [], slotX [(0x1000, ⟨0x10000, List.replicate 16 7, 0xFF, []⟩)] [gran 0x10000] []],
    ∀ w ∈ [wTask, wTop31], InTeam (sSet w x 0) w tA ∧ w.taskst = true ∧ SlotOf (sSet w x 0) w ⟨0x10000, 7, false⟩ x ∧
    NothingBefore w ∧ (∀ y ∈ w.windows, y.acc.seq < w.seq) ∧ (sSet w x 0).fab = [] ∧ (sSet w x 0).bad = [] ∧
    (∀ e ∈ x.buf, ∀ v ∈ e.2.hist, v.1 < w.seq) ∧ Issues (sSet w x 0) w wh ∧ IssuesLane (sSet w x 0) w ∧
    InSet (sSet w x 0) tA 0x10000 15 (gran 0x10000) ∧ wTop31.exec lh = 1#32 <<< 31 ∧
    (scalarAt w .glob 62 0).toNat = 0x10000 ∧ (∀ l < 32, (laneAt w .glob 62 0 l).toNat = 0x10000) ∧
    translateLane (sSet w x 0) (.lane 1 w.seq 31) 0 w 31 0x10000 16 .read = .ok (sSet w x 0) (.own 0x10000 0) 0 ∧
    translateLane (sSet w x 3) (.lane 1 w.seq 31) 0 w 31 0x10000 16 .read = .ok (sSet w x 3) (.host 0x10000) 3 ∧
    translate (sSet w x 0) (.lane 1 w.seq 0) 0 (some w.core) 0 0x10000 .read = .ok (sSet w x 0) (.own 0x10000 0) 0 := by
  have k : ∀ x ∈ [slotX [] [] [], slotX [(0x1000, ⟨0x10000, List.replicate 16 7, 0xFF, []⟩)] [gran 0x10000] []],
      ∀ w ∈ [wTask, wTop31], (w.task = some ⟨0x10000, 7, false⟩ ∧ w.core = 0 ∧ w.taskst = true ∧ w.team = 0) ∧
      (w.storeQ = [] ∧ w.opLog = [] ∧ w.windows = []) ∧ (∀ e ∈ x.buf, ∀ v ∈ e.2.hist, v.1 < w.seq) ∧
      (w.wait = none ∧ w.qGuard wh = true ∧ w.role = .epilogue ∧ w.inh = false) ∧
      (scalarAt w .glob 62 0).toNat = 0x10000 ∧ (∀ l < 32, (laneAt w .glob 62 0 l).toNat = 0x10000) ∧
      answers (translateLane (sSet w x 0) (.lane 1 w.seq 31) 0 w 31 0x10000 16 .read) (sSet w x 0) (.own 0x10000 0) 0 = true ∧
      answers (translateLane (sSet w x 3) (.lane 1 w.seq 31) 0 w 31 0x10000 16 .read) (sSet w x 3) (.host 0x10000) 3 = true ∧
      answers (translate (sSet w x 0) (.lane 1 w.seq 0) 0 (some w.core) 0 0x10000 .read) (sSet w x 0) (.own 0x10000 0) 0 = true := by
    decide +kernel
  intro x hx w hw
  obtain ⟨⟨a1, a2, a3, a4⟩, ⟨b1, b2, b3⟩, c, ⟨d1, d2, d3, d4⟩, e, f, g, h, i⟩ := k x hx w hw
  exact ⟨by unfold InTeam; rw [a4]; rfl, a3, slotOfSet a1 a2, nothingBefore b1 b2 b3, by simp [b3], rfl, rfl, c, ⟨rfl, d1, d2⟩,
    ⟨rfl, d1, d3, d4⟩, inSetAt (by decide) (by decide), by decide +kernel, e, f, answers_eq g, answers_eq h, answers_eq i⟩

theorem witness_TstatReportsTheTask : sA.warp? sA.cur = some wA ∧ wA.role = .epilogue ∧ MayEndHere wA (.tstat wh 63) ∧
    wA.task = none ∧ SlotOf (inTask wTask (slotX [] [3] [])) wTask ⟨0x10000, 7, false⟩ (slotX [] [3] []) :=
  ⟨rfl, by decide +kernel, mayEnd _, by decide +kernel, rfl, rfl⟩

/-- Another warp in a task, of a younger or an older stamp, holds granule 3. -/
def holder (age : W64) : Warp := { wTask with age := age, num := 1 }
def lockState (age : W64) (e : LockEntry) : State :=
  { (inTask wTask (slotX [] [] [3])) with warps := [(1, wTask), (2, holder age)], locks := [(3, e)] }

theorem witness_GranulesSlotsAndWoundsGoByAge : (inTask wTask (slotX [] [] [3])).warp? 1 = some wTask ∧
    SlotOf (inTask wTask (slotX [] [] [3])) wTask ⟨0x10000, 7, false⟩ (slotX [] [] [3]) ∧ 3 ∈ (slotX [] [] [3]).unsent ∧
    kget? (inTask wTask (slotX [] [] [3])).locks 3 = none ∧
    (inTask wTask (slotX [] [] [3])).sliceUse (granuleSlice (inTask wTask (slotX [] [] [3])) 3) < 512 ∧
    (lockState 0x400 ⟨0, some (2, 0x400), []⟩).warp? 2 = some (holder 0x400) ∧ OlderStamp wTask.age 0x400 ∧
    ¬ OlderStamp wTask.age 0x4 ∧ (wTask, (1 : Nat)).1.age = 5 ∧
    (∀ x ∈ [((1 : Nat), wTask.age), (2, 0x400)], x ≠ (1, wTask.age) →
      x.1 ≠ 1 ∧ OlderStamp wTask.age x.2 ∧ ¬ OlderStamp x.2 wTask.age) ∧
    ({ wTask with inh := true }.inh = true ∧ (⟨0x10000, 7, true⟩ : Task).wounded = true ∧ wTask.inh = false) ∧
    (held .taskSlot (.tbegin wh 63)).wait = some (wt .taskSlot (.tbegin wh 63)) ∧
    SlotFree (haveA (held .taskSlot (.tbegin wh 63))) (held .taskSlot (.tbegin wh 63)) 1 0 ∧
    CommitReady (inTask wTask (slotX [] [3] [])) wTask (slotX [] [3] []) := by
  refine ⟨rfl, ⟨rfl, rfl⟩, by decide, rfl, by decide +kernel, rfl, ?_, ?_, rfl, ?_, ⟨rfl, rfl, by decide +kernel⟩, rfl, ?_, commitReady⟩
  · unfold OlderStamp; decide +kernel
  · unfold OlderStamp; decide +kernel
  · unfold OlderStamp; decide +kernel
  · refine ⟨by decide, by decide +kernel, by decide +kernel, ?_, .inr (by decide +kernel)⟩
    intro e he hk
    simp [haveA] at he; subst he; exact absurd rfl hk

/-- A record of one row of 16 bytes. -/
def row16 : List Byte :=
  [4, 1, 16, 0] ++ List.replicate 4 0 ++ [16, 0, 0, 0] ++ List.replicate 36 0 ++ [16, 0, 1, 0, 1, 0, 1, 0] ++ List.replicate 72 0
def wCp : Warp := { wA with role := .copy, s := [(60, 0x80), (62, 0x10000)] }
def tCp : Team := { tA with layouts := [(15, row16)], mbars := [(31, mbar 1 1 0 false)] }
def sCp : State := haveT wCp tCp
def aCopy (load : Bool) (chunk : Nat) (left : List Nat) : Copy :=
  { team := 0, warp := 1, part := 0, bar := some 31, xf := latched wCp load 0 row16 60 62 61, pc := 0x10000, w0 := 0, w1 := 0
    order := 1, seq := 0, chunk := chunk, left := left, stopped := false, go := true, work := Chunk.fresh }

theorem witness_CopyWordsEnterTheTable : Issues sCp wCp wh ∧ InTeam sCp wCp tCp ∧ wCp.role = .copy ∧
    (∀ f ∈ copyForms wh 60 62 61 15 31 false 0, MayEndHere wCp f.1) ∧ kget? tCp.layouts 0 = none ∧
    kget? tCp.layouts 15 = some row16 ∧ 64 < (63 : Nat) + recRank (row16.set 1 2) ∧
    ({ wCp with s := [(60, 8)] }.sr 60).toNat % 16 ≠ 0 ∧ srPair { wCp with s := [(62, 8)] } 62 % 16 ≠ 0 ∧
    CopyAccepted tCp wCp (latched wCp true 0 row16 60 62 61) 61 31 false ∧
    CopyAccepted tCp wCp (latched wCp false 0 row16 60 62 61) 61 31 false ∧ AllPerformed wCp ∧
    128 ≤ ((withCopies sCp (tab 128 fun k => (k, bigCopy))).core 0).copies.length ∧ (sCp.core 0).copies.length < 128 ∧
    MayEndHere wCp (.tlrec wh 62 15) ∧ NothingBefore wCp ∧ srPair wCp 62 = 0x10000 ∧
    MappedAtHome sCp wCp tCp 0x10000 128 0x10000 0 ∧ recRefusal row16 = none ∧ recRefusal (List.replicate 128 0) = some 0x30 ∧
    MayEndHere wCp (.twait wh 0) ∧ copiesLeft sCp wCp ≤ (0 : BitVec 8).toNat ∧
    (0 : BitVec 8).toNat < copiesLeft (withCopies sCp [(0, bigCopy)]) wCp := by
  have acc : ∀ b, CopyAccepted tCp wCp (latched wCp b 0 row16 60 62 61) 61 31 false := fun b => by
    cases b <;> exact ⟨by decide +kernel, by decide +kernel, by decide +kernel, by decide +kernel, by decide +kernel,
      by decide +kernel, fun _ => ⟨mbar 1 1 0 false, by decide +kernel, rfl⟩⟩
  refine ⟨issues, rfl, rfl, fun _ _ => mayEnd _, by decide +kernel, rfl, by decide +kernel, by decide +kernel,
    by decide +kernel, acc _, acc _, ⟨(nothingBefore (w := wCp)).2.2, by decide +kernel⟩, by decide +kernel, by decide +kernel,
    mayEnd _, nothingBefore, by decide +kernel, ⟨mappedOn (by decide) (by decide +kernel) (by decide +kernel), ?_⟩,
    by decide +kernel, by decide +kernel, mayEnd _, by decide +kernel, by decide +kernel⟩
  intro k hk
  rw [show (sCp.core wCp.core).l1 = [] from by decide +kernel]; rfl

theorem witness_CopiesMoveBytesAndCreditTheirBarrier :
    kget? ((withCopies sCp [(127, aCopy true 0 [1])]).core 0).copies 127 = some (aCopy true 0 [1]) ∧
    sCp.team? 0 = some tCp ∧ ((aCopy true 0 [1]).xf.load = true ∧ recEt row16 = 4 ∧ recRank row16 = 1 ∧
      (∀ d < 3, recBox row16 (d + 1) = 1) ∧ recBox row16 0 = 16 ∧ (aCopy true 0 [1]).xf.c.getD 0 0 = 0 ∧
      (aCopy true 0 [1]).xf.c.getD 0 0 + recBox row16 0 ≤ recDim row16 0) ∧
    MappedOn (withCopies sCp [(127, aCopy true 0 [1])]) 0 tCp.ctx 0x10000 48 0x10000 0 ∧
    (1 ∈ (aCopy true 1 [1]).left ∧ (aCopy true 1 [1]).xf.lineWritten 1 4096 = true) ∧
    ((aCopy true 1 []).xf.chunks ≤ 1 ∧ (aCopy true 1 []).left = []) ∧ (aCopy false 1 []).xf.chunks ≤ 1 :=
  ⟨by decide +kernel, rfl, by decide +kernel, mappedOn (by decide) (by decide +kernel) (by decide +kernel), by decide +kernel,
    by decide +kernel, by decide +kernel⟩

/-- A decode card: standard 1, an output of 16 by 16, with a completion record at 0x10000. -/
def card : List Byte :=
  [2, 1, 1, 0, 0, 0, 0, 0, 0, 0, 1, 0, 0, 0, 0, 0, 0, 0x40, 0, 0, 0, 0, 0, 0, 16] ++ List.replicate 56 0 ++ [0x40, 0, 0, 0, 0, 0, 0, 16] ++ List.replicate 0x27 0 ++
    [1, 0, 0, 0, 16, 0, 16, 0] ++ List.replicate 0x78 0
def aJob (ticket : W32) (result : Option (Nat × Nat)) (complete : Bool) : Job :=
  { ticket := ticket, card := card, rcd := [], started := false, chunk := 0, engine := none, work := Chunk.fresh, draw := 0, bits := [], block := [], written := 0
    result := result, complete := complete, warp := 1 }
def withJobs (l : List Job) : State := { sA with streams := [(15, ⟨0, l⟩)] }
def after1 : Job := { aJob 0xFFFFFFFF none false with card := card.set 2 0 }

/-- A job that runs on the decoder of a number. -/
def running (e : Nat) : Job := { aJob 0 none false with started := true, engine := some e }
/-- A finished one, of the first decoder, whose record has yet to be written. -/
def aDone : Job := { aJob 0 (some (0, 0)) false with started := true, engine := some 0 }
def sDone : State := { withJobs [aDone] with tlb0 := [page] }

theorem jobAt (l : List Job) (n : Nat) (j : Job) (h : l[n]? = some j) (k : ∀ m < l.length, (l[m]?.map (·.ticket)) = some j.ticket → m = n) :
    JobAt (withJobs l) 0 15 n j := by
  refine ⟨(List.getElem?_eq_some_iff.mp h).1, h, fun m i hm hi => k m ?_ (by rw [show (streamOf (withJobs l) 0 15).jobs[m]? = l[m]? from rfl] at hm; rw [hm]; simp [hi])⟩
  exact (List.getElem?_eq_some_iff.mp hm).1

theorem witness_JobsRunInTheOrderOfTheirRegions : Issues sA wA wh ∧ InTeam sA wA tA ∧ MayEndHere wA (.xjob wh 63 62 15) ∧
    srPair (withS [(62, 0x10080)]) 62 % 256 ≠ 0 ∧ srPair wA 62 % 256 = 0 ∧ InSpace tA .glob (srPair wA 62) 256 ∧
    MappedAtHome sA wA tA 0x10000 256 0x10000 0 ∧ (aJob 0 none false).kind = 2 ∧ (aJob 0 none false).badField = none ∧
    { Regs.reset with ready := 0x80 }.ready.getLsbD 7 = true ∧ MayEndHere wA (.xwait wh 63 60 61) ∧
    (0 - 0 : W32).toNat = 0 ∧ 256 < (0 - 0xFFFFFEFF : W32).toNat ∧ 1 ≤ (0 - 0xFFFFFF00 : W32).toNat ∧ (0 - 0xFFFFFF00 : W32).toNat ≤ 256 ∧
    JobAt (withJobs [aJob 0xFFFFFFFF (some (8, 0)) true]) 0 15 0 (aJob 0xFFFFFFFF (some (8, 0)) true) ∧
    JobAt (withJobs [aJob 0xFFFFFFFE (some (8, 0)) true, after1]) 0 15 1 after1 ∧ MustFollow after1 (aJob 0xFFFFFFFE (some (8, 0)) true) ∧
    (aJob 0 (some (0, 0)) false).compl ≠ 0 ∧ (aJob 0 (some (0, 0)) false).compl % 16 = 0 ∧ after1.started = false ∧
    (Canonical (aJob 0 (some (0, 0)) false).compl ∧ (aJob 0 (some (0, 0)) false).work = Chunk.fresh) ∧
    (placedContext.active = true ∧ placedContext.retiring = false) ∧ EngineFree (withJobs [running 0, running 1]) 2 2 ∧
    (∀ e, ¬ EngineFree (withJobs (tab 8 running)) 2 e) ∧
    translate sDone (.job 0 15 0 (2 ^ 60)) 0 none (2 * 0 / 8) aDone.compl .engineWrite = .ok sDone (.own 0x10000 0) 0 := by
  refine ⟨issues, rfl, mayEnd _, by decide +kernel, by decide +kernel, ?_, ⟨mappedOn (by decide) ctxA tlbA, noL1 256⟩,
    by decide +kernel, by decide +kernel, by decide, mayEnd _, by decide, by decide, by decide, by decide, jobAt _ _ _ rfl (by decide +kernel),
    jobAt _ _ _ rfl (by decide +kernel), ?_, by decide +kernel, by decide +kernel, rfl, by decide +kernel, by decide +kernel, ?_,
    ?_, answers_eq (by decide +kernel)⟩
  · unfold InSpace; decide +kernel
  · unfold MustFollow; decide +kernel
  · unfold EngineFree; decide +kernel
  · intro e h
    have k : ∀ e < 8, ∃ x ∈ (withJobs (tab 8 running)).streams, ∃ i ∈ x.2.jobs, i.kind = 2 ∧ i.engine = some e ∧
      i.complete = false := by decide +kernel
    obtain ⟨x, hx, i, hi, h2, h3, h4⟩ := k e (by simpa using h.1)
    simp [h.2 x hx i hi h2 h3] at h4

/-- A transform card, whose layout record lies at 0x10100, and the memory that holds a card and the record. -/
def xformCard : List Byte := [1, 1] ++ List.replicate 0x87 0 ++ [1, 1] ++ List.replicate 0x75 0
def withCard (card : List Byte) : State :=
  { sA with
    regs := { sA.regs with ready := 0x180 }
    l2 := [(0x10000, ⟨card.take 128, BitVec.allOnes 128⟩), (0x10080, ⟨card.drop 128, BitVec.allOnes 128⟩),
      (0x10100, ⟨row16, BitVec.allOnes 128⟩)] }
def cardJob (card rcd : List Byte) : Job := { aJob 0 none false with card := card, rcd := rcd }

theorem witness_CardsTakeATicket (c : List Byte) : Issues (withCard c) wA wh ∧ InTeam (withCard c) wA tA ∧
    srPair wA 62 = 0x10000 ∧ NothingBefore wA ∧ MappedAtHome (withCard c) wA tA 0x10000 256 0x10000 0 ∧
    (c = card → (cardJob c []).kind = 2 ∧ (cardJob c []).badField = none ∧
      (tab 256 fun k => (withCard c).homeByte (.own (0x10000 + k) 0)) = c) ∧
    (c = xformCard → (cardJob c row16).kind = 1 ∧ (cardJob c row16).field 0x88 8 = 0x10100 ∧
      MappedAtHome (withCard c) wA tA 0x10100 128 0x10100 0 ∧
      (tab 256 fun k => (withCard c).homeByte (.own (0x10000 + k) 0)) = c ∧
      (tab 128 fun k => (withCard c).homeByte (.own (0x10100 + k) 0)) = row16 ∧
      (cardJob c row16).recordBad = false ∧ (cardJob c row16).badField = none) := by
  refine ⟨issues, rfl, by decide +kernel, nothingBefore, ⟨mappedOn (by decide) ctxA tlbA, noL1 256⟩, ?_, ?_⟩
  · rintro rfl; exact ⟨by decide +kernel, by decide +kernel, by decide +kernel⟩
  · rintro rfl
    exact ⟨by decide +kernel, by decide +kernel, ⟨mappedAt 0x100 (by decide) rfl ctxA tlbA, noL1At 0x100 128⟩,
      by decide +kernel, by decide +kernel, by decide +kernel, by decide +kernel⟩

/-! ## Witnesses: pergolas and the matrix unit -/

/-- The team with four places in pergola 15, and a pergola that holds entries. -/
def tP : Team := { tA with desc := { tA.desc with perg := List.replicate 15 0 ++ [0x8003] } }
def tQ (x : Pergola) : Team := { tP with pergs := [(15, x)] }
def full4 : Pergola := ⟨1, 0xFFFFFFFD, 4, false, [(1, 7)]⟩
def shut0 : Pergola := ⟨5, 5, 4, true, []⟩
def sQ (w : Warp) (x : Pergola) : State := haveT w (tQ x)

theorem noneWaits {w : Warp} {x : Pergola} {p : WaitKind → Prop} (h : w.wait = none := by decide +kernel) :
    NoneWaits (sQ w x) 0 p := by
  intro e he _ y hy
  simp [sQ, haveT] at he; subst he; simp [h] at hy

def pushW : WaitKind := .pushQ 15 7 true .system
def popW : WaitKind := .popQ 15 60 1 true .system

theorem witness_PergolaWordsActInTheirOrder_words : Issues (sQ wA shut0) wA wh ∧ InTeam (sQ wA shut0) wA (tQ shut0) ∧ AllPerformed wA ∧
    (sQ wA shut0).bad = [] ∧ (∀ i ∈ [Instr.qinit wh 60 15, .qpush wh 62 15 .device .rel, .qpop wh 62 1 15 .device .acq,
      .qtry wh 62 1 15 .device .acq, .qclose wh 15 .device .rel], MayEndHere wA i) ∧ wA.taskst = false ∧
    pergValid ((tQ shut0).desc.perg.getD 15 0) = true ∧ wA.inh = false ∧ ((withS [(60, 4)]).sr 60).toNat = pergDepth 0x8003 ∧
    pergDepth 0x8003 < (wA.sr 60).toNat ∧ NoneWaits (sQ wA shut0) 0 (fun k => pushes 15 k ∨ pops 15 k) ∧
    ¬ NoneWaits (sQ (held pushW) full4) 0 (fun k => pushes 15 k ∨ pops 15 k) ∧ NothingToWriteBack (sQ wA shut0) wA .system ∧
    (pergolaOf (tQ shut0) 15 = shut0 ∧ pergCount shut0 = 0) ∧ (full4.shut = false ∧ pergCount full4 = full4.depth) ∧
    (pergolaOf tP 15).shut = false ∧ pergCount (pergolaOf tP 15) = 0 ∧ (pergolaOf tP 15).depth = 4 ∧
    pergValid (tP.desc.perg.getD 14 0) = false := by
  refine ⟨issues, rfl, allPerformed, by decide +kernel, fun _ _ => mayEnd _, by decide +kernel, by decide +kernel, by decide +kernel,
    by decide +kernel, by decide +kernel, noneWaits, ?_, .inr (.inr (by decide +kernel)), by decide +kernel, by decide +kernel,
    by decide +kernel, by decide +kernel, by decide +kernel, by decide +kernel⟩
  intro h
  exact h (1, held pushW) (List.mem_singleton_self _) rfl _ rfl (.inl ⟨_, _, _, rfl⟩)

/-- Two warps wait at the pergola; the second parked later. -/
def sQ2 (a b : WaitKind) (x : Pergola) : State :=
  { sQ (held a) x with warps := [(1, held a), (2, { held b with num := 1, wait := some { wt b with order := 1 } })] }

theorem witness_PergolaWordsActInTheirOrder_parked : (sQ wA full4).warp? 1 = some wA ∧ MayEndHere wA (.qlen wh 63 15) ∧
    pergValid ((tQ full4).desc.perg.getD 15 0) = true ∧
    (∀ k ∈ [pushW, popW], Holding (sQ2 k pushW shut0) 1 (held k) (wt k) ∧ InTeam (sQ2 k pushW shut0) (held k) (tQ shut0) ∧
      (∀ e ∈ (sQ2 k pushW shut0).warps, e.1 = 1 → e.2 = held k) ∧
      ∀ e ∈ (sQ2 k pushW shut0).warps, e.1 ≠ 1 → e.2.team = 0 → ∀ y, e.2.wait = some y → CanGo shut0 15 y.kind →
        (wt k).order < y.order) ∧
    CanGo shut0 15 pushW ∧ (pergolaOf tP 15).shut = false ∧ pergCount (pergolaOf tP 15) < 4 ∧ pergCount full4 ≠ 0 ∧
    (pergCount shut0 = 0 ∧ shut0.shut = true) ∧ (held pushW).inh = false ∧
    kget? (withHandler sE).contexts tP.ctx = some { placedContext with thand := 0x8000 } := by
  refine ⟨rfl, mayEnd _, by decide +kernel, fun k hk => ?_, .inl ⟨⟨_, _, _, rfl⟩, .inl rfl⟩, by decide +kernel, by decide +kernel,
    by decide +kernel, by decide +kernel, by decide +kernel, by decide +kernel⟩
  refine ⟨⟨rfl, rfl⟩, rfl, ?_, ?_⟩
  · intro e he h1
    simp [sQ2] at he
    rcases he with rfl | rfl
    · rfl
    · simp at h1
  · intro e he h1 _ y hy _
    simp [sQ2] at he
    rcases he with rfl | rfl
    · simp at h1
    · obtain rfl : { wt pushW with order := 1 } = y := Option.some.inj hy
      simp only [wt]; omega

/-- A maths warp of a team whose orangery has three slots and whose matrix context holds some operations. -/
def tMat (ops : List MatOp) : Team := { tA with mats := [(1, ⟨3, 1, ops⟩)] }
def wMat : Warp := { wA with role := .maths, s := [(0, 0x4000), (5, 16), (8, 256), (9, 16), (10, 1), (61, 0x10000)] }
def sMat (ops : List MatOp) : State := haveT wMat (tMat ops)
/-- An operation: 2 rows of A and of B, K = 16, at the tile 0x4000. -/
def op2 (kind : Nat) (fw : W32) : MatOp :=
  { kind := kind, pc := 0x10000, fw := fw, a := [0, 16, 0, 0, 0], b := [256, 16, 0, 0], c := 0x4000, seq := 0, steps := 0, steps2 := 0
    latched := [], now := [], ahead := [], held := [] }
def fw2 : W32 := 0x48081012

theorem witness_MatrixWordsQueueAndStep_words : Issues (sMat []) wMat wh ∧ InTeam (sMat []) wMat (tMat []) ∧ wMat.role = .maths ∧
    (tMat []).mats.find? (fun e => e.2.warp == (sMat []).cur) = some (1, ⟨3, 1, []⟩) ∧
    (∀ f ∈ matForms wh 0 4 8 fw2 wMat ++ matForms wh 5 4 10 fw2 wMat, MayEndHere wMat f.1) ∧
    (∀ f ∈ matForms wh 0 4 8 fw2 wMat ++ matForms wh 5 4 10 fw2 wMat, ∀ g ∈ f.2.1, g.1 + g.2 ≤ 64) ∧
    (∀ f ∈ (matForms wh 0 4 8 fw2 wMat).take 3 ++ ((matForms wh 5 4 10 fw2 wMat).drop 3).take 1 ++
        (matForms wh 5 4 12 fw2 wMat).drop 4,
      f.2.2.regions.all (fun r => decide (r.1 + r.2 ≤ 4096)) = true ∧ f.2.2.tile.1 + f.2.2.tile.2 ≤ (tMat []).desc.orang ∧
      f.2.2.fmtCase = none) ∧
    (∀ f ∈ (matForms wh 0 4 12 fw2 wMat).take 3, f.2.2.fmtCase = some 6) ∧
    (∀ f ∈ (matForms wh 61 4 8 fw2 wMat).take 3, (tMat []).desc.orang < f.2.2.tile.1 + f.2.2.tile.2) ∧
    RegionByte (op2 0 fw2) 0 ∧ Forbidden { tMat [] with allot := 0 } 0 ∧ ¬ Forbidden (tMat []) 0 ∧
    wMat.sr 12 = 0 ∧ wMat.sr 10 ≠ 0 ∧ (List.replicate 16 (op2 0 fw2)).length = 16 ∧ MayEndHere wMat (.mwait wh 15) ∧
    ([op2 0 fw2].length ≤ (15 : Reg).toNat ∧ (0 : Reg).toNat < [op2 0 fw2].length) := by
  refine ⟨issues, rfl, rfl, by decide +kernel, fun _ _ => mayEnd _, by decide +kernel, by decide +kernel, by decide +kernel,
    by decide +kernel, ⟨_, List.mem_cons_self, by decide +kernel, by decide +kernel⟩, .inl (by decide +kernel), ?_,
    by decide +kernel, by decide +kernel, by decide +kernel, mayEnd _, by decide +kernel⟩
  unfold Forbidden; decide +kernel

/-- The kinds of operation, each at the head of its queue; the copy takes a row of one element to the address 16. -/
def headOps : List MatOp :=
  [op2 0 fw2, { op2 1 fw2 with steps := 1 }, { op2 2 fw2 with steps := 1 }, { op2 3 0 with a := [0x4000], b := [1] },
    { op2 4 0 with a := [0x4000], b := [16], c := 0 }, { op2 4 0 with a := [0x4000], b := [16], c := 0, steps := 1 }]

/-- The team with line 0 of its scratchpad absent. -/
def tAbsent (ops : List MatOp) : Team := { tMat ops with spads := [(0, ⟨[], [0], []⟩)] }

theorem witness_MatrixWordsQueueAndStep_steps : (∀ o ∈ headOps, MatAt (sMat [o]) 0 3 0 (tMat [o]) 0 1 ⟨3, 1, [o]⟩ o []) ∧
    ((op2 0 fw2).steps < (fwK fw2 + 127) / 128 ∧
      (∃ e ∈ (op2 0 fw2).stepSpans 0, ∃ b < e.2, (e.1 + b) / 128 ∈ (kget (tAbsent []).spads 0 ⟨[], [], []⟩).absent) ∧
      ∀ e ∈ (op2 0 fw2).stepSpans 0, ∀ b < e.2, (e.1 + b) / 128 ∉ (kget (tMat []).spads 0 ⟨[], [], []⟩).absent) ∧
    (recWord [1] 0 = 1 ∧ (∀ o ∈ headOps.drop 3, o.fmtCase = none)) ∧ (fwK fw2 + 127) / 128 ≤ 1 ∧ (tMat []).desc.pairMode = false := by
  refine ⟨fun o ho => ⟨?_, rfl, rfl, rfl, by decide, by decide, rfl, by exact (by decide +kernel : sE.bad = []), ?_, ?_⟩,
    by decide +kernel, by decide +kernel, by decide +kernel, by decide +kernel⟩
  · rfl
  · intro w hw x hx
    obtain rfl : wMat = w := Option.some.inj hw
    exact absurd hx (by rw [show wMat.storeQ = [] from by decide +kernel]; simp)
  · revert o; decide +kernel

/-! ## Witnesses: contexts, translation services and launches -/

/-- A device that is ready, with some bytes of HBM and one context; the record of context 63 stands at 0x2F80. -/
def sR (cells : List Host.Cell) : State :=
  { State.reset with
    regs := { Regs.reset with ready := 0x7FF, ctxtab := 0x1000, rectab := 0x4000, keyIdx := 127 }
    contexts := [(0, { placedContext with pasid := 7 })], hbm := cells, tlb0 := [page] }
def goodRecord : List Host.Cell := [(0x2F8C, 1), (0x2F90, 1), (0x2FB0, 16)]
/-- The same with the PASID of context 0. -/
def takenRecord : List Host.Cell := [(0x2F88, 7), (0x2F8C, 1), (0x2F90, 1), (0x2FB0, 16)]
def fieldsAt (s : State) (base off size : Nat) : Nat := homeNat s (base + off) size

theorem witness_ContextsAndKeySlotsChangeAsTheirCommandsSay : ReadyFor (sR goodRecord) 4 ∧ (sR goodRecord).bad = [] ∧
    (sR goodRecord).regs.ctxBusy = none ∧ RecordsGood (fieldsAt (sR goodRecord) 0x2F80) (fieldsAt (sR goodRecord) 0x4FC0) ∧
    (∀ e ∈ (sR goodRecord).contexts, e.2.pasid ≠ fieldsAt (sR goodRecord) 0x2F80 0x08 4) ∧
    ¬ RecordsGood (fieldsAt (sR []) 0x2F80) (fieldsAt (sR []) 0x4FC0) ∧
    RecordsGood (fieldsAt (sR takenRecord) 0x2F80) (fieldsAt (sR takenRecord) 0x4FC0) ∧
    (∃ e ∈ (sR takenRecord).contexts, e.1 ≠ 63 ∧ e.2.active = true ∧ e.2.pasid = fieldsAt (sR takenRecord) 0x2F80 0x08 4) ∧
    kget? (sR []).contexts 0 = some { placedContext with pasid := 7 } ∧ (∃ t ∈ sE.teams, t.2.ctx = 0) ∧
    NothingLeft (sR []) 0 ∧ (sR []).regs.keyIdx ≠ 0 ∧ ((∀ e ∈ (sR []).l2, ¬ ofSlot 127 e.1) ∧
      (∀ e ∈ (sR []).rdc0 ++ (sR []).rdc1, ¬ ofSlot 127 e.1) ∧ ∀ e ∈ (sR []).keyTag, e.2 ≠ 127) := by
  refine ⟨by unfold ReadyFor; decide +kernel, rfl, rfl, ?_, by decide +kernel, ?_, ?_, by decide +kernel, rfl, by decide +kernel,
    ?_, by decide +kernel, ?_⟩
  iterate 3 (unfold RecordsGood RecoveryGood; decide +kernel)
  · unfold NothingLeft; decide +kernel
  · unfold ofSlot; decide +kernel

def priReq (page : Nat) : PriReq :=
  { die := 0, ctx := 0, page := page, rd := true, wr := false, ex := false, since := 0, perm := false, past := 0
    waiters := [.lane 1 0 0] }
def sPri : State := { sR [] with pri := [(511, priReq 0x5000)], ats := [(1023, ⟨1, 0, { page with tier := 3 }, 0x10000⟩)] }
def inv (ctx sig : Nat) : InvCmd := ⟨ctx, 0x10000, 4096, sig⟩

theorem witness_TranslationServicesAnswerTheirRequests : kget? sPri.pri 511 = some (priReq 0x5000) ∧
    kget? sPri.contexts (priReq 0x5000).ctx = some { placedContext with pasid := 7 } ∧
    (∀ e ∈ sPri.pri, ∀ w ∈ e.2.waiters, ∀ a b, w ≠ Waiter.hwm a b) ∧
    inWindow { placedContext with pasid := 7 } (priReq 0x5000).page = false ∧
    kget? sPri.ats 1023 = some ⟨1, 0, { page with tier := 3 }, 0x10000⟩ ∧ max 12 (min page.size (max 12 57)) ≤ 57 ∧
    (∀ e ∈ sPri.contexts, e.2.active = true → e.2.pasid ≠ 0) ∧
    (∀ e ∈ sPri.contexts, e.2.active = true → e.2.pasid = 7 → e.1 = 0) ∧ ReadyFor sPri 4 ∧ sPri.invQ.length < 16 ∧
    16 ≤ ({ sPri with invQ := List.replicate 16 (inv 0xFF 0x8000) }).invQ.length ∧
    NothingOut { sPri with atsInv := [inv 0 0], invQ := [inv 0xFF 0x8000] } ∧ sPri.atsInv = [] ∧ (inv 0xFF 0x8000).sig + 8 ≤ 2 ^ 63 := by
  refine ⟨rfl, rfl, ?_, by decide +kernel, rfl, by decide, by decide +kernel, by decide +kernel, by unfold ReadyFor; decide +kernel,
    by decide, by decide, ?_, rfl, by decide⟩
  · intro e he w hw a b
    simp [sPri] at he; subst he
    simp [priReq] at hw; subst hw; simp
  · unfold NothingOut; decide +kernel

/-- A queue of 16 packets with its header at 0x20000, its next packet the last of the ring, and a launch of its packet 14. -/
def aQueue : LaunchQ := ⟨0x20000, 4, 3, 16, 15, false, false⟩
def aLaunch : Launch :=
  { ctx := 0, queue := 63, packet := 14, kdesc := 0x10000, prio := 3, order := 0, since := none, sig := 0, compl := 0, reading := false
    work := Chunk.fresh, before := none, seen := [], desc := tE.desc
    layouts := [], refusedSet := none, admitted := [], retired := 0, privWait := false, reserved := none, status := none }
def sL (cells : List Host.Cell) (l : KMap Launch) : State := { sR cells with queues := [(63, aQueue)], launches := l }
/-- Kernel packets: one with the descriptor at 0x10000, and one that also waits for 7 at 0x10008. -/
def kernelAt : List Host.Cell := [(0x20400, 1), (0x2040A, 1)]
def waits : List Host.Cell := kernelAt ++ [(0x20410, 8), (0x20412, 1), (0x20418, 7)]
def goodDesc : List Host.Cell :=
  [(0x10000, 1), (0x10004, 1), (0x10022, 1), (0x10023, 8), (0x10030, 1), (0x10034, 1), (0x10036, 1), (0x10038, 1), (0x10039, 1),
    (0x1003A, 1)]
def descAt (s : State) : Desc := descOf (tab 256 fun k => s.homeByte (.own (0x10000 + k) 0))

theorem hasPacket (cells : List Host.Cell) (l : KMap Launch) : HasPacket (sL cells l) 0 63 aQueue :=
  ⟨rfl, by unfold ReadyFor; exact (by decide : (0x7FF : BitVec 11).getLsbD 5 = true), ⟨_, rfl, rfl, rfl⟩, by decide⟩

theorem deviceMaps {s : State} {a n : Nat} (ha : a % 16 = 0) (h0 : 0x10000 ≤ a) (hn : a + n ≤ 0x20000)
    (hc : s.contexts = [(0, { placedContext with pasid := 7 })]) (ht : s.tlb0 = [page]) (h1 : s.priDenied = [] := by rfl)
    (h2 : s.priTries = [] := by rfl) (h6 : s.priGranted = [] := by rfl) (h3 : s.fab = [] := by rfl) (h4 : s.leases = [] := by rfl) (h5 : s.bad = [] := by rfl) :
    DeviceMaps s 0 a n a 0 := by
  refine ⟨{ placedContext with pasid := 7 }, page, by rw [hc]; rfl, rfl, h1, h2, h6, h3, h4, h5, fun k hk => ?_, by decide, rfl, rfl, rfl,
    ?_, ?_, ?_, .inl ?_, ha, ha, ?_, by decide⟩
  · have : page.covers 0 (a + k) = true := by
      have e : (a + k) % 2 ^ 57 = a + k := Nat.mod_eq_of_lt (by omega)
      show ((0 : Nat) == 0 && decide (0x10000 ≤ (a + k) % 2 ^ 57) && decide ((a + k) % 2 ^ 57 < 0x10000 + 2 ^ 16)) = true
      rw [e]
      exact Bool.and_eq_true_iff.mpr ⟨Bool.and_eq_true_iff.mpr ⟨rfl, decide_eq_true (by omega)⟩, decide_eq_true (by omega)⟩
    simp [ht, this]
  all_goals simp only [page, Nat.reducePow] at *; omega

theorem witness_QueuesBeginTheirPackets : ReadyFor (sR []) 5 ∧
    (let s := { sR [(0x30001, 0x10), (0x11000, 16), (0x11010, 4)] with regs := { (sR []).regs with lqtab := [(0, 0x2FE08)] } }
     let entry := homeNat s (kget s.regs.lqtab 0 0 + 8 * 63) 8
     entry - entry % 4096 = 0x1000 ∧ entry % 2 = 0) ∧
    (let s := { sR [(0x2F1F8, 1), (0x2F1F9, 0x10), (0x2F1FA, 1), (0x11000, 16), (0x11010, 4)] with
        regs := { (sR []).regs with lqtab := [(0, 0x2F000)] } }
     let entry := homeNat s (kget s.regs.lqtab 0 0 + 8 * 63) 8
     entry - entry % 4096 = 0x11000 ∧ entry % 2 = 1 ∧ homeNat s 0x11010 1 = 4 ∧ homeNat s 0x11011 1 = 0) ∧
    (∀ cells l, HasPacket (sL cells l) 0 63 aQueue) ∧ aQueue.header + 2 ^ 23 ≤ 2 ^ 63 ∧
    ¬ PacketTurn (sL [(0x20401, 1)] [(5, aLaunch)]) 0 63 aQueue ∧ PacketTurn (sL [] [(5, aLaunch)]) 0 63 aQueue ∧
    PacketTurn (sL [(0x20401, 1)] []) 0 63 aQueue ∧ ¬ PacketAligned (sL [(0x20408, 1)] []) aQueue ∧
    PacketAligned (sL [] []) aQueue ∧ PacketAligned (sL kernelAt []) aQueue ∧ PacketAligned (sL waits []) aQueue ∧
    (packetField (sL kernelAt []) aQueue 0 1 = 1 ∧ packetField (sL kernelAt []) aQueue 8 8 = 0x10000 ∧
      packetField (sL [(0x20400, 255)] []) aQueue 0 1 = 255 ∧ packetField (sL waits []) aQueue 0x10 8 = 0x10008) ∧
    DeviceMaps (sL kernelAt []) 0 0x10000 256 0x10000 0 ∧ 0x10000 + 256 ≤ aQueue.header + 8 ∧ (descAt (sL kernelAt [])).refusal = some 1 ∧
    (let d := descAt (sL (goodDesc ++ kernelAt) [])
     d.refusal = none ∧ d.asCount = 0 ∧ d.lrCount = 0) ∧ DeviceMaps (sL waits []) 0 0x10000 16 0x10000 0 := by
  refine ⟨by unfold ReadyFor; decide +kernel, by decide +kernel, by decide +kernel, hasPacket, by decide, ?_, .inl (by decide +kernel),
    .inr (by decide +kernel), ?_, ?_, ?_, ?_, by decide +kernel, deviceMaps (by decide) (by decide) (by decide) rfl rfl,
    by decide, by decide +kernel, by decide +kernel, deviceMaps (by decide) (by decide) (by decide) rfl rfl⟩
  · unfold PacketTurn; decide +kernel
  iterate 4 (unfold PacketAligned; decide +kernel)

/-- A launch of a grid of 2 by 2 teams, one to a gang, and one of gangs of two. -/
def grid4 : Launch := { aLaunch with desc := { tA.desc with gridX := 2, gridY := 2, gridZ := 1, gangX := 1, gangY := 1, gangZ := 1, pairMode := false } }
def gangs2 : Launch := { grid4 with since := some 0, desc := { grid4.desc with gangX := 2, gclass := 1 } }
def roomDesc : Desc := { grid4.desc with ncopy := 1, nmaths := 2, nepi := 4, vregs := 8 }

theorem witness_TeamsAndLaunchesBeginAndEnd_teams :
    (let l := { grid4 with desc := roomDesc }
     let s := sL [] [(5, l)]
     s.launches = [(5, l)] ∧ s.frames = [] ∧ ReadyFor s 5 ∧ s.diesStopped = false ∧
       OpenContext s l.ctx { placedContext with pasid := 7 } ∧ l.status = none ∧ l.reading = false ∧ l.privWait = false ∧ l.reserved = none ∧ 3 ∉ l.admitted ∧ l.admitted.length < 4 ∧
       l.desc.gridX * l.desc.gridY * l.desc.gridZ = 4 ∧ l.desc.gangX = 1 ∧ l.desc.gangY = 1 ∧ l.desc.gangZ = 1 ∧
       l.desc.pairMode = false) ∧ RoomOn (sL [] [(5, { grid4 with desc := roomDesc })]) roomDesc 383 ∧
    (let s := { sL [] [(5, gangs2)] with contexts := [(0, { placedContext with nPriv := 1 })], time := 70000 }
     couldUse s gangs2.need (List.range 384) = false ∧ gangs2.since = some 0 ∧ 0 + 50 * 1400 ≤ s.time.toNat ∧ (gangs2.reading = false ∧ gangs2.privWait = false) ∧
       [192, 383].length = gangs2.desc.gangSize ∧ [192, 383].Nodup ∧ gangs2.desc.gangs = 2 ∧ gangs2.desc.gclass = 1 ∧
       ∀ a ∈ [192, 383], ∀ b ∈ [192, 383], a / 192 = b / 192) ∧
    (haveA { wA with exited := true }).team? 0 = some tA ∧ TeamOver (haveA { wA with exited := true }) 0 tA ∧
    (haveA { wA with exited := true }).bad = [] ∧
    (∀ e ∈ (haveA { wA with exited := true }).warps, ∀ x, e.2.wait = some x → ∀ g, x.kind ≠ .gbar g) ∧
    (haveA { wA with exited := true }).frames = [] := by
  refine ⟨⟨rfl, rfl, by unfold ReadyFor; decide +kernel, rfl, ⟨rfl, rfl, rfl⟩, rfl, rfl, rfl, rfl, by decide, by decide, by decide +kernel,
    by decide +kernel, by decide +kernel, by decide +kernel, by decide +kernel⟩, ?_, by decide +kernel, rfl, ?_, by exact
    (by decide +kernel : sE.bad = []), ?_, by exact (by decide +kernel : sE.frames = [])⟩
  · unfold RoomOn; decide +kernel
  · unfold TeamOver; decide +kernel
  · intro e he x hx
    simp [haveA] at he; subst he
    exact absurd hx (by rw [show wA.wait = none from by decide +kernel]; simp)

theorem witness_TeamsAndLaunchesBeginAndEnd_launches : kget? (sL [] [(5, aLaunch)]).launches 5 = some aLaunch ∧
    NothingOut (sL [] [(5, aLaunch)]) ∧ (sL [] [(5, aLaunch)]).bad = [] ∧ (∀ t ∈ (sL [] [(5, aLaunch)]).teams, t.2.launch ≠ 5) ∧
    ({ aLaunch with status := some 0x11 } : Launch).status = some 0x11 ∧
    ({ grid4 with retired := 4 } : Launch).retired = grid4.desc.gridX * grid4.desc.gridY * grid4.desc.gridZ ∧
    (grid4.admitted.length < grid4.desc.gangs ∧ grid4.retired ≠ 4) ∧
    (∃ c, kget? (sL [] [(5, aLaunch)]).contexts aLaunch.ctx = some c ∧ c.active = true) ∧
    DeviceMaps (sL [] [(5, { aLaunch with compl := 0x1FFF0 })]) 0 0x1FFF0 16 0x1FFF0 0 ∧
    (0x1FFF8 % 8 = 0 ∧ (0x1FFF8 - 0x1FFF8 % 16 : Nat) = 0x1FFF0) :=
  ⟨rfl, by unfold NothingOut; decide +kernel, rfl, by decide +kernel, rfl, by decide +kernel, by decide +kernel, ⟨_, rfl, rfl⟩,
    deviceMaps (by decide) (by decide) (by decide) rfl rfl, by decide⟩

/-! ## Witnesses: leases, the fabric and pre-emption -/

/-- Records at 0x1000 + 64 × 63: a lender's, a borrower's, and one that lies too high. -/
def sLease (cells : List Host.Cell) (l : KMap Lease) : State :=
  { sR cells with regs := { (sR cells).regs with leasetab := 0x1000 }, leases := l }
def lenderRec : List Host.Cell := [(0x1FC0, 1), (0x1FD3, 0x40), (0x1FD9, 127)]
def borrowRec : List Host.Cell := [(0x1FC0, 2), (0x1FC2, 0xFF), (0x1FC3, 3), (0x1FD3, 0x40)]
/-- A lease of 1 GiB at address 0 with device 1023. -/
def lease (lender : Bool) (st : LeaseState) : Lease :=
  { lender := lender, st := st, peer := 1023, id := 0, lbase := 0, size := 2 ^ 30, ctx := 0, key := 127, fb := true, fbase := 2 ^ 30
    deadline := 2785, trecl := 0, returning := false, stopped := false, quiesced := false, moved := [], lastMove := 0
    awaited := [], unsent := none }
def quiet (l : Lease) : Lease := { l with quiesced := true, stopped := true }
def late (s : State) : State := { s with time := 0xFFFFFFFF, keys := [(127, ⟨true, []⟩)] }

theorem fabricIdle {s : State} (h : s.fab = []) (g : s.priGranted = [] := by rfl) (k : s.planeDrain = List.replicate 16 false := by rfl) : FabricIdle s := by
  refine ⟨h, g, fun f hf => ?_⟩
  rw [k]
  revert f; decide

theorem witness_LeaseCommandsAndGrantsChangeTheirRecord : (∀ cells l, FabricIdle (sLease cells l)) ∧ (sLease [] []).pri = [] ∧
    (sLease [] []).priDenied = [] ∧ (sLease [] []).regs.leasetab + 64 * 64 ≤ 2 ^ 63 ∧ (∀ cells l, LeaseFree (sLease cells l) 63) ∧
    leaseField (sLease [] []) 63 0 1 = 0 ∧ leaseField (sLease lenderRec []) 63 1 1 = 0 ∧
    (LeaseGood (leaseField (sLease lenderRec []) 63) ∧ (leaseRecord (leaseField (sLease lenderRec []) 63)).lender = true) ∧
    (LeaseGood (leaseField (sLease borrowRec []) 63) ∧ (leaseRecord (leaseField (sLease borrowRec []) 63)).lender = false) ∧
    ¬ LeaseGood (leaseField (sLease [(0x1FC0, 1)] []) 63) ∧
    (∃ e ∈ (sLease lenderRec [(0, lease true .active)]).leases, e.1 ≠ 63 ∧ e.2.lender = true ∧ e.2.lbase < 2 ^ 30) ∧
    (sLease lenderRec []).rdc0 = [] ∧ (sLease lenderRec []).rdc1 = [] ∧
    (∀ a b, kget? (sLease [] [(63, lease a b)]).leases 63 = some (lease a b) ∧ (lease a b).lender = a ∧ (lease a b).st = b) ∧
    { (lease false .reclaiming) with returning := true }.quiesced = false ∧
    (busyWith (sLease [] []) 63 2).regs.leaseBusy = some (63, 2, 0) ∧ 0 + 100 * 1400 ≤ (late (sLease [] [])).time.toNat ∧
    (∀ e ∈ (sLease [] [(63, lease false .offered)]).leases, e = (63, lease false .offered)) ∧
    ∀ e ∈ (sLease [] []).leases, ¬ e.2.lender = false := by
  refine ⟨fun _ _ => fabricIdle rfl, rfl, rfl, by decide, fun _ _ => ⟨?_, rfl, by decide⟩, by decide +kernel, by decide +kernel,
    ⟨?_, by decide +kernel⟩, ⟨?_, by decide +kernel⟩, ?_, by decide +kernel, rfl, rfl, fun _ _ => ⟨rfl, rfl, rfl⟩, rfl, by decide +kernel,
    by decide +kernel, ?_, ?_⟩
  · unfold ReadyFor; exact (by decide : (0x7FF : BitVec 11).getLsbD 6 = true)
  iterate 3 (unfold LeaseGood; decide +kernel)
  · intro e he; simpa [sLease] using he
  · intro e he; simp [sLease] at he

theorem witness_ReclaimedLeasesMoveToTheirFallback : (∀ a b, kget? (sLease [] [(63, lease a b)]).leases 63 = some (lease a b)) ∧
    FabricIdle (late (sLease [] [(63, lease true .reclaiming)])) ∧ (late (sLease [] [])).pri = [] ∧
    (late (sLease [] [])).priDenied = [] ∧ (late (sLease [] [])).regs.leasetab + 64 * 64 ≤ 2 ^ 63 ∧
    (lease false .reclaiming).st ≠ .idle ∧ (lease false .reclaiming).stopped = false ∧ (quiet (lease false .reclaiming)).stopped = true ∧
    511 < (quiet (lease false .reclaiming)).size / 2 ^ 21 ∧ 511 ∉ (quiet (lease false .reclaiming)).moved ∧
    (kget (late (sLease [] [])).keys 127 ⟨false, []⟩).loaded = true ∧ (kget (sLease [] []).keys 127 ⟨false, []⟩).loaded = false ∧
    (lease false .reclaiming).fbase + (lease false .reclaiming).size ≤ Config.hbmBytes ∧
    (lease false .reclaiming).size / 2 ^ 21 ≤ { lease false .reclaiming with moved := List.range 512 }.moved.length ∧
    (lease true .reclaiming).trecl.toNat + (lease true .reclaiming).deadline * 1400 ≤ (late (sLease [] [])).time.toNat ∧
    (lease false .reclaiming).lastMove + (late (sLease [] [])).fabricTimeout * 1400 ≤ (late (sLease [] [])).time.toNat := by
  refine ⟨fun _ _ => rfl, fabricIdle rfl, rfl, rfl, by decide, by decide, rfl, rfl, by decide, by decide, by decide +kernel,
    by decide +kernel, by decide +kernel, by decide +kernel, by decide +kernel, by decide +kernel⟩

/-- A request of an engine to a line of device 1023, with nothing heard yet. -/
def fabReq (op : FabOp) : FabReq :=
  { who := .copy 0 127 0, die := 1, dev := 1023, pa := 0x80, va := 0, op := op, port := 0, since := 0, tmo := 10, order := 0
    answer := none }
def sFab (op : FabOp) : State := late { sR [] with fab := [(9, fabReq op)], contexts := [] }

theorem witness_FabricRequestsAndPlanesAreServed : (sLease [] [(63, lease true .active)]).bad = [] ∧
    (∀ r, ¬ Covered (sLease [] []) 1023 0 128 r) ∧
    Covered (sLease [] [(63, lease true .reclaiming)]) 1023 (2 ^ 30 - 128) 128 (lease true .reclaiming) ∧
    (∀ r, Covered (sLease [] [(63, lease true .reclaiming)]) 1023 (2 ^ 30 - 128) 128 r → r.key = 127) ∧ atomicSize .add .b64 ∧
    (∀ op ∈ [FabOp.read, .write [(127, 7)], .atomic 8 .b64 .add [(1, 0), (2, 0)]],
      kget? (sFab op).fab 9 = some (fabReq op) ∧ (fabReq op).answer = none ∧ (∀ k, (fabReq op).op ≠ .message k) ∧
      (fabReq op).since + (fabReq op).tmo * 1400 ≤ (sFab op).time.toNat) ∧
    (sFab .read).planeNext.length = 16 ∧ (sFab .read).planeDrain.length = 16 ∧ (sFab .read).planePort.length = 16 ∧
    (∀ c ∈ (sFab .read).contexts, c.2.active = false) ∧ (∀ j < 16, portOf (sFab .read) j ≠ 17) ∧ portOf (sFab .read) 15 = 15 ∧
    (∀ j < 16, portOf (sFab .read) j = 15 → j = 15) ∧ SparePort (sFab .read) 0x37FFF 15 16 ∧ SparePort (sFab .read) 0x27FFF 15 17 ∧
    SparePort (sFab .read) 0x07FFF 15 7 ∧
    (let s : State := { sFab .read with planeNext := (sFab .read).planeNext.set 1 (some 16) }
     s.planeNext.getD 1 none = some 16 ∧ (∃ e ∈ s.fab, e.2.answer = none ∧ foldOf e.2.pa = 1) ∧
     ∀ e ∈ { s with fab := [] }.fab, e.2.answer = none → foldOf e.2.pa ≠ 1) := by
  refine ⟨rfl, ?_, ⟨⟨63, List.mem_singleton_self _⟩, rfl, rfl, .inr rfl, by decide, by decide⟩, ?_, by simp [atomicSize], ?_, rfl, rfl, rfl,
    by decide +kernel, by decide +kernel, by decide +kernel, by decide +kernel, ?_, ?_, ?_, by decide +kernel⟩
  · rintro r ⟨⟨k, hk⟩, -⟩
    simp [sLease] at hk
  · rintro r ⟨⟨k, hk⟩, -⟩
    simp [sLease] at hk
    rw [hk.2]; rfl
  · intro op hop
    refine ⟨rfl, rfl, fun k h => ?_, (by decide +kernel : 0 + 10 * 1400 ≤ (0xFFFFFFFF : W64).toNat)⟩
    obtain rfl : op = .message k := h
    simp at hop
  iterate 3 (unfold SparePort; decide +kernel)

/-- A context whose records are as the device holds them, and a frame pool of two slots of 1 MiB. -/
def sPre : State := { sR goodRecord with contexts := [(63, describes none (fieldsAt (sR goodRecord) 0x2F80) (fieldsAt (sR goodRecord) 0x4FC0))] }
def cPre : Context := (kget? sPre.contexts 63).get (by decide +kernel)
def tPre : Team := { tA with ctx := 63 }
def poolC : Context := { placedContext with fpool := 0x100000, fslot := 0x100000, nslot := 2 }
def sSave (t : Team) (cells : List Host.Cell) : State :=
  { haveA { wA with wait := some (wt (.bar 7)) } with teams := [(0, t)], contexts := [(0, poolC)], hbm := cells }
/-- A team that waits for a page, and a launch that would have its place. -/
def sSwap : State :=
  { sSave tA [] with
    launches := [(5, grid4)], time := 28000, pri := [(3, { priReq 0x5000 with since := 0, waiters := [.lane 1 0 31] })] }

theorem witness_PreemptedTeamsAreSavedAndRestored_saves : ReadyFor sPre 4 ∧ sPre.regs.preBusy = none ∧ sPre.bad = [] ∧ FabricIdle sPre ∧
    sPre.pri = [] ∧ sPre.priDenied = [] ∧ sPre.regs.presig + 8 ≤ 2 ^ 63 ∧ kget? sPre.contexts 63 = some cPre ∧
    cPre.active = true ∧ RereadsSame sPre 63 cPre ∧ RecordsGood (fieldsAt sPre 0x2F80) (fieldsAt sPre 0x4FC0) ∧ sPre.teams = [] ∧
    sPre.regs.preFull = false ∧ { cPre with active := false }.active = false ∧
    (let s : State := { sPre with teams := [(0, tPre)], warps := [(1, wA)] }
     (∃ e ∈ s.teams, e.2.ctx = 63) ∧ ksorted s.teams = true ∧ ksorted s.warps = true ∧
       (∀ e ∈ s.teams, e.2.ctx = 63 → e.2.preempting = false ∧ e.2.halted = none) ∧ NoTask s) ∧
    (kget? sSwap.contexts tA.ctx = some poolC ∧ poolC.pfTime ≠ 0xFFFFFFFF ∧
      (∃ r ∈ sSwap.pri, .lane 1 0 31 ∈ r.2.waiters ∧ r.2.since + poolC.pfTime * 1400 ≤ sSwap.time.toNat) ∧
      tA.desc.gangSize = 1 ∧ tA.preempting = false ∧ tA.halted = none ∧ NoTask sSwap) ∧ wouldFit sSwap 0 tA = true ∧
    Drained (sSave { tA with preempting := true } []) 0 { tA with preempting := true } ∧ FreeSlot (sSave { tA with preempting := true } [(0x100000, 1)]) poolC 1 ∧
    poolC.fpool + 4096 + 2 * poolC.fslot ≤ 2 ^ 63 ∧ { tA with preempting := true }.frameSize ≤ poolC.fslot ∧
    ∀ k, ¬ FreeSlot (sSave { tA with preempting := true } [(0x100000, 3)]) poolC k := by
  refine ⟨by unfold ReadyFor; decide +kernel, rfl, rfl, fabricIdle rfl, rfl, rfl, by decide, rfl, by decide +kernel,
    ?_, ?_, rfl, rfl, rfl, by unfold NoTask; decide +kernel, by unfold NoTask; decide +kernel, by decide +kernel, ⟨by exact (by decide +kernel : sE.fab = []),
      ⟨by exact (by decide +kernel : sE.fab = []), ?_, ?_⟩, ?_, by decide +kernel, by decide +kernel⟩, ?_, by decide +kernel, by decide +kernel, fun k h => ?_⟩
  · unfold RereadsSame; exact fun _ => by decide +kernel
  · unfold RecordsGood RecoveryGood; decide +kernel
  · exact (by decide +kernel : ∀ e ∈ sE.rdc0, e.2.dirty = 0)
  · exact (by decide +kernel : ∀ e ∈ sE.rdc1, e.2.dirty = 0)
  · intro e he _
    simp [sSave, haveA] at he; subst he
    exact ⟨by decide +kernel, by decide +kernel⟩
  · unfold FreeSlot; decide +kernel
  · have both : ∀ j < 2, ((sSave { tA with preempting := true } [(0x100000, 3)]).homeByte (.own (0x100000 + j / 8) 0)).getLsbD (j % 8) = true := by
      decide +kernel
    exact absurd (both k h.1) (Bool.eq_false_iff.mp h.2.1)

/-- A halted team for which no slot is free, and its one warp. -/
theorem witness_PreemptedTeamsAreSavedAndRestored_stays :
    let t : Team := { tA with preempting := true, halted := some wA.num }
    let s := sSave t [(0x100000, 3)]
    Drained s 0 t ∧ (∀ k, ¬ FreeSlot s poolC k) ∧ t.haltPosted = false ∧ { t with haltPosted := true }.haltPosted = true ∧
      ∃ j w, t.halted = some w.num ∧ s.warp? j = some w ∧ w.team = 0 ∧
        ∀ i x, s.warp? i = some x → x.team = 0 → x.num = w.num → i = j := by
  have both : ∀ j < 2, ((sSave { tA with preempting := true, halted := some wA.num } [(0x100000, 3)]).homeByte
      (.own (0x100000 + j / 8) 0)).getLsbD (j % 8) = true := by decide +kernel
  refine ⟨⟨by exact (by decide +kernel : sE.fab = []), ⟨by exact (by decide +kernel : sE.fab = []),
      by exact (by decide +kernel : ∀ e ∈ sE.rdc0, e.2.dirty = 0), by exact (by decide +kernel : ∀ e ∈ sE.rdc1, e.2.dirty = 0)⟩,
      ?_, by decide +kernel, by decide +kernel⟩, fun k h => absurd (both k h.1) (Bool.eq_false_iff.mp h.2.1), rfl, rfl,
    1, { wA with wait := some (wt (.bar 7)) }, rfl, rfl, rfl, fun i x hx _ _ => ?_⟩
  · intro e he _
    simp [sSave, haveA] at he; subst he
    exact ⟨by decide +kernel, by decide +kernel⟩
  · refine Decidable.byContradiction fun h => ?_
    have hn : ¬ (1 = i) := fun e => h e.symm
    have hx : (if 1 = i then some _ else kget? [] i) = some x := hx
    simp [hn, kget?] at hx

/-- A saved team of one epilogue warp in a frame at 0x101000, which the device may restore. -/
def frT : Team := { tA with desc := { tA.desc with ncopy := 0, nmaths := 0, nepi := 1, vregs := 8 } }
def fr : Frame := { ctx := 0, slot := 0, pa := 0x101000, pool := 0x100000, key := 0, team := frT, warps := [(1, wA)], copies := [], halt := none, queued := true, released := [], fault := false }
/-- FCHK of a frame whose device sections hold zeros. -/
def fchk : W32 := crc32 (frT.deviceSections.flatMap fun e => tab e.2 fun _ => 0)
def sFrame (cells : List Host.Cell) : State :=
  { sR cells with contexts := [(0, poolC)], frames := [(9, fr)] }
def frameCells (c : W32) : List Host.Cell :=
  [(0x101000, 1), (0x10103C, c.setWidth 8), (0x10103D, (c >>> 8).setWidth 8), (0x10103E, (c >>> 16).setWidth 8),
    (0x10103F, (c >>> 24).setWidth 8)]

theorem frameByte (cells : List Host.Cell) (a : Nat) : (sFrame cells).homeByte (.own a 0) = mget cells a := rfl

theorem sectionByte (c : W32) (off i : Nat) (ho : 0x200 ≤ off) :
    (sFrame (frameCells c)).homeByte (.own (0x101000 + off + i) 0) = 0 := by
  rw [frameByte]
  simp only [mget, frameCells, kget, kget?]
  repeat rw [if_neg (by omega)]
  rfl

theorem fchkField (c : W32) : keyedNat (sFrame (frameCells c)) (0x101000 + 0x3C) 0 4 = c.toNat := by
  have h0 : mget (frameCells c) 0x10103C = c.setWidth 8 := by simp [frameCells, mget, kget, kget?]
  have h1 : mget (frameCells c) 0x10103D = (c >>> 8).setWidth 8 := by simp [frameCells, mget, kget, kget?]
  have h2 : mget (frameCells c) 0x10103E = (c >>> 16).setWidth 8 := by simp [frameCells, mget, kget, kget?]
  have h3 : mget (frameCells c) 0x10103F = (c >>> 24).setWidth 8 := by simp [frameCells, mget, kget, kget?]
  simp only [keyedNat, frameByte, Claims.unitOf]
  simp [tab, lsum, List.range_succ, h0, h1, h2, h3, Nat.shiftRight_eq_div_pow]
  have := c.isLt
  omega

theorem frameSections (c : W32) :
    (frT.deviceSections.flatMap fun e => tab e.2 fun i => (sFrame (frameCells c)).homeByte (.own (0x101000 + e.1 + i) 0)) =
      frT.deviceSections.flatMap fun e => tab e.2 fun _ => 0 := by
  have eq : frT.deviceSections = [(0x1200, 0x8800), (frT.warpAt 0 + 0x500, 0x3200)] := by decide +kernel
  have w : 0x200 ≤ frT.warpAt 0 + 0x500 := Nat.le_trans (by decide) (Nat.le_add_left _ _)
  rw [eq]
  simp only [List.flatMap_cons, List.flatMap_nil]
  exact congr (congrArg _ (List.map_congr_left fun i _ => sectionByte c 0x1200 i (by decide)))
    (congrArg (· ++ []) (List.map_congr_left fun i _ => sectionByte c _ i w))

theorem frameGood (c : W32) (h : c = fchk) : FrameGood (sFrame (frameCells c)) fr := by
  constructor
  · exact (by simp [keyedNat, Claims.unitOf, tab, lsum, List.range_succ, frameByte, frameCells, mget, kget, kget?] :
      keyedNat (sFrame (frameCells c)) 0x101000 0 4 = 1)
  · refine (fchkField c).trans (congrArg BitVec.toNat (h.trans ?_))
    exact congrArg crc32 (frameSections c).symm

theorem witness_PreemptedTeamsAreSavedAndRestored_restores : (sFrame []).frames = [(9, fr)] ∧ ReadyFor (sFrame []) 5 ∧ (sFrame []).diesStopped = false ∧
    (sFrame []).bad = [] ∧ kget? (sFrame []).contexts fr.ctx = some poolC ∧ fr.team.desc.pairMode = false ∧ fr.team.cores.length = 1 ∧
    (∀ cells, gangAsks (sFrame cells) fr.team.gang = true) ∧ placeFits (sFrame (frameCells fchk)) (frameNeed (sFrame (frameCells fchk)) fr.team.gang) [383] = true ∧
    (∀ cells, earlierUse (sFrame cells) (gangOffer (sFrame cells) fr.team.gang) [383] = false) ∧
    (∀ cells, keptForOther (sFrame cells) none (gangOffer (sFrame cells) fr.team.gang).prio [383] = false) ∧ ¬ FrameGood (sFrame []) fr ∧
    FrameGood (sFrame (frameCells fchk)) fr ∧ fr.copies = [] ∧ fr.halt = none ∧ ksorted fr.warps = true ∧ fr.key < 128 ∧
    fr.pa = poolC.fpool + 4096 + fr.slot * poolC.fslot ∧ (∀ e ∈ fr.warps, e.2.part = 0) ∧ fr.released = [] ∧
    (∀ e ∈ (sFrame []).warps, e.2.team ≠ 9) ∧ (wt (.bar 7)).kind.keptCode = 3 ∧
    ∀ e ∈ fr.warps, ∀ x, e.2.wait = some x → x.kind.keptCode ∈ [1, 3, 4, 7] := by
  refine ⟨rfl, by unfold ReadyFor; decide +kernel, rfl, rfl, rfl, by decide +kernel, by decide +kernel, fun _ => rfl,
    by decide +kernel, fun _ => rfl, fun _ => rfl, fun h => absurd h.1 (by decide +kernel), frameGood _ rfl, rfl, rfl,
    by decide +kernel, by decide, by decide +kernel, by decide +kernel, rfl, by decide +kernel, by decide +kernel, ?_⟩
  intro e he x hx
  obtain rfl : e = (1, wA) := List.mem_singleton.mp he
  exact absurd hx (by rw [show ((1, wA) : Nat × Warp).2.wait = none from by decide +kernel]; simp)

/-! ## Witnesses: links, services and the machine as a whole -/

/-- Two contexts, one of them active, and a core with a team of two warps, one of which is in handler mode. -/
def sLink : State :=
  { two wA { wA with inh := true } with
    regs := { Regs.reset with ready := 0x7FF }, correctable := [(1, 0, 0)], bad := [(4, 5, 6), (1, 0, 2)]
    err := { sE.err with ctl := 0x80000004 } }

theorem witness_LostLinksAndScrubsActAsTheirRulesSay : ksorted sLink.contexts = true ∧ ksorted sLink.teams = true ∧
    ksorted sLink.warps = true ∧ sLink.diesStopped = false ∧ ReadyFor sLink 3 ∧ unitKey (.hbm 63) ∈ sLink.correctable ∧
    (unitKey (.hbm 64) ∉ sLink.correctable ∧ unitKey (.hbm 64) ∉ sLink.bad) ∧
    (unitKey (.hbm 128) ∉ sLink.correctable ∧ unitKey (.hbm 128) ∈ sLink.bad) ∧
    (unitKey (.onChip 4 5 6) ∉ sLink.correctable ∧ unitKey (.onChip 4 5 6) ∈ sLink.bad ∧ 4 ≤ (4 : BitVec 8).toNat) ∧
    sLink.team? 0 = some tA ∧ 0 ∈ tA.cores ∧ tA.halted = none ∧ (∀ e ∈ sLink.teams, 0 ∈ e.2.cores → e.1 = 0) ∧
    ∃ e ∈ sLink.warps, e.2.team = 0 ∧ e.2.exited = false := by
  refine ⟨by decide +kernel, by decide +kernel, by decide +kernel, by decide +kernel, by unfold ReadyFor; decide +kernel,
    by decide +kernel, by decide +kernel, by decide +kernel, by decide +kernel, rfl, by decide +kernel, by decide +kernel,
    by decide +kernel, ⟨(1, wA), List.mem_cons_self, by decide +kernel, by decide +kernel⟩⟩

/-- Window 15: enabled for reads and writes, under key slot 127, at address 0. -/
def sWin (l : KMap Lease) : State :=
  { sR [] with
    regs := { (sR []).regs with apwin := [(15, 0x7F07)] }, keys := [(127, ⟨true, []⟩)], leases := l }

theorem witness_PeerRequestsAreServedThroughTheirWindow : ReadyFor (sWin []) 10 ∧ (sWin []).bad = [] ∧
    windowBase (kget (sWin []).regs.apwin 15 0) + 2 ^ 32 ≤ Config.hbmBytes ∧
    WindowServes (sWin []) (kget (sWin []).regs.apwin 15 0) 0xFFFFFFFF 1 true ∧
    WindowServes (sWin []) (kget (sWin []).regs.apwin 15 0) 0xFFFFFFFF 1 false ∧ 0xFFFFFFFF + 1 ≤ 2 ^ 32 ∧
    ¬ WindowServes (sWin [(63, lease true .active)]) (kget (sWin []).regs.apwin 15 0) (2 ^ 30 - 1) 1 true ∧
    ¬ WindowServes (sWin []) (kget (sWin []).regs.apwin 14 0) 0 1 false ∧ ¬ ReadyFor State.reset 10 := by
  refine ⟨?_, rfl, by decide +kernel, ?_, ?_, by decide, fun h => ?_, fun h => ?_, ?_⟩
  · unfold ReadyFor; decide +kernel
  · unfold WindowServes LentTo; decide +kernel
  · unfold WindowServes LentTo; decide +kernel
  · exact h.2.2.2.2.2.2.2 ⟨(63, lease true .active), List.mem_singleton_self _, rfl, .inl rfl, by decide +kernel, by decide +kernel⟩
  · exact absurd h.1 (by decide +kernel)
  · unfold ReadyFor; decide +kernel

/-- The event queue of context 63, on or off. -/
def sEvq (on : Bool) : State := { sR [] with events := [(63, ⟨0x8000, on, 4, 0, false⟩)] }

theorem witness_RegisterWritesActAsTheirBlocksSay : (∀ k ∈ [0, 4, 5, 6, 9, 10], ReadyFor (sR []) k) ∧
    (∀ k ∈ [0, 4, 5, 6, 9, 10], ¬ ReadyFor State.reset k) ∧ (∃ c ∈ (sR []).contexts, c.2.active = true) ∧
    (∀ c ∈ { sR [] with contexts := [] }.contexts, c.2.active = false) ∧
    ((0x8000010100000005 : W64).getLsbD 31 = false ∧ (0x80000105 : W64).getLsbD 31 = true ∧ (0x80000105 : W64).getLsbD 0 = true) ∧
    ((0x80000105 : W64).toNat % 2 ^ 2 = 1 ∧ ((0x80000105 : W64) >>> 8).toNat % 4 = 1 ∧ (0x80000106 : W64).toNat % 2 ^ 2 = 2) ∧
    (sR []).regs.keyData.length = 64 ∧ QueueOn (queueOf (sEvq true) 63) ∧ ¬ QueueOn (queueOf (sEvq false) 63) ∧
    (0x80000105 : W64).toNat % 2 ^ 5 ≠ (queueOf (sEvq true) 63).logn ∧ (0x80000104 : W64).toNat % 2 ^ 5 = (queueOf (sEvq true) 63).logn ∧
    QueueOn { queueOf (sEvq false) 63 with enabled := true, logn := 5 } ∧ (queueOf (sEvq false) 63).base + 8 ≤ 2 ^ 63 := by
  refine ⟨?_, ?_, by decide +kernel, by decide +kernel, by decide, by decide, rfl, ?_, ?_, by decide +kernel, by decide +kernel, ?_,
    by decide +kernel⟩
  iterate 2 (unfold ReadyFor; decide +kernel)
  iterate 3 (unfold QueueOn; decide +kernel)

theorem witness_ResetAndBringUpLeadToReadyFunctions : ¬ ReadyFor State.reset 10 ∧ State.reset.diesStopped = false ∧
    (∃ k ∈ [0, 1, 2], ¬ ReadyFor State.reset k) ∧
    (∀ k ∈ [0, 1, 2], ReadyFor { State.reset with regs := { Regs.reset with ready := 0x7 } } k) ∧
    ¬ ReadyFor { State.reset with regs := { Regs.reset with ready := 0x7 } } 4 ∧ ReadyFor (sR []) 0 := by
  unfold ReadyFor; decide +kernel

/-- Objects of Nguyx: one of plain instructions, one with an instruction of a later level, and one that branches to a label. -/
def plainObj : NguyxObject := ⟨[], [.instr 1 (.nop wh) none], [], [], []⟩
def laterObj : NguyxObject := ⟨[], [.instr 2 (.nop wh) none], [], [], []⟩
def branchObj : NguyxObject :=
  ⟨[(0xFFFF, 0)], .instr 1 (.bra wh 0) (some (.target ⟨3, 0⟩)) :: [.instr 1 (.nop wh) none, .instr 1 (.smovi wh 1 2) none] ++ [.label 3],
    [], [], []⟩
def sObj : State :=
  { sR [] with nguyx := [(6, branchObj), (7, plainObj), (8, laterObj)], finalised := [(0, 8, .refused 0x22)], clocks := [(383, 700)] }

theorem witness_PowerDebugAndFinalisationActAsTheirRulesSay : ReadyFor sObj 9 ∧ (350 < kget sObj.clocks 383 1400 ∧
    kget sObj.clocks 383 1400 ≤ 1400) ∧ kget? sObj.paused 383 = none ∧ 383 ∉ sObj.gated ∧ (∀ e ∈ sObj.teams, 383 ∉ e.2.cores) ∧
    383 ∉ sObj.dbgHalted ∧ kget? sObj.nguyx 7 = some plainObj ∧ kget? sObj.nguyx 8 = some laterObj ∧
    (∃ r, (0, 8, r) ∈ sObj.finalised) ∧ (¬ ∃ r, (0, 7, r) ∈ sObj.finalised) ∧ (∃ level i target, NguyxText.instr level i target ∈ laterObj.text ∧ 1 < level) ∧
    (∀ i ∈ [Instr.nop wh, .smovi wh 1 2], encode i ≠ []) ∧ kget? sObj.nguyx 6 = some branchObj ∧
    (4 + lsum ([Instr.nop wh, .smovi wh 1 2].map (·.len)) = 16 ∧ ¬ ∃ r, (0, 6, r) ∈ sObj.finalised) := by
  refine ⟨by unfold ReadyFor; decide +kernel, by decide +kernel, by decide +kernel, by decide +kernel, by decide +kernel,
    by decide +kernel, rfl, rfl, ⟨_, List.mem_singleton_self _⟩, ?_, ⟨2, .nop wh, none, List.mem_singleton_self _, by decide⟩, by decide +kernel, rfl,
    by decide +kernel, ?_⟩ <;>
  · rintro ⟨r, hr⟩
    simp [sObj] at hr

theorem witness_EveryStepKeepsMemoryCanonical : State.memOk State.reset ∧ step State.reset = .next { State.reset with time := 1 } := by
  constructor
  · unfold State.memOk; decide +kernel
  · rfl

theorem witness_DecodingReadsBackEveryEncodedInstruction : wellFormed (.nop wh) = true ∧ encode (.nop wh) ≠ [] ∧
    wellFormed (.xjob wh 63 62 15) = true ∧ encode (.xjob wh 63 62 15) ≠ [] := by decide

/-! ## Single steps, with results that the manual's examples and tables give, or hand calculation from them -/

/-- Runs the instruction of a table word in a warp with some registers, and asks something of the warp after it. -/
def ran (nbits word : Nat) (v : KMap (List W32)) (s : KMap W32) (f : Warp → Bool) : Bool :=
  match decodeTableWord nbits word with
  | some i => match exec i (have_ { wE with v := v, s := s }) with | .next t => (t.warp? 1).elim false f | _ => false
  | none => false

/-- The same for an instruction. -/
def ranI (i : Instr) (v : KMap (List W32)) (s : KMap W32) (f : Warp → Bool) : Bool :=
  match exec i (have_ { wE with v := v, s := s }) with | .next t => (t.warp? 1).elim false f | _ => false

/-- Steps the machine once from reset with a word placed, and asks something of its warp. -/
def stepped (nbits word : Nat) (f : Warp → Bool) : Bool :=
  match step (State.reset.withFetchWord nbits word) with | .next t => (t.warp? 1).elim false f | _ => false

/-- A column whose lane l holds f l. -/
def lanes (f : Nat → Nat) : List W32 := tab 32 fun l => BitVec.ofNat 32 (f l)

/-! The table of examples of 07: icmp, ucmp, ffma, cvt, idiv, scmp. -/

theorem test_icmp_example : ran 64 0x0000388A1CC000C4 [(3, col 0xFFFFFFFF), (4, col 1)] [] (fun w =>
    w.pred 31 1 && !w.pred 31 2) = true := by decide +kernel

theorem test_ucmp_example : ran 64 0x0000388A1CC400C4 [(3, col 0xFFFFFFFF), (4, col 1)] [] (fun w =>
    !w.pred 31 1 && w.pred 31 2) = true := by decide +kernel

theorem test_ffma_zero_times_infinity : ran 64 0x0C0000001D0C5042 [(1, col 0), (2, col 0x7F800000), (3, col 0x3F800000)] []
    (fun w => w.vr 0 5 == 0x7FC00000 && w.fpflags == 0x10) = true := by decide +kernel

theorem test_cvt_toward_zero : ran 64 0x00000A661DC06080 [(2, col 0x43E88000)] [] (fun w =>
    w.vr 7 6 == 0x7E && w.fpflags == 0x01) = true := by decide +kernel

theorem test_cvt_overflows : ran 64 0x00000A601DC06080 [(2, col 0x43E88000)] [] (fun w =>
    w.vr 7 6 == 0x7F && w.fpflags == 0x05) = true := by decide +kernel

theorem test_idiv_by_zero : ran 32 0x1C385042 [(1, col 0xFFFFFFF9), (2, col 0)] [] (fun w =>
    w.vr 0 5 == 0x80000000 && w.fpflags == 0) = true := by decide +kernel

theorem test_scmp_example : ran 64 0x0000388AB8580105 [] [(4, 3), (5, 3)] (fun w => !w.qBit 1 && w.qBit 2) = true := by
  decide +kernel

/-! Integers: R144, R146 to R148 by hand. -/

theorem test_iadd_wraps : ranI (.iadd lh 3 1 2) [(1, col 0xFFFFFFFF), (2, col 2)] [] (fun w => w.vr 31 3 == 1) = true := by
  decide +kernel

theorem test_iadd_onto_a_source : ranI (.iadd lh 1 1 1) [(1, lanes id)] [] (fun w => w.vr 31 1 == 62) = true := by decide +kernel

theorem test_iadd_guard_false : ranI (.iadd ⟨false, false, 0⟩ 1 1 1) [(1, col 9)] [] (fun w => w.vr 5 1 == 9) = true := by
  decide +kernel

theorem test_iadds_clamps : ranI (.iadds lh 3 1 2) [(1, col 0x7FFFFFFF), (2, col 1)] [] (fun w => w.vr 0 3 == 0x7FFFFFFF) = true := by
  decide +kernel

theorem test_imulhi_signed : ranI (.imulhi lh 3 1 2) [(1, col 0xFFFFFFFF), (2, col 2)] [] (fun w => w.vr 0 3 == 0xFFFFFFFF) = true := by
  decide +kernel

theorem test_irem_sign : ranI (.irem lh 3 1 2) [(1, col 0xFFFFFFF9), (2, col 2)] [] (fun w => w.vr 0 3 == 0xFFFFFFFF) = true := by
  decide +kernel

theorem test_iadd64_carries : ranI (.iadd64 lh 4 0 2) [(0, col 0xFFFFFFFF), (2, col 1)] [] (fun w =>
    w.vr 0 4 == 0 && w.vr 0 5 == 1) = true := by decide +kernel

theorem test_shl_by_width : ranI (.shl lh 3 1 2) [(1, col 1), (2, col 32)] [] (fun w => w.vr 0 3 == 0) = true := by decide +kernel

theorem test_sar_past_width : ranI (.sar lh 3 1 2) [(1, col 0x80000000), (2, col 40)] [] (fun w => w.vr 0 3 == 0xFFFFFFFF) = true := by
  decide +kernel

theorem test_clz_of_zero : ranI (.clz lh 3 1) [(1, col 0)] [] (fun w => w.vr 0 3 == 32) = true := by decide +kernel

theorem test_lop3_majority : ranI (.lop3 lh 3 0 1 2 0xE8) [(0, col 0xC), (1, col 0xA), (2, col 0x6)] [] (fun w =>
    w.vr 0 3 == 0xE) = true := by decide +kernel

/-! Floats: R125, R151 by hand: 2^24 + 1 is halfway, and goes to the even neighbour. -/

theorem test_fadd_ties_to_even : ranI (.fadd lh 3 1 2) [(1, col 0x4B800000), (2, col 0x3F800000)] [] (fun w =>
    w.vr 0 3 == 0x4B800000 && w.fpflags == 1) = true := by decide +kernel

theorem test_frcp_of_zero : ranI (.frcp lh 3 1) [(1, col 0x80000000)] [] (fun w => w.vr 0 3 == 0xFF800000 && w.fpflags == 8) = true := by
  decide +kernel

theorem test_fsqrt_of_two : ranI (.fsqrt lh 3 1) [(1, col 0x40000000)] [] (fun w => w.vr 0 3 == 0x3FB504F3) = true := by decide +kernel

/-! Across lanes (R87 to R91): the sum of 0 to 31 is 496; the example of SHFL rotates segments of 16 by 4. -/

theorem test_reduce_adds : ranI (.reduce lh 3 1 .add) [(1, lanes id)] [] (fun w => w.vr 31 3 == 496) = true := by decide +kernel

theorem test_shfl_example : ran 64 0x000009221E003040 [(1, lanes id)] [] (fun w => w.vr 0 3 == 4 && w.vr 15 3 == 3 && w.vr 16 3 == 20) =
    true := by decide +kernel

theorem test_rdlane : ranI (.rdlane lh 5 1 0 false 31) [(1, lanes id)] [] (fun w => w.sr 5 == 31) = true := by decide +kernel

/-! Control (R76 to R78, R85): the examples of 04, from the word's address 0x10000. -/

theorem test_lbra_example : ran 32 0x06800003 [] [] (fun w => w.vpcOf 0 == 0x10004) = true := by decide +kernel

theorem test_bra_backwards : ran 32 0xB903FFFE [] [] (fun w => w.vpcOf 31 == 0xFFF8) = true := by decide +kernel

theorem test_call_sets_link : ranI (.call wh 3) [] [] (fun w => w.vpcOf 0 == 0x1000C && w.link == 0x10004) = true := by decide +kernel

theorem test_loopi_opens_a_record : ranI (.loopi wh 5 7) [] [] (fun w =>
    w.vpcOf 0 == 0x10008 && w.loops.map (·.exitAddr) == [0x1001C] && kget w.lc 0 0 == 5) = true := by decide +kernel

/-! Steps from reset with a word placed: MOVI, and IADDI of registers that hold zero. -/

theorem test_step_movi : stepped 64 0xDEADBEEF1CA45000 (fun w => w.vr 0 5 == 0xDEADBEEF && w.vr 31 5 == 0xDEADBEEF && w.vpcOf 0 == 0x10008) =
    true := by decide +kernel

theorem test_step_guard_false : stepped 64 0xDEADBEEF00A45000 (fun w => w.vr 0 5 == 0 && w.vpcOf 0 == 0x10008) = true := by decide +kernel

/-! Formats (R119, R125; the text of 06): 464 lies midway and rounds to 448 without overflow; e4m3 0x01 is 2^-9. -/

theorem test_e4m3_midway : (convert .e4m3 .rn false (valOf .f32 0x43E80000)).1 = 0x7E ∧
    (convert .f32 .rn false (valOf .e4m3 0x01)).1 = 0x3B000000 := by decide +kernel

/-! The walk of the example of 15: four levels to the leaf 0x60_1240_050F. -/

/-- The tables of the example, little-endian. -/
def exampleTables : List Host.Cell :=
  [(0x04000038, 0x01), (0x0400003A, 0x01), (0x0400003B, 0x04), (0x04010F00, 0x01), (0x04010F02, 0x02), (0x04010F03, 0x04),
    (0x04020000, 0x01), (0x04020001, 0x10), (0x04020002, 0x02), (0x04020003, 0x04), (0x04021008, 0x0F), (0x04021009, 0x05),
    (0x0402100A, 0x40), (0x0402100B, 0x12), (0x0402100C, 0x60)]

theorem test_walk_example : (match walk { State.reset with hbm := exampleTables, keys := [(5, ⟨true, []⟩)] } 4
      { placedContext with dptRoot := 0x04000000, keyMask := 0x20 } 0x7F0000200040 with
    | .leaf e => e.frame == 0x6012400000 && e.size == 21 && e.key == 5 && e.tier == 0 && e.rd && e.wr && !e.ex
    | _ => false) = true := by decide +kernel

/-! ## Witnesses for further clauses -/

theorem witness_FloatLaneWordsComplete : sE.warp? sE.cur = some wE ∧ wE.role = .epilogue ∧ wE.inh = false ∧
    (62 : Reg).toNat + 2 ≤ wE.vregs ∧ (60 : Reg).toNat + 4 ≤ wE.vregs ∧ (63 : Reg).toNat < wE.vregs ∧
    (∀ i ∈ [Instr.fadd lh 62 60 63, .ftanh lh 62 60, .hfma2 lh 62 60 63 63, .cvt lh 62 60 .s64 .n64 .rp true,
      .unpack lh 62 60 3 .e2m1], MayEndHere wE i) ∧ sixteenBits .f16 ∧ eightBits .e4m3 ∧ (1 : BitVec 2).toNat < 2 ∧
    narrowFmt .e5m2 ≠ none :=
  ⟨slotHolds.1, by decide, by decide, by decide, by decide, by decide, fun _ _ => mayEnd _, by simp [sixteenBits],
    by simp [eightBits, narrowFmt], by decide, by simp [narrowFmt]⟩

/-- A copy word whose warp still has a store in its queue. -/
def wBehind : Warp := { wCp with storeQ := [accX .spad false twoParts] }
theorem witness_CopyWordsEnterTheTable_behind : Issues (haveT wBehind tCp) wBehind wh ∧ InTeam (haveT wBehind tCp) wBehind tCp ∧
    LoadsDone wBehind ∧ wBehind.storeQ ≠ [] ∧ (haveT wBehind tCp).bad = [] ∧
    (∀ f ∈ copyForms wh 60 62 61 15 31 false 0, MayEndHere wBehind f.1) ∧
    CopyAccepted tCp wBehind (latched wBehind true 0 row16 60 62 61) 61 31 false := by
  refine ⟨issues, rfl, fun x hx => ?_, List.cons_ne_nil _ _, (by decide +kernel : sE.bad = []), fun _ _ => mayEnd _,
    by decide +kernel, by decide +kernel, by decide +kernel, by decide +kernel, by decide +kernel, by decide +kernel,
    fun _ => ⟨mbar 1 1 0 false, by decide +kernel, rfl⟩⟩
  exact absurd hx (by rw [show wBehind.windows = [] from by decide +kernel]; simp)

theorem witness_CopiesMoveBytesAndCreditTheirBarrier_order :
    let e := aCopy true 0 [1]
    let s := withCopies sCp [(127, e)]
    s.bad = [] ∧ e.xf.chain = 0 ∧ e.go = true ∧ e.work = Chunk.fresh ∧ tCp.preempting = false ∧
      (∀ c ∈ (s.core 0).copies, e.order < c.2.order → c.2.team ≠ e.team) ∧ ksorted (s.core 0).copies = true ∧
      (∀ line, line ∉ (kget tCp.spads 0 ⟨[], [], []⟩).absent) ∧
      ∀ w ∈ s.warps, ∀ y, w.2.wait = some y → ∀ b ph qd st lim, y.kind ≠ .mbwait b ph qd st lim := by
  refine ⟨(by decide +kernel : sE.bad = []), by decide +kernel, rfl, rfl, by decide +kernel, by decide +kernel, by decide +kernel,
    fun line => ?_, fun w hw y hy => ?_⟩
  · rw [show (kget tCp.spads 0 ⟨[], [], []⟩).absent = [] from by decide +kernel]; simp
  · obtain rfl : w = (1, wCp) := List.mem_singleton.mp hw
    exact absurd hy (by rw [show ((1, wCp) : Nat × Warp).2.wait = none from by decide +kernel]; simp)

/-- In this cycle a word of the last pipe has reached the pergola. -/
def tLater : Team := { tQ shut0 with pergTurn := [(15, (0, 5))] }
theorem witness_PergolaWordsActInTheirOrder_turns : MayReach (sQ wA shut0) wA (tQ shut0) 15 ∧
    ¬ MayReach (haveT wA tLater) wA tLater 15 ∧ (haveT wA tLater).time.toNat = 0 ∧ turnOf wA < 5 := by
  refine ⟨?_, fun h => ?_, by decide +kernel, by decide +kernel⟩
  · intro e he
    exact absurd he (by rw [show (tQ shut0).pergTurn = [] from by decide +kernel]; simp [kget?])
  · exact absurd (h (0, 5) rfl) (by decide +kernel)

/-- A warp pushes to an empty pergola while another has parked at a pop. -/
def sHand : State := { haveT wA tP with warps := [(1, wA), (2, { held popW with num := 1 })] }
theorem witness_PergolaWordsActInTheirOrder_hand : Issues sHand wA wh ∧ InTeam sHand wA tP ∧ MayEndHere wA (.qpush wh 62 15 .system .rlx) ∧
    MayReach sHand wA tP 15 ∧ Holding sHand 2 { held popW with num := 1 } (wt popW) ∧ (wt popW).kind = .popQ 15 60 1 true .system ∧
    (∀ e ∈ sHand.warps, e.1 = 2 → e.2 = { held popW with num := 1 }) ∧
    (∀ e ∈ sHand.warps, e.1 ≠ 2 → e.2.team = wA.team → ∀ y, e.2.wait = some y → ¬ (pushes 15 y.kind ∨ pops 15 y.kind)) ∧
    (pergolaOf tP 15).shut = false ∧ pergCount (pergolaOf tP 15) = 0 ∧ 0 < (pergolaOf tP 15).depth ∧ (63 : Reg).toNat = 63 := by
  refine ⟨issues, rfl, mayEnd _, ?_, ⟨rfl, rfl⟩, rfl, ?_, ?_, by decide +kernel, by decide +kernel, by decide +kernel, rfl⟩
  · intro e he
    exact absurd he (by rw [show tP.pergTurn = [] from by decide +kernel]; simp [kget?])
  · intro e he h
    simp [sHand] at he
    rcases he with rfl | rfl
    · simp at h
    · rfl
  · intro e he h _ y hy
    simp [sHand] at he
    rcases he with rfl | rfl
    · exact absurd hy (by rw [show ((1, wA) : Nat × Warp).2.wait = none from by decide +kernel]; simp)
    · simp at h

/-- The other context of the core has a step to take, so the one stepped last gives way. -/
def tBoth : Team := { tA with mats := [(0, ⟨2, 2, [op2 3 0]⟩), (1, ⟨3, 1, [op2 3 0]⟩)] }
theorem witness_MatrixWordsQueueAndStep_alternates :
    mustAlternate ((haveT wMat tBoth).setCore 0 { (haveT wMat tBoth).core 0 with lastMat := some 3 }) 0 3 = false ∧
    mustAlternate (((haveT wMat { tA with mats := [(0, ⟨0, 2, [op2 0 fw2]⟩), (1, ⟨1, 1, [op2 0 fw2]⟩)] })).setCore 0
      { (haveT wMat tBoth).core 0 with lastMat := some 1 }) 0 1 = true := by decide +kernel

theorem witness_GranulesSlotsAndWoundsGoByAge_order : (slotX [] [] [3]).unsent = [3] ∧
    (∀ rest, (slotX [] [] [2, 3]).unsent ≠ 3 :: rest) ∧ (∀ x ∈ (inTask wTask (slotX [] [] [3])).lockWait, x.1 ≠ 0) := by
  refine ⟨rfl, fun rest h => ?_, by decide +kernel⟩
  simp [slotX] at h

/-- TEAM_STALL has been raised on two warps; the second waits for the first to take it. -/
def sBoth : State := two (wPend .teamStall none) (wPend .teamStall none)
theorem witness_PendingCausesAreDelivered_order :
    sBoth.warp? 2 = some { wPend .teamStall none with num := 1 } ∧ ({ wPend .teamStall none with num := 1 } : Warp).opLog = [] ∧
    (∃ v ∈ sBoth.warps, v.2.team = 0 ∧ v.2.num < 1 ∧ ∃ q ∈ v.2.pending, q.1.cause = .teamStall) ∧
    ∀ v ∈ sBoth.warps, v.2.team = 0 → v.2.num < 0 → ∀ q ∈ v.2.pending, q.1.cause ≠ .teamStall := by decide +kernel

/-- A context of which jobs and no more are left, all complete. -/
theorem witness_ContextsAndKeySlotsChangeAsTheirCommandsSay_anew :
    CreatedAnew { sR [] with contexts := [], streams := [(1, ⟨7, [aJob 6 (some (0, 0)) true]⟩)] } 0 ∧
    ¬ CreatedAnew (sR []) 0 := by
  refine ⟨by unfold CreatedAnew; decide +kernel, fun h => ?_⟩
  exact absurd (h.1 { placedContext with pasid := 7 } rfl) (by decide +kernel)

/-- A request for a permission, and one for a missing page that two Success responses have not brought. -/
theorem witness_TranslationServicesAnswerTheirRequests_tries :
    { priReq 0x5000 with perm := true }.past = 0 ∧ (priReq 0x5000).perm = false ∧
    walk sPri 0 { placedContext with pasid := 7 } 0x5000 = .invalid ∧ triesFor sPri (siteOf (priReq 0x5000)) 0x5000 < 2 ∧
    2 ≤ triesFor { sPri with priTries := [(0, 0x5000, 2)] } (siteOf (priReq 0x5000)) 0x5000 := by decide +kernel

theorem witness_TeamsAndLaunchesBeginAndEnd_reading : kget? (sL [] [(5, { aLaunch with reading := true })]).launches 5 =
      some { aLaunch with reading := true } ∧ { aLaunch with reading := true }.status = none ∧
    ∃ c, kget? { sL [] [(5, aLaunch)] with contexts := [(0, { placedContext with retiring := true })] }.contexts aLaunch.ctx = some c ∧
      c.retiring = true ∧ c.active = true := ⟨rfl, rfl, _, rfl, rfl, rfl⟩

theorem witness_ReclaimedLeasesMoveToTheirFallback_order : (lease true .active).lender = true ∧
    ({ lease false .reclaiming with awaited := [511] }.awaited = [511]) ∧ (∀ j < 0, j ∈ (lease false .reclaiming).moved) ∧
    (511 ∉ (lease false .reclaiming).awaited ∧ ¬ ∀ j < 511, j ∈ (lease false .reclaiming).moved) ∧ (lease true .reclaiming).lbase % 128 = 0 ∧
    (lease true .reclaiming).size % 128 = 0 ∧ (lease false .reclaiming).fbase % 2 ^ 21 = 0 := by
  refine ⟨rfl, rfl, by omega, ⟨by decide, fun h => ?_⟩, rfl, by decide, by decide⟩
  exact absurd (h 0 (by decide)) (by decide)

/-- Two requests for one line: the second must wait for the first one's answer. -/
def sLine : State := { sFab .read with fab := [(8, fabReq .read), (9, { fabReq .read with order := 1 })] }
theorem witness_FabricRequestsAndPlanesAreServed_line : FirstOfLine sLine (fabReq .read) ∧
    ¬ FirstOfLine sLine { fabReq .read with order := 1 } ∧ (∀ w a b, (fabReq .read).who ≠ .lane w a b) ∧
    (∀ w a b, (fabReq .read).who ≠ .store w a b) ∧ (∀ w, (fabReq .read).who ≠ .fetch w) ∧
    (∀ w a, (fabReq .read).who ≠ .word w a) ∧ (∀ l ∈ (sFab .read).leases, l.2.unsent = none) ∧
    (0 < 128 ∧ (2 ^ 30 - 128) % 128 + 128 ≤ 128) ∧ 128 < (2 ^ 30 - 127) % 128 + 128 ∧ ([(127, 7)].map (·.1)).Nodup := by
  refine ⟨?_, fun h => ?_, nofun, nofun, nofun, nofun, by decide +kernel, by decide, by decide, by decide⟩
  · intro e he _ _ h4
    simp [sLine] at he
    rcases he with rfl | rfl <;> simp [fabReq] at h4
  · obtain ⟨k, hk⟩ := h (8, fabReq .read) (by simp [sLine]) rfl rfl (by decide) rfl
    simp [fabReq] at hk

/-- A team that an unhandled trap of its only warp has halted. -/
def tHalt : Team := { tA with preempting := true, halted := some wA.num }
theorem witness_PreemptedTeamsAreSavedAndRestored_halted : tHalt.halted = some wA.num ∧ (sSave tHalt []).team? 0 = some tHalt ∧
    (∀ i x, (sSave tHalt []).warp? i = some x → x.team = 0 → x.num = wA.num → i = 1) ∧ ksorted (sSave tHalt []).warps = true := by
  refine ⟨rfl, rfl, fun i x h _ _ => ?_, by decide +kernel⟩
  have k : (i, x) ∈ [(1, { wA with wait := some (wt (.bar 7)) })] := kgetMem h
  exact congrArg Prod.fst (List.mem_singleton.mp k)

end Sys2Proof.Tests
end

section
/-! What every word that is done leaves of its warp's place: the end test of the loops (R41, R86, R388) and the end of a word. -/

namespace Sys2Proof.Proofs

open Sys2Proof Sys2Proof.Machine Sys2Proof.Claims

/-! ## The end test of the loops (R86) -/

theorem loopTest_frame (act : LaneMask) (addr : Nat) (rs : List LoopRec) (w : Warp) :
    loopTest act addr rs w = { w with
      vpc := (loopTest act addr rs w).vpc, lc := (loopTest act addr rs w).lc, loops := (loopTest act addr rs w).loops } := by
  induction rs generalizing w with
  | nil => rfl
  | cons r rs ih =>
    simp only [loopTest]
    split
    · split
      · exact ih _
      · rfl
    · rfl

theorem handlerLoopTest_frame (addr : Nat) (rs : List LoopRec) (w : Warp) :
    handlerLoopTest addr rs w = { w with
      hpc := (handlerLoopTest addr rs w).hpc, hloops := (handlerLoopTest addr rs w).hloops } := by
  induction rs generalizing w with
  | nil => rfl
  | cons r rs ih =>
    simp only [handlerLoopTest]
    split
    · split
      · exact ih _
      · rfl
    · rfl

/-- Only the lanes that fell through are sent back to a loop's start. -/
theorem vpcOf_loopTest_of_not_active {act : LaneMask} {l : Nat} (addr : Nat) (rs : List LoopRec) (w : Warp) (hl : l < 32)
    (ha : laneBit act l = false) : (loopTest act addr rs w).vpcOf l = w.vpcOf l := by
  induction rs generalizing w with
  | nil => rfl
  | cons r rs ih =>
    simp only [loopTest]
    split
    · split
      · exact ih _
      · exact (vpcOf_moveLanes w act (fun _ => r.start) l hl).trans (if_neg (by simp [ha]))
    · rfl

theorem loopTest_of_no_end (act : LaneMask) {addr : Nat} {rs : List LoopRec} (w : Warp)
    (h : ∀ r, rs.head? = some r → r.exitAddr ≠ addr) : loopTest act addr rs w = { w with loops := rs } := by
  cases rs with
  | nil => rfl
  | cons r rs => simp only [loopTest, if_neg (h r rfl)]

theorem handlerLoopTest_of_no_end {addr : Nat} {rs : List LoopRec} (w : Warp)
    (h : ∀ r, rs.head? = some r → r.exitAddr ≠ addr) : handlerLoopTest addr rs w = { w with hloops := rs } := by
  cases rs with
  | nil => rfl
  | cons r rs => simp only [handlerLoopTest, if_neg (h r rfl)]

/-! ## Falling through to the next word (R41, R388) -/

/-- The warp stands where `w` stands, with the same loops and in the same mode. -/
structure KeepsPlace (w w1 : Warp) : Prop where
  inh : w1.inh = w.inh
  vpc : w1.vpc = w.vpc
  lc : w1.lc = w.lc
  loops : w1.loops = w.loops
  hpc : w1.hpc = w.hpc
  hloops : w1.hloops = w.hloops

theorem KeepsPlace.vpcOf {w w1 : Warp} (k : KeepsPlace w w1) (l : Nat) : w1.vpcOf l = w.vpcOf l := by
  simp only [Warp.vpcOf, k.vpc]

/-- Falling through changes the place of the warp alone. -/
theorem fallTo_frame (w : Warp) (act : LaneMask) (addr : Nat) :
    w.fallTo act addr = { w with
      vpc := (w.fallTo act addr).vpc, lc := (w.fallTo act addr).lc, loops := (w.fallTo act addr).loops
      hpc := (w.fallTo act addr).hpc, hloops := (w.fallTo act addr).hloops } := by
  unfold Warp.fallTo
  split
  · rw [handlerLoopTest_frame]
  · rw [loopTest_frame]; rfl

/-- Outside handler mode the handler's place stays, and the lanes that are not active stay. -/
theorem goesPast_fallTo_lanes {w w1 : Warp} {i : Instr} (k : KeepsPlace w w1) (hin : w.inh = false) :
    GoesPast w (w1.fallTo w.active (w.issueAddr + i.len)) i := by
  have hf : w1.fallTo w.active (w.issueAddr + i.len) = loopTest w.active (w.issueAddr + i.len) w.loops
      (w1.moveLanes w.active fun _ => w.issueAddr + i.len) := by
    simp [Warp.fallTo, k.inh, hin, k.loops]
  rw [hf]
  refine ⟨fun he => ?_, fun h => absurd h (by simp [hin]), fun _ => ⟨?_, ?_, fun l hl ha => ?_⟩⟩
  · have hno : ∀ r, w.loops.head? = some r → r.exitAddr ≠ w.issueAddr + i.len := fun r hr h =>
      he ⟨r, by simpa [hin] using hr, h⟩
    rw [loopTest_of_no_end _ _ hno]
    refine ⟨rfl, k.lc, k.hloops, ?_⟩
    rw [if_neg (by simp [hin])]
    refine ⟨k.hpc, fun l hl => ?_⟩
    rw [← k.vpcOf l]
    exact vpcOf_moveLanes w1 w.active (fun _ => w.issueAddr + i.len) l hl
  · rw [loopTest_frame]; exact k.hpc
  · rw [loopTest_frame]; exact k.hloops
  · rw [vpcOf_loopTest_of_not_active _ _ _ hl ha, vpcOf_moveLanes _ _ _ _ hl, if_neg (by simp [ha]), k.vpcOf]

/-- In handler mode the lanes and the interrupted code's loops stay. -/
theorem goesPast_fallTo_handler {w w1 : Warp} {i : Instr} (k : KeepsPlace w w1) (hin : w.inh = true) :
    GoesPast w (w1.fallTo w.active (w.issueAddr + i.len)) i := by
  have hf : w1.fallTo w.active (w.issueAddr + i.len) =
      handlerLoopTest (w.issueAddr + i.len) w.hloops { w1 with hpc := w.issueAddr + i.len } := by
    simp [Warp.fallTo, k.inh, hin, k.hloops]
  rw [hf]
  refine ⟨fun he => ?_, fun _ => ?_, fun h => absurd h (by simp [hin])⟩
  · have hno : ∀ r, w.hloops.head? = some r → r.exitAddr ≠ w.issueAddr + i.len := fun r hr h =>
      he ⟨r, by simpa [hin] using hr, h⟩
    rw [handlerLoopTest_of_no_end _ hno]
    refine ⟨k.loops, k.lc, rfl, ?_⟩
    rw [if_pos hin]
    exact ⟨rfl, k.vpc⟩
  · rw [handlerLoopTest_frame]; exact ⟨k.vpc, k.loops, k.lc⟩

theorem goesPast_fallTo {w w1 : Warp} (i : Instr) (k : KeepsPlace w w1) :
    GoesPast w (w1.fallTo w.active (w.issueAddr + i.len)) i := by
  cases hin : w.inh with
  | false => exact goesPast_fallTo_lanes k hin
  | true => exact goesPast_fallTo_handler k hin

/-! ## The end of a word (R71, R86) -/

theorem loopFault_of_mayEndHere {w : Warp} {i : Instr} (h : MayEndHere w i) (hn : neverEndsLoop i = false) :
    loopFault w i = false := by
  unfold loopFault
  simp only
  split
  · rfl
  · next r rs hr =>
    have hact : r.exitAddr = w.issueAddr + i.len → w.role = .epilogue → w.inh = false → w.active = w.live := fun he =>
      h ⟨r, by rw [hr]; rfl, he⟩
    simpa [hn] using hact

/-- A word that is done, keeps the place of its warp and ends no prologue (R327): its effect, and the warp goes on past it. -/
theorem finish_done_goesPast {s s1 : State} {w w1 : Warp} {i : Instr} (lanes : LaneMask) (hcur : s1.cur = s.cur)
    (hend : MayEndHere w i) (hn : neverEndsLoop i = false) (hp : endsPrologue i = false) (k : KeepsPlace w w1)
    (hc : w1.counted = w.counted) :
    ∃ w', finish s w i lanes (.done s1 w1) = .next (s1.setWarp s.cur w') ∧ GoesPast w w' i ∧ w' = placedAs w1 w' := by
  refine ⟨{ w1.fallTo w.active (w.issueAddr + i.len) with wait := none, counted := w.inh && w.counted }, ?_,
    goesPast_fallTo i k, ?_⟩
  · simp [finish, loopFault_of_mayEndHere hend hn, Warp.issued, hp, hcur]
  · rw [fallTo_frame]
    simp only [placedAs, k.inh, hc]

/-- A lane word whose register groups fit raises no decode cause in an epilogue warp outside handler mode (R71). -/
theorem laneOp_of_issuesLane {s : State} {w : Warp} {groups : List (Nat × Nat)} (i : Instr) (h : LaneHdr)
    (body : Warp → LaneMask → Res) (hi : IssuesLane s w) (hg : ∀ g ∈ groups, g.1 + g.2 ≤ w.vregs) :
    laneOp i h groups notInHandler s body = finish s w i (w.exec h) (body w (w.exec h)) := by
  obtain ⟨hw, -, hrole, hin⟩ := hi
  have hfit : (groups.any fun g => decide (w.vregs < g.1 + g.2)) = false := by simpa using hg
  have hc : decodeCause (w.role == .epilogue) (notInHandler w) groups [] w.vregs = none := by
    simp [decodeCause, hrole, notInHandler, hin, hfit]
  simp only [laneOp, hw, hc]

end Sys2Proof.Proofs
end

section
/-! JARR (R80). -/

namespace Sys2Proof.Proofs

open Sys2Proof Sys2Proof.Machine Sys2Proof.Claims

/-- The warp with rejoin mask `k` set; special register jm_k then holds no parity error (R392). -/
def withRejoinMask (w : Warp) (k : Nat) (m : LaneMask) : Warp := { w.soundSr (0x18 + k) with jm := kput w.jm k m }

theorem exec_jarr (h : LaneHdr) (acc : Bool) (k : BitVec 3) (s : State) :
    exec (.jarr h acc k) s = laneOp (.jarr h acc k) h [] notInHandler s fun w x =>
      .done s (withRejoinMask w k.toNat (if acc then kget w.jm k.toNat 0 ||| x else x)) := rfl

theorem keepsPlace_withRejoinMask (w : Warp) (k : Nat) (m : LaneMask) : KeepsPlace w (withRejoinMask w k m) :=
  ⟨rfl, rfl, rfl, rfl, rfl, rfl⟩

theorem soundAfter_withRejoinMask (w : Warp) (k : Nat) (m : LaneMask) : SoundAfter w (withRejoinMask w k m) :=
  fun _ hu => List.mem_of_mem_filter hu

theorem jm_withRejoinMask (w : Warp) (k : Nat) (m : LaneMask) (j : Nat) :
    kget (withRejoinMask w k m).jm j 0 = if j = k then m else kget w.jm j 0 := by
  split
  · next h => subst h; exact kget_kput_same _ _ _ _
  · next h => exact kget_kput_other _ _ _ h

/-- Settles O38: JARR's body writes one mask and keeps the warp's place, so the word completes as every word that is done. -/
theorem jarrSetsItsMask : Obligations.JarrSetsItsMask := by
  intro h acc k s w hi hend
  refine ⟨withRejoinMask w k.toNat (if acc then kget w.jm k.toNat 0 ||| w.exec h else w.exec h), ?_, rfl,
    soundAfter_withRejoinMask _ _ _, fun j => ?_⟩
  · unfold Completes
    rw [exec_jarr, laneOp_of_issuesLane _ _ _ hi (by simp)]
    exact finish_done_goesPast _ rfl hend rfl rfl (keepsPlace_withRejoinMask _ _ _) rfl
  · rw [jm_withRejoinMask]
    split
    · next hj => rw [hj]
    · rfl

end Sys2Proof.Proofs
end

section
/-! What a warp word with a row of results completes with (R70, R71, R92), when its body is done at once. -/

namespace Sys2Proof.Proofs

open Sys2Proof Sys2Proof.Machine Sys2Proof.Claims

/-! ## The results of a row -/

/-- The warp `w1` is `w` with the row's results, or with none when the guard is false, before it goes on past the word. -/
structure RowGives (row : WarpRow) (w w1 : Warp) : Prop where
  sound : SoundAfter w w1
  frame : w1 = { w with s := w1.s, q := w1.q, hq := w1.hq, fpflags := w1.fpflags, badRegs := w1.badRegs }
  q_handler : w.inh = true → w1.q = w.q
  hq_lanes : w.inh = false → w1.hq = w.hq
  sr : ∀ r, w1.sr r = if w.qGuard row.hdr then (row.reg w r).getD (w.sr r) else w.sr r
  qBit : ∀ n < 7, w1.qBit n = if w.qGuard row.hdr then (row.prd w n).getD (w.qBit n) else w.qBit n
  fpflags : w1.fpflags = w.fpflags ||| (if w.qGuard row.hdr then row.flags w else 0).zeroExtend 32

theorem rowGives_of_guard_false {row : WarpRow} {w : Warp} (hq : w.qGuard row.hdr = false) : RowGives row w w where
  sound := fun _ hu => hu
  frame := rfl
  q_handler := fun _ => rfl
  hq_lanes := fun _ => rfl
  sr := by simp [hq]
  qBit := by simp [hq]
  fpflags := by simp [hq]

theorem putS_getD (d : Reg) (f : Warp → W32) (w : Warp) (r : Nat) (x : W32) :
    (putS d f w r).getD x = if r = d.toNat then f w else x := by
  unfold putS
  split <;> rfl

/-- Where the guard is true, a row that gives one scalar register and nothing else gives the warp with that register set. -/
theorem rowGives_setS (i : Instr) {h : WarpHdr} (cls : Option Role) (groups : List (Nat × Nat)) (d : Reg) (f : Warp → W32)
    {w : Warp} (hq : w.qGuard h = true) :
    RowGives { word := i, hdr := h, cls := cls, groups := groups, reg := putS d f } w (w.setS d.toNat (f w)) where
  sound := fun _ hu => List.mem_of_mem_filter hu
  frame := rfl
  q_handler := fun _ => rfl
  hq_lanes := fun _ => rfl
  sr := fun r => by
    rw [sr_setS, if_pos hq]
    exact (putS_getD d f w r (w.sr r)).symm
  qBit := fun n _ => by rw [if_pos hq]; rfl
  fpflags := by simp [hq]

theorem RowGives.keepsPlace {row : WarpRow} {w w1 : Warp} (g : RowGives row w w1) : KeepsPlace w w1 := by
  rw [g.frame]
  exact ⟨rfl, rfl, rfl, rfl, rfl, rfl⟩

theorem RowGives.counted {row : WarpRow} {w w1 : Warp} (g : RowGives row w w1) : w1.counted = w.counted := by
  rw [g.frame]

/-! ## The words of such rows -/

/-- A warp word of any mode raises no decode cause in a warp that is ready for it (R71). -/
theorem warpOp_of_ready {row : WarpRow} {s : State} {w : Warp} (body : Warp → Res) (hr : row.Ready s w) :
    warpOp row.word row.hdr row.cls row.groups anyMode s body =
      finish s w row.word allLanes (if w.qGuard row.hdr then body w else .done s w) := by
  obtain ⟨hw, hcls, hgroups, -⟩ := hr
  have hrole : classOk row.cls w.role = true := by
    cases hc : row.cls with
    | none => rfl
    | some c => simp [classOk, hcls c hc]
  have hfit : (row.groups.any fun g => decide (64 < g.1 + g.2)) = false := by simpa using hgroups
  have hc : decodeCause (classOk row.cls w.role) (anyMode w) [] row.groups w.vregs = none := by
    simp [decodeCause, hrole, anyMode, hfit]
  simp only [warpOp, hw, hc]

/-- A word that is done with its row's results runs: the warp goes on past it. -/
theorem runs_of_finish_done {row : WarpRow} {s : State} {w w1 : Warp} (hr : row.Ready s w)
    (hn : neverEndsLoop row.word = false) (hp : endsPrologue row.word = false) (g : RowGives row w w1)
    (he : exec row.word s = finish s w row.word allLanes (.done s w1)) : row.Runs s w := by
  obtain ⟨-, -, -, hend⟩ := hr
  obtain ⟨w', hf, hpast, hplaced⟩ :=
    finish_done_goesPast (s := s) (s1 := s) allLanes rfl hend hn hp g.keepsPlace g.counted
  refine ⟨w', he.trans hf, hpast, fun u hu => g.sound u (congrArg Warp.badRegs hplaced ▸ hu), ?_,
    fun hin => (congrArg Warp.q hplaced).trans (g.q_handler hin), fun hin => (congrArg Warp.hq hplaced).trans (g.hq_lanes hin),
    fun r => (congrArg (·.sr r) hplaced).trans (g.sr r), fun n hlt => (congrArg (·.qBit n) hplaced).trans (g.qBit n hlt),
    (congrArg Warp.fpflags hplaced).trans g.fpflags⟩
  calc w' = placedAs w1 w' := hplaced
    _ = { placedAs w w' with s := w1.s, q := w1.q, hq := w1.hq, fpflags := w1.fpflags, badRegs := w1.badRegs } := by
      rw [g.frame]; rfl
    _ = { placedAs w w' with s := w'.s, q := w'.q, hq := w'.hq, fpflags := w'.fpflags, badRegs := w'.badRegs } := by
      rw [hplaced]; rfl

/-- A word whose body writes one scalar register, as its row says, runs. -/
theorem runs_of_warpOp_setS {i : Instr} {h : WarpHdr} {cls : Option Role} {groups : List (Nat × Nat)} {d : Reg}
    {f : Warp → W32} {s : State} {w : Warp} (body : Warp → Res)
    (hr : ({ word := i, hdr := h, cls := cls, groups := groups, reg := putS d f } : WarpRow).Ready s w)
    (hn : neverEndsLoop i = false) (hp : endsPrologue i = false)
    (he : exec i s = warpOp i h cls groups anyMode s body) (hb : body w = .done s (w.setS d.toNat (f w))) :
    ({ word := i, hdr := h, cls := cls, groups := groups, reg := putS d f } : WarpRow).Runs s w := by
  have hexec := he.trans (warpOp_of_ready body hr)
  cases hq : w.qGuard h with
  | true => exact runs_of_finish_done hr hn hp (rowGives_setS i cls groups d f hq) (by simpa [hq, hb] using hexec)
  | false => exact runs_of_finish_done hr hn hp (rowGives_of_guard_false hq) (by simpa [hq] using hexec)

end Sys2Proof.Proofs
end

section
/-! TSTAT (R326). -/

namespace Sys2Proof.Proofs

open Sys2Proof Sys2Proof.Machine Sys2Proof.Claims

/-- UNITS and GRAN of a task slot: the units of its buffer, and its granules held or requested, up to 1,023. -/
def taskCounts : Option TaskSlot → Nat × Nat
  | none => (0, 0)
  | some x => (x.buf.length, min 1023 (x.held.length + x.asked.length + x.unsent.length))

/-- The word that TSTAT writes. -/
def taskStatus (s : State) (w : Warp) : W32 :=
  let c := taskCounts (s.taskSlot w)
  BitVec.ofNat 32 (c.1 * 2 ^ 22 + c.2 * 2 ^ 12 + (if w.taskPending then 2 else 0) + (if w.taskst then 1 else 0))

theorem exec_tstat (h : WarpHdr) (sd : Reg) (s : State) :
    exec (.tstat h sd) s = warpOp (.tstat h sd) h (some .epilogue) [] anyMode s fun w =>
      .done s (w.setS sd.toNat (taskStatus s w)) := rfl

theorem taskSlot_of_no_task (s : State) {w : Warp} (h : w.task = none) : s.taskSlot w = none := by
  simp [State.taskSlot, h]

theorem taskSlot_of_slotOf {s : State} {w : Warp} {t : Task} {x : TaskSlot} (h : SlotOf s w t x) : s.taskSlot w = some x := by
  obtain ⟨ht, hx⟩ := h
  simp [State.taskSlot, ht, hx]

theorem taskStatus_of_no_task (s : State) {w : Warp} (h : w.task = none) :
    taskStatus s w = BitVec.ofNat 32 ((if w.taskPending then 2 else 0) + (if w.taskst then 1 else 0)) := by
  simp [taskStatus, taskSlot_of_no_task s h, taskCounts]

theorem taskStatus_of_slotOf {s : State} {w : Warp} {t : Task} {x : TaskSlot} (h : SlotOf s w t x) :
    taskStatus s w = BitVec.ofNat 32 ((if w.taskPending then 2 else 0) + (if w.taskst then 1 else 0) +
      (2 ^ 22 * x.buf.length + 2 ^ 12 * min 1023 (x.held.length + x.asked.length + x.unsent.length))) := by
  simp only [taskStatus, taskSlot_of_slotOf h, taskCounts]
  congr 1
  ring

/-- Settles O41: TSTAT's body writes the status word alone, whose fields are those of the task slot where the warp has one. -/
theorem tstatReportsTheTask : Obligations.TstatReportsTheTask := by
  intro h sd s w bits gives hready
  have runs : ∀ n, taskStatus s w = BitVec.ofNat 32 (bits + n) → (gives n).Runs s w := fun n hv =>
    runs_of_warpOp_setS _ hready rfl rfl (exec_tstat h sd s) (by rw [hv])
  exact ⟨fun ht => runs 0 (taskStatus_of_no_task s ht), fun k x hx => runs _ (taskStatus_of_slotOf hx)⟩

end Sys2Proof.Proofs
end
